-- ==== Sys2Proof/Word.lean ====
section
/-! DEFINITION. The word types of the Gwezal model: bytes, registers, lanes, bundles, and the sparse map that every
register file, store and memory of the model is written in. -/

namespace Sys2Proof

/-- A byte of memory (00 R6). -/
abbrev Byte := BitVec 8
/-- A 32-bit vector lane or scratchpad word (04 R77, 06 R108). -/
abbrev Lane := BitVec 32
/-- A 64-bit s register, m register or special register (02 R31). -/
abbrev Word := BitVec 64
/-- A 384-bit bundle (04 R66). -/
abbrev Bundle := BitVec 384

/-- A sparse map: index and value pairs. Canonical form: indices strictly rising, no value equal to the default.
The functions on it are in Machine/Maps.lean. -/
abbrev SMap (α : Type) := List (Nat × α)

end Sys2Proof
end

