-- ==== Sys2Proof/Syntax.lean ====
section
/-! DEFINITION. The syntax of the model: Instr, one constructor for each row of spec/opcode_table.json. A slot
instruction carries the fields of its encoding (04 R76-R79, chapters 20 to 23). A step that no slot holds (a step of an
engine, of the command processor, of the host) carries what names the unit that takes it. -/

namespace Sys2Proof

/-- A source s register with its policy bit: false blocks, true traps (04 R69, R76). -/
structure Src where
  reg : BitVec 6
  pol : Bool
deriving DecidableEq, Repr

/-- Format V.R of 04 Table 4-8, below the opcode; bit 0 is spare and zero. -/
structure VR where
  vd : BitVec 5
  va : BitVec 5
  pa : Bool
  vb : BitVec 5
  pb : Bool
  vc : BitVec 5
  pc : Bool
  msk : BitVec 4
  ty : BitVec 4
  rm : BitVec 3
  zi : Bool
  zo : Bool
  sat : Bool
  bsel : BitVec 2
deriving DecidableEq, Repr

/-- VCVT's layout, 23 Table 23-5. -/
structure VCvt where
  vd : BitVec 5
  va : BitVec 5
  pa : Bool
  msk : BitVec 4
  sf : BitVec 8
  df : BitVec 8
  rm : BitVec 3
  zi : Bool
  zo : Bool
  sat : Bool
  part : BitVec 3
deriving DecidableEq, Repr

/-- A vector register named by a 6-bit field: bit 5 selects the cluster (23 R342). -/
structure VSrc where
  reg : BitVec 6
  pol : Bool
deriving DecidableEq, Repr

/-- ATOM's layout, 20 Table 20-3. -/
structure AtomF where
  aop : BitVec 4
  sd : BitVec 6
  a : Src
  b : Src
  c : Src
  sz : Bool
  ord : BitVec 2
  scope : BitVec 4
  log : Bool
deriving DecidableEq, Repr

/-- COLL's layout, 20 Table 20-4. -/
structure CollF where
  group : BitVec 8
  a : Src
  b : Src
  c : Src
  op : BitVec 3
  ty : BitVec 2
deriving DecidableEq, Repr

/-- XFER's layout, 23 Table 23-9. -/
structure XferF where
  out : Bool
  a : Src
  b : Src
  c : Src
  e : Src
  arr : Bool
  lur : Bool
  cv : BitVec 2
deriving DecidableEq, Repr

/-- MMAC's layout, 04 R78. -/
structure MmacF where
  aset : Bool
  first : Bool
  last : Bool
  rows : BitVec 6
  abase : BitVec 6
  ascale : BitVec 6
  dprog : BitVec 6
  rq : BitVec 3
  strict : Bool
deriving DecidableEq, Repr

/-- FILL's layout, 21 Table 21-2. -/
structure FillF where
  a : Src
  b : Src
  c : Src
  mode : BitVec 2
  bps : Bool
deriving DecidableEq, Repr

/-- A drain micro-operation below its opcode, 04 R79. -/
structure DrainF where
  d : BitVec 3
  a : BitVec 4
  b : BitVec 4
  k : BitVec 5
  f : BitVec 4
deriving DecidableEq, Repr

/-- What a 64-byte memory request does (14 R225). -/
inductive ReqKind where
  /-- reads the line; its data go nowhere (the requester reads it again) -/
  | read
  /-- writes the whole line -/
  | write (data : BitVec 512)
  /-- brings a tape block into the stage of a head (07 R143) -/
  | stage (core : BitVec 7) (head : BitVec 4)
deriving DecidableEq, Repr

/-- A 64-byte memory request of core `core` in address space `asid` (14 R225). -/
structure MemReq where
  core : BitVec 7
  asid : BitVec 16
  va : BitVec 57
  kind : ReqKind
deriving DecidableEq, Repr

/-- A firmware image of the boot chain (15 R253): the hash of the key that signed it, whether its signature verifies, and its
firmware sequence number. -/
structure Firmware where
  keyHash : Nat
  verifies : Bool
  seq : Nat
deriving DecidableEq, Repr

/-- What an access does to its 64-byte line: it reads; it writes the bytes that its mask names; or it reads and writes `n` = 4
or 8 bytes from an offset in one step, as an operation of ATOM does (08 R160, 15 R245, 20 R284). -/
inductive LineOp where
  | read
  | write (mask : BitVec 64) (data : BitVec 512)
  | atomic (off : BitVec 6) (aop : BitVec 4) (dbl : Bool) (b c : BitVec 64)
deriving DecidableEq, Repr

/-- The seven slots fall into five classes, and the drain makes a sixth (04 R80). -/
inductive SlotClass where
  | scalar | vector | l | m | h | drain
deriving DecidableEq, Repr

/-- One constructor for each row of spec/opcode_table.json. -/
inductive Instr where
  -- the issue side (04 R63, 03 R54, 04 R70, 09 R165, 09 R168)
  | bundleFetch (ctx : BitVec 9)
  | mergeCycle (core : BitVec 7)
  | resultWriteback (ctx : BitVec 9)
  | owedTrapTaken (ctx : BitVec 9)
  | lateMemory (core : BitVec 7)
  -- scalar slots
  | add (d : BitVec 6) (a b : Src)
  | addi (d : BitVec 6) (a : Src) (imm : BitVec 13)
  | and (d : BitVec 6) (a b : Src)
  | andi (d : BitVec 6) (a : Src) (imm : BitVec 13)
  | andn (d : BitVec 6) (a b : Src)
  | barArrive (bar : BitVec 7) (a : Src)
  | barWait (bar : BitVec 7) (a : Src)
  | barSync (bar : BitVec 7) (a : Src)
  | br (a : Src) (cc : BitVec 3) (off : BitVec 16)
  | bwaitWait (d : BitVec 6) (bar : BitVec 7) (a : Src)
  | bwaitTest (d : BitVec 6) (bar : BitVec 7) (a : Src)
  | call (off : BitVec 16)
  | clz (d : BitVec 6) (a : Src)
  | cmp (d : BitVec 6) (a b : Src) (cond : BitVec 6)
  | cmpi (d : BitVec 6) (a : Src) (imm : BitVec 10) (cond : BitVec 3)
  | div (d : BitVec 6) (a b : Src)
  | exit
  | ifenceWait
  | ifenceLoad (d : BitVec 6) (a : Src)
  | ifenceEnter (a : Src) (overlay : Bool)
  | jmp (d : BitVec 6) (a : Src)
  | launch (d : BitVec 6) (a : Src) (q : BitVec 6)
  | li (d : BitVec 6) (imm : BitVec 13)
  | loop (a : Src) (cc : BitVec 3) (off : BitVec 16)
  | max (d : BitVec 6) (a b : Src)
  | mfsr (d : BitVec 6) (r : BitVec 6)
  | min (d : BitVec 6) (a b : Src)
  | mov (d : BitVec 6) (a : Src)
  | mtsr (r : BitVec 6) (a : Src)
  | mul (d : BitVec 6) (a b : Src)
  | mulh (d : BitVec 6) (a b : Src)
  | or (d : BitVec 6) (a b : Src)
  | ori (d : BitVec 6) (a : Src) (imm : BitVec 13)
  | popc (d : BitVec 6) (a : Src)
  | ret (a : Src)
  | rtt
  | sar (d : BitVec 6) (a b : Src)
  | sarImm (d : BitVec 6) (a : Src) (c : BitVec 6)
  | sel (d : BitVec 6) (a b : Src) (c : BitVec 6)
  | settle (scope : BitVec 4) (kind : BitVec 2) (domains : BitVec 7)
  | shl (d : BitVec 6) (a b : Src)
  | shlImm (d : BitVec 6) (a : Src) (c : BitVec 6)
  | shr (d : BitVec 6) (a b : Src)
  | shrImm (d : BitVec 6) (a : Src) (c : BitVec 6)
  | sub (d : BitVec 6) (a b : Src)
  | trap (imm : BitVec 13)
  | trigger
  | ttnext (d : BitVec 6)
  | xor (d : BitVec 6) (a b : Src)
  | xori (d : BitVec 6) (a : Src) (imm : BitVec 13)
  -- vector slots
  | vabs (o : VR)
  | vadd (o : VR)
  | vand (o : VR)
  | vclz (o : VR)
  | vcmp (o : VR)
  | vcvt (o : VCvt)
  | vdiv (o : VR)
  | vexp2 (o : VR)
  | vext (d : BitVec 6) (va : BitVec 5) (pa : Bool) (ln : BitVec 6) (ty : BitVec 4) (bp : Bool)
  | vfma (o : VR)
  | vidx (o : VR)
  | vlog2 (o : VR)
  | vmask (d : BitVec 6) (mx : BitVec 4)
  | vmaskWrite (mx : BitVec 4)
  | vmax (o : VR)
  | vmin (o : VR)
  | vmov (o : VR)
  | vmul (o : VR)
  | vneg (o : VR)
  | vnot (o : VR)
  | vor (o : VR)
  | vord (o : VR)
  | vperm (o : VR)
  | vpop (vd : BitVec 5) (q : BitVec 3) (qp : Bool) (mk : BitVec 4)
  | vredadd (o : VR)
  | vredmax (o : VR)
  | vredmin (o : VR)
  | vrng (vd va : BitVec 5) (pa : Bool) (mk : BitVec 4)
  | vsar (o : VR)
  | vscan (o : VR)
  | vsel (o : VR)
  | vshl (o : VR)
  | vshr (o : VR)
  | vsqrt (o : VR)
  | vsub (o : VR)
  | vxor (o : VR)
  | xmov (o : VR)
  -- L slot
  | fill (o : FillF)
  | sld (d : BitVec 6) (a : Src) (ty : BitVec 3) (off : BitVec 16)
  | sst (v a : Src) (ty : BitVec 3) (off : BitVec 16)
  | taglu (d : BitVec 6) (a : Src)
  | tagset (a b : Src)
  | vld (vr : BitVec 6) (a : Src) (mode : BitVec 2)
  | vldx (vr : BitVec 6) (vi : VSrc) (a : Src) (mx : BitVec 4)
  | vst (v : VSrc) (a : Src) (mode : BitVec 2)
  | vstq (q : BitVec 3) (a : Src) (qp : Bool)
  | vstx (v vi : VSrc) (a : Src) (mx : BitVec 4)
  | xform (c s d n : Src)
  -- M slot
  | dpload (a : Src) (prog : BitVec 6) (part : BitVec 2)
  | mcfg (a : Src)
  | mldb (head : BitVec 4) (lur : Bool)
  | mldh (a : Src)
  | mmac (o : MmacF)
  | mret (aset : Bool) (dprog : BitVec 6) (rq : BitVec 3)
  | mspc (a : Src)
  | mswap
  -- H slot
  | atom (o : AtomF)
  | coll (o : CollF)
  | hback (head : BitVec 4) (n : Src)
  | hclose (head : BitVec 4)
  | hmark (head : BitVec 4) (mark : Bool)
  | hopen (head : BitVec 4) (desc pos : Src) (mode : BitVec 2)
  | hpos (head : BitVec 4) (d : BitVec 6)
  | hread (head : BitVec 4) (dst n tb : Src) (fmt : BitVec 8) (bk raw sat lur : Bool)
  | hrewind (head : BitVec 4) (mark : Bool)
  | hskip (head : BitVec 4) (n : Src)
  | hwrite (head : BitVec 4) (src n tag : Src) (fmt : BitVec 8) (bk : Bool) (mode : BitVec 2) (lur sat : Bool)
  | qsend (q : BitVec 3) (a o : Src) (qp : Bool)
  | tbarrive (a : Src)
  | tbexpect (a n : Src)
  | tbinit (a n : Src)
  | tbwait (a g : Src)
  | xfer (o : XferF)
  -- drain micro-operations
  | dadd (o : DrainF)
  | dcvt (o : DrainF)
  | dend
  | dexp2 (o : DrainF)
  | dfma (o : DrainF)
  | dmax (o : DrainF)
  | dmin (o : DrainF)
  | dmul (o : DrainF)
  | dpush (a : BitVec 4) (sz : BitVec 2)
  | dqnt (o : DrainF)
  | drcp (o : DrainF)
  | dsto (a : BitVec 4) (k : BitVec 5) (skew : Bool) (sz : BitVec 2)
  -- steps of the engines; `op` numbers an outstanding operation of State.ops
  | dploadImageCheck (op : Nat)
  | headDescriptorRead (op : Nat)
  | ecountReread (core : BitVec 7) (head : BitVec 4)
  | headBlockFetch (core : BitVec 7) (head : BitVec 4)
  | headDelivery (op : Nat)
  | headWritePerform (op : Nat)
  | hposComplete (op : Nat)
  | headCloseComplete (op : Nat)
  | xferGranule (op : Nat)
  | xferComplete (op : Nat)
  | tbCredit (op : Nat)
  | tbarrivePerform (op : Nat)
  | tbexpectPerform (op : Nat)
  | qsendWrite (op : Nat)
  | remoteAccessPerform (op : Nat)
  | atomPerform (op : Nat)
  | xformComplete (op : Nat)
  | settleComplete (op : Nat)
  | triggerRelease (op : Nat)
  | launchPacketWrite (op : Nat)
  | ttnextReply (op : Nat)
  | barrierPhaseComplete (core : BitVec 7) (bar : BitVec 7)
  | mldbComplete (op : Nat)
  | mldhComplete (op : Nat)
  | mmacRowFetch (op : Nat)
  | mmacLastWrite (op : Nat)
  | mmacDropped (op : Nat)
  | forcedRetirement (core : BitVec 7) (set : Bool)
  | drainUnit (op : Nat)
  | drainQueueTimeout (op : Nat)
  | drainComplete (op : Nat)
  | slabFailure (core : BitVec 7) (floor : BitVec 2)
  | floorThrottle (tower : Bool) (floor : BitVec 2) (power : Bool)
  | thermalShutdown
  -- strands, jobs and the command processor
  | preempt (seq : Nat) (strand : Nat)
  | strandSave (ctx : BitVec 9)
  | strandRestore (seq : Nat) (strand : Nat)
  | pendingResultToSlot (op : Nat)
  | stateMachineCheck (ctx : BitVec 9)
  | jobAdmission
  | strandPlacement
  | jobStart (seq : Nat)
  | jobCompletion (seq : Nat)
  | jobRerun (seq : Nat)
  -- the memory system
  | memoryRequest (r : MemReq)
  | migrationFlip (frame : BitVec 27) (accepted : Bool)
  | attendanceIntervalEnd
  -- register writes of the host with an effect of their own
  | sqwr (fn : BitVec 6) (queue : BitVec 9) (value : BitVec 16)
  | cqrd (fn : BitVec 6) (queue : BitVec 9) (value : BitVec 16)
  | replay
  | abort (asid : BitVec 16) (page : BitVec 41)
  | dispResume (seq : BitVec 56) (strand : BitVec 13)
  | dispKill (seq : BitVec 56) (strand : BitVec 13)
  | igo
  | pgo
  | chartMap (frame : BitVec 27) (charg : BitVec 64)
  | chartUnmap (frame : BitVec 27)
  | chartPin (frame : BitVec 27)
  | chartUnpin (frame : BitVec 27)
  | chartRevoke (frame : BitVec 27)
  | chartMove (frame : BitVec 27) (charg : BitVec 64)
  | chartPool (frame : BitVec 27) (charg : BitVec 64)
  | chartRead (frame : BitVec 27)
  | run
  | streamEnable (stream : BitVec 4)
  | debugStop (seq : BitVec 56) (strand : BitVec 13)
  | debugRead (seq : BitVec 56) (strand : BitVec 13)
  | debugWrite (seq : BitVec 56) (strand : BitVec 13)
  | debugResume (seq : BitVec 56) (strand : BitVec 13)
  | debugKill (seq : BitVec 56) (strand : BitVec 13)
  | registerWrite (fn : BitVec 7) (off : BitVec 20) (value : BitVec 64)
  | spdmRequest (tenant : BitVec 16) (open_ : Bool)
  -- the Timetable and the Bell
  | timetableTrigger
  | iterationBoundary
  | bellTick (stream : BitVec 4)
  | bellGraceExpiry (stream : BitVec 4)
  | dtimeCorrection (target : BitVec 64)
  -- the fabric
  | collBegin (op : Nat)
  | collComplete (op : Nat)
  | collAbort (op : Nat) (reason : BitVec 4) (rank : BitVec 15)
  | colltoExpiry (op : Nat)
  | portDown (port : BitVec 4)
  | linkRetry (port : BitVec 4)
  -- host, resets, environment
  | hostMemoryAccess (addr : BitVec 52) (act : LineOp)
  | functionLevelReset (vf : BitVec 6)
  | warmReset
  | coldReset (stages : List Firmware)
  | ifenceLoadComplete (op : Nat)
  | memoryStackOffline (stack : BitVec 4)
  | scrubberPoison (asid : BitVec 16) (group : BitVec 57) (block : BitVec 5)
  | uncorrectableMediaError (line : Nat)
  | portUp (port : BitVec 4)
  | throttleLifted (tower : Bool) (floor : BitVec 2) (power : Bool)
  | refreshWindowEnd (stack : BitVec 4)
  | powerLoss
deriving DecidableEq, Repr

end Sys2Proof
end

