-- ==== Sys2Proof/WellFormed.lean ====
section
/-! DEFINITION. Well-formed instructions: the field values that the formats and the reference entries assign. A slot
instruction that is not well-formed fails check 7 of 04 Table 4-4; a drain micro-operation that is not fails its
DPLOAD (12 R209). A step that no slot holds carries no encoding and is always well-formed. -/

namespace Sys2Proof

/-- The binary8 codes of 05 Table 5-1: P is 1 to 7 in each of the four variants. -/
def isBinary8 (c : BitVec 8) : Bool := c.toNat < 0x20 && c.toNat % 8 != 0

/-- The format codes of head commands, 07 R135. -/
def headFormat (c : BitVec 8) : Bool :=
  isBinary8 c || (0x20 ≤ c.toNat && c.toNat ≤ 0x23) || (0x30 ≤ c.toNat && c.toNat ≤ 0x33)

/-- The format codes of VCVT, 23 R339. -/
def cvtFormat (c : BitVec 8) : Bool := headFormat c || c == 0x34#8

/-- The width in bits of a format code that VCVT accepts (05 Table 5-1). -/
def fmtWidth (c : BitVec 8) : Nat :=
  if isBinary8 c || c == 0x22#8 || c == 0x23#8 then 8
  else if c == 0x20#8 || c == 0x21#8 then 4
  else if c == 0x30#8 || c == 0x31#8 then 16 else 32

/-- The number of sources a format V.R instruction reads, the codes its VC field may hold when that is a function
code, and the lane types it lists (23 Tables 23-3 and 23-8, R338, R341, R352). -/
structure VRShape where
  /-- sources read: 0 to 3 -/
  sources : Nat
  /-- VC holds a function code below this, or is a source when `sources` is 3 -/
  codes : Nat := 1
  f32 : Bool := true
  int : Bool := true
  /-- every RM below this is assigned -/
  rms : Nat := 5
deriving DecidableEq, Repr

/-- The field rules of format V.R (04 R77, 23 R335): type, rounding, unread sources, and the replaced field. -/
def VR.ok (sh : VRShape) (o : VR) : Bool :=
  (o.ty == 0#4 && sh.f32 || (o.ty == 1#4 || o.ty == 2#4) && sh.int)
  && o.rm.toNat < sh.rms
  && (1 ≤ sh.sources || o.va == 0#5 && o.pa == false)
  && (2 ≤ sh.sources || o.vb == 0#5 && o.pb == false)
  && (3 ≤ sh.sources || o.vc.toNat < sh.codes && o.pc == false)
  && o.bsel.toNat ≤ sh.sources
  && (o.bsel != 1#2 || o.va == 0#5 && o.pa == false)
  && (o.bsel != 2#2 || o.vb == 0#5 && o.pb == false)
  && (o.bsel != 3#2 || o.vc == 0#5 && o.pc == false)

/-- The drain selector of a field that its micro-operation uses: 12 to 15 are unassigned (04 Table 4-9). -/
def drainSel (a : BitVec 4) : Bool := a.toNat < 12

/-- DADD, DMUL, DMAX and DMIN: with KSEL (F[3]) the second operand is a constant and B is zero (12 Table 12-2). -/
def DrainF.okTwo (o : DrainF) : Bool :=
  drainSel o.a && (if o.f.getLsbD 3 then o.b == 0#4 else drainSel o.b && o.k == 0#5)

/-- DEXP2 and DRCP. -/
def DrainF.okOne (o : DrainF) : Bool := drainSel o.a && o.b == 0#4 && o.k == 0#5 && o.f.getLsbD 3 == false

/-- Well-formedness: every field holds an assigned value and every unused field is zero. DESIGN CHOICE (log 10): FILL with BPS
= 1 asks for PC 0 as it does for SC 0; Table 21-2 states the zero for SC alone. -/
def Instr.wf : Instr → Bool
  | .barArrive bar _ | .barWait bar _ | .barSync bar _ => bar.toNat < 96
  | .bwaitWait _ bar _ | .bwaitTest _ bar _ => bar.toNat < 96
  | .br a cc _ => cc != 7#3 && (cc != 6#3 || a.reg == 0#6 && a.pol == false)
  | .cmp _ _ _ cond => cond.toNat < 6
  | .cmpi _ _ _ cond => cond.toNat < 6
  | .loop a cc _ => cc.toNat < 6 && a.reg != 0#6
  | .mfsr _ r | .mtsr r _ => r.toNat < 0x1A || 0x20 ≤ r.toNat
  | .ret a => a.reg != 0#6
  | .settle scope kind domains => scope.toNat ≤ 8 && kind != 0#2 && domains != 0#7
  | .vabs o | .vmov o | .vneg o | .vnot o => o.ok { sources := 1 }
  | .vadd o | .vand o | .vdiv o | .vmul o | .vor o | .vsub o | .vxor o => o.ok { sources := 2 }
  | .vclz o => o.ok { sources := 1, f32 := false }
  | .vcmp o => o.ok { sources := 2, codes := 6 } && o.vd.toNat < 16 && o.rm == 0#3 && o.zo == false && o.sat == false
  | .vcvt o =>
    cvtFormat o.sf && cvtFormat o.df && o.rm.toNat < 5
    && (if fmtWidth o.sf == 32 && fmtWidth o.df == 32 then o.part == 0#3
        else (fmtWidth o.sf == 32 || o.part.toNat < 32 / fmtWidth o.sf)
          && (fmtWidth o.df == 32 || o.part.toNat < 32 / fmtWidth o.df))
  | .vexp2 o | .vlog2 o => o.ok { sources := 1, int := false, rms := 1 }
  | .vext _ _ _ ln ty bp => ty.toNat < 3 && (bp == false || ln == 0#6)
  | .vfma o => o.ok { sources := 3 }
  | .vidx o => o.ty != 0#4 && o.ty.toNat < 3 && o.rm.toNat < 5 && o.va == 0#5 && o.pa == false && o.vb == 0#5
      && o.pb == false && o.vc == 0#5 && o.pc == false && o.bsel.toNat < 2
  | .vmax o | .vmin o => o.ok { sources := 2, codes := 2 }
  | .vord o => o.ok { sources := 1, codes := 2 }
  | .vperm o => o.ok { sources := 2 }
  | .vredadd o | .vscan o => o.ok { sources := 1, rms := 4 }
  | .vredmax o | .vredmin o => o.ok { sources := 1 }
  | .vsar o | .vshl o | .vshr o => o.ok { sources := 2, f32 := false }
  | .vsel o => o.ok { sources := 2, codes := 16 }
  | .vsqrt o => o.ok { sources := 1, int := false }
  | .xmov o => o.ok { sources := 1 } && o.bsel == 0#2
  | .fill o => o.mode != 3#2 && (o.bps == false || o.c.reg == 0#6 && o.c.pol == false)
  | .sld _ _ ty _ | .sst _ _ ty _ => ty != 7#3
  | .vld _ _ mode | .vst _ _ mode => mode != 3#2
  | .dpload _ _ part => part != 0#2
  | .atom o => o.aop.toNat < 10 && o.scope.toNat ≤ 8 && (o.aop == 2#4 || o.c.reg == 0#6 && o.c.pol == false)
  | .coll o => o.op.toNat < 6 && o.ty != 3#2 && (3 ≤ o.op.toNat || o.c.reg == 0#6 && o.c.pol == false)
  | .hopen _ _ _ mode => mode != 0#2
  | .hread _ _ _ _ fmt bk raw sat _ => (headFormat fmt || raw && fmt == 0#8) && (raw == false || bk == false && sat == false)
  | .hwrite _ _ _ tag fmt bk mode _ _ =>
    headFormat fmt && mode != 3#2 && (mode != 2#2 || bk == false)
    && (mode != 0#2 || tag.reg == 0#6 && tag.pol == false)
  | .xfer o => o.cv != 3#2 && (o.arr == false || o.e.reg != 0#6)
  | .dadd o | .dmax o | .dmin o | .dmul o => o.okTwo
  | .dcvt o => drainSel o.a && o.b == 0#4 && o.f.getLsbD 3 == false
  | .dqnt o => drainSel o.a && o.b == 0#4 && o.f.getLsbD 3 == false && o.k != 31#5
  | .dexp2 o | .drcp o => o.okOne
  | .dfma o => drainSel o.a && drainSel o.b && o.f.getLsbD 3 == false
  | .dpush a sz => drainSel a && sz != 3#2
  | .dsto a k skew sz => drainSel a && sz != 3#2 && k != 31#5 && (skew == false || sz == 0#2)
  | _ => true

end Sys2Proof
end

