-- ==== Sys2Proof/Decode.lean ====
section
/-! DEFINITION. The decoder: slot words, drain code words, and whole bundles, total on any bits and rejecting by name
(04 R66, R67, R76-R80); after it the encoder, written from the same encoding tables. -/

namespace Sys2Proof

/-- Why a slot word holds no instruction: its opcode is unassigned (check 4) or a field is (check 7). -/
inductive SlotReject where
  | unassigned
  | badField
deriving DecidableEq, Repr

/-- An s register field whose lowest bit is `r`, with its policy bit at `p`. -/
def srcAt {n : Nat} (w : BitVec n) (r p : Nat) : Src := ⟨w.extractLsb' r 6, w.getLsbD p⟩

/-- A 6-bit vector register field, 23 R342. -/
def vsrcAt {n : Nat} (w : BitVec n) (r p : Nat) : VSrc := ⟨w.extractLsb' r 6, w.getLsbD p⟩

/-- The instruction, when the bits of `spare` are zero in `w` and every field is assigned (check 7). -/
def checked {n : Nat} (w : BitVec n) (spare : Nat) (i : Instr) : Except SlotReject Instr :=
  if w &&& BitVec.ofNat n spare == 0#n && i.wf then .ok i else .error .badField

/-- A scalar slot word, 04 Tables 4-7 and 4-10. -/
def decodeScalar (w : BitVec 32) : Except SlotReject Instr :=
  let d := w.extractLsb' 20 6
  let a := srcAt w 14 13
  let b := srcAt w 7 6
  let imm := w.extractLsb' 0 13
  let sb := srcAt w 20 19
  let cc := w.extractLsb' 16 3
  let off := w.extractLsb' 0 16
  let fn := w.extractLsb' 0 6
  let unit := w.extractLsb' 6 7
  let sh := w.extractLsb' 7 6
  match (w.extractLsb' 26 6).toNat with
  | 0x01 => checked w 0x3F (.add d a b)
  | 0x02 => checked w 0 (.addi d a imm)
  | 0x03 => checked w 0x3F (.and d a b)
  | 0x04 => checked w 0 (.andi d a imm)
  | 0x05 => checked w 0x3F (.andn d a b)
  | 0x06 =>
    match (w.extractLsb' 4 2).toNat with
    | 0 => checked w 0x03F0000F (.barArrive unit a)
    | 1 => checked w 0x03F0000F (.barWait unit a)
    | 2 => checked w 0x03F0000F (.barSync unit a)
    | _ => .error .badField
  | 0x07 => checked w 0 (.br sb cc off)
  | 0x08 =>
    match (w.extractLsb' 4 2).toNat with
    | 0 => checked w 0x0F (.bwaitWait d unit a)
    | 1 => checked w 0x0F (.bwaitTest d unit a)
    | _ => .error .badField
  | 0x09 => if cc == 6#3 then checked w 0x03F80000 (.call off) else .error .badField
  | 0x0A => checked w 0x1FFF (.clz d a)
  | 0x0B => checked w 0 (.cmp d a b fn)
  | 0x0C => checked w 0 (.cmpi d a (w.extractLsb' 3 10) (w.extractLsb' 0 3))
  | 0x0D => checked w 0x3F (.div d a b)
  | 0x0E => checked w 0x03FFFFFF .exit
  | 0x0F =>
    match (w.extractLsb' 0 2).toNat with
    | 0 => checked w 0x03FFFFFF .ifenceWait
    | 1 => checked w 0x1FFC (.ifenceLoad d a)
    | 2 => checked w 0x03F01FF8 (.ifenceEnter a (w.getLsbD 2))
    | _ => .error .badField
  | 0x10 => checked w 0x1FFF (.jmp d a)
  | 0x11 => checked w 0x1FC0 (.launch d a fn)
  | 0x12 => checked w 0xFE000 (.li d imm)
  | 0x13 => checked w 0 (.loop sb cc off)
  | 0x14 => checked w 0x3F (.max d a b)
  | 0x15 => checked w 0xFFFC0 (.mfsr d fn)
  | 0x16 => checked w 0x3F (.min d a b)
  | 0x17 => checked w 0x1FFF (.mov d a)
  | 0x18 => checked w 0x03F01FC0 (.mtsr fn a)
  | 0x19 => checked w 0x3F (.mul d a b)
  | 0x1A => checked w 0x3F (.mulh d a b)
  | 0x1B => checked w 0x3F (.or d a b)
  | 0x1C => checked w 0 (.ori d a imm)
  | 0x1D => checked w 0x1FFF (.popc d a)
  | 0x1E => checked w 0x03F01FFF (.ret a)
  | 0x1F => checked w 0x03FFFFFF .rtt
  | 0x20 => if w.getLsbD 0 then checked w 0x7E (.sarImm d a sh) else checked w 0x3E (.sar d a b)
  | 0x21 => checked w 0 (.sel d a b fn)
  | 0x22 => checked w 0x03FFE000 (.settle (w.extractLsb' 9 4) (w.extractLsb' 7 2) (w.extractLsb' 0 7))
  | 0x23 => if w.getLsbD 0 then checked w 0x7E (.shlImm d a sh) else checked w 0x3E (.shl d a b)
  | 0x24 => if w.getLsbD 0 then checked w 0x7E (.shrImm d a sh) else checked w 0x3E (.shr d a b)
  | 0x25 => checked w 0x3F (.sub d a b)
  | 0x26 => checked w 0x03FFE000 (.trap imm)
  | 0x27 => checked w 0x03FFFFFF .trigger
  | 0x28 => checked w 0xFFFFF (.ttnext d)
  | 0x29 => checked w 0x3F (.xor d a b)
  | 0x2A => checked w 0 (.xori d a imm)
  | _ => .error .unassigned

/-- The fields of format V.R, 04 Table 4-8. -/
def vrOf (w : BitVec 48) : VR where
  vd := w.extractLsb' 35 5
  va := w.extractLsb' 30 5
  pa := w.getLsbD 29
  vb := w.extractLsb' 24 5
  pb := w.getLsbD 23
  vc := w.extractLsb' 18 5
  pc := w.getLsbD 17
  msk := w.extractLsb' 13 4
  ty := w.extractLsb' 9 4
  rm := w.extractLsb' 6 3
  zi := w.getLsbD 5
  zo := w.getLsbD 4
  sat := w.getLsbD 3
  bsel := w.extractLsb' 1 2

/-- The fields of VCVT, 23 Table 23-5. -/
def vcvtOf (w : BitVec 48) : VCvt where
  vd := w.extractLsb' 35 5
  va := w.extractLsb' 30 5
  pa := w.getLsbD 29
  msk := w.extractLsb' 25 4
  sf := w.extractLsb' 17 8
  df := w.extractLsb' 9 8
  rm := w.extractLsb' 6 3
  zi := w.getLsbD 5
  zo := w.getLsbD 4
  sat := w.getLsbD 3
  part := w.extractLsb' 0 3

/-- VMASK, 23 Table 23-6: DIR 0 reads mask MX into SD, DIR 1 writes mask MX from the broadcast port. -/
def decodeVMask (w : BitVec 48) : Except SlotReject Instr :=
  match w.getLsbD 29, (w.extractLsb' 1 2).toNat with
  | false, 0 => checked w 0x1FFFFFF9 (.vmask (w.extractLsb' 34 6) (w.extractLsb' 30 4))
  | true, 1 => checked w 0xFC1FFFFFF9 (.vmaskWrite (w.extractLsb' 30 4))
  | _, _ => .error .badField

/-- VEXT, 23 Table 23-6: BSEL 2 and 3 are unassigned. -/
def decodeVExt (w : BitVec 48) : Except SlotReject Instr :=
  checked w 0x3FE1FD (.vext (w.extractLsb' 34 6) (w.extractLsb' 29 5) (w.getLsbD 28) (w.extractLsb' 22 6)
    (w.extractLsb' 9 4) (w.getLsbD 1))

/-- VRNG, 23 R352: BSEL 2, TY 2, and VB, VC, RM, ZI, ZO, SAT zero. -/
def decodeVRng (w : BitVec 48) : Except SlotReject Instr :=
  if w.extractLsb' 1 2 == 2#2 && w.extractLsb' 9 4 == 2#4 then
    checked w 0x1FFE01F9 (.vrng (w.extractLsb' 35 5) (w.extractLsb' 30 5) (w.getLsbD 29) (w.extractLsb' 13 4))
  else .error .badField

/-- A vector slot word, 04 Table 4-11. -/
def decodeVector (w : BitVec 48) : Except SlotReject Instr :=
  let o := vrOf w
  match (w.extractLsb' 40 8).toNat with
  | 0x01 => checked w 1 (.vabs o)
  | 0x02 => checked w 1 (.vadd o)
  | 0x03 => checked w 1 (.vand o)
  | 0x04 => checked w 1 (.vclz o)
  | 0x05 => checked w 1 (.vcmp o)
  | 0x06 => checked w 0 (.vcvt (vcvtOf w))
  | 0x07 => checked w 1 (.vdiv o)
  | 0x08 => checked w 1 (.vexp2 o)
  | 0x09 => decodeVExt w
  | 0x0A => checked w 1 (.vfma o)
  | 0x0B => checked w 1 (.vidx o)
  | 0x0C => checked w 1 (.vlog2 o)
  | 0x0D => decodeVMask w
  | 0x0E => checked w 1 (.vmax o)
  | 0x0F => checked w 1 (.vmin o)
  | 0x10 => checked w 1 (.vmov o)
  | 0x11 => checked w 1 (.vmul o)
  | 0x12 => checked w 1 (.vneg o)
  | 0x13 => checked w 1 (.vnot o)
  | 0x14 => checked w 1 (.vor o)
  | 0x15 => checked w 1 (.vord o)
  | 0x16 => checked w 1 (.vperm o)
  | 0x17 => checked w 0x7FFE1FFF (.vpop (w.extractLsb' 35 5) (w.extractLsb' 32 3) (w.getLsbD 31) (w.extractLsb' 13 4))
  | 0x18 => checked w 1 (.vredadd o)
  | 0x19 => checked w 1 (.vredmax o)
  | 0x1A => checked w 1 (.vredmin o)
  | 0x1B => decodeVRng w
  | 0x1C => checked w 1 (.vsar o)
  | 0x1D => checked w 1 (.vscan o)
  | 0x1E => checked w 1 (.vsel o)
  | 0x1F => checked w 1 (.vshl o)
  | 0x20 => checked w 1 (.vshr o)
  | 0x21 => checked w 1 (.vsqrt o)
  | 0x22 => checked w 1 (.vsub o)
  | 0x23 => checked w 1 (.vxor o)
  | 0x24 => checked w 1 (.xmov o)
  | _ => .error .unassigned

/-- FILL, 21 Table 21-2. -/
def fillOf (w : BitVec 48) : FillF where
  a := srcAt w 34 33
  b := srcAt w 27 26
  c := srcAt w 20 19
  mode := w.extractLsb' 17 2
  bps := w.getLsbD 16

/-- An L slot word, 04 Table 4-12. -/
def decodeL (w : BitVec 48) : Except SlotReject Instr :=
  match (w.extractLsb' 40 8).toNat with
  | 0x01 => checked w 0xFFFF (.fill (fillOf w))
  | 0x02 => checked w 0x20000007F (.sld (w.extractLsb' 34 6) (srcAt w 27 26) (w.extractLsb' 23 3) (w.extractLsb' 7 16))
  | 0x03 => checked w 0x7F (.sst (srcAt w 34 33) (srcAt w 27 26) (w.extractLsb' 23 3) (w.extractLsb' 7 16))
  | 0x04 => checked w 0x203FFFFFF (.taglu (w.extractLsb' 34 6) (srcAt w 27 26))
  | 0x05 => checked w 0x3FFFFFF (.tagset (srcAt w 34 33) (srcAt w 27 26))
  | 0x06 => checked w 0x200FFFFFF (.vld (w.extractLsb' 34 6) (srcAt w 27 26) (w.extractLsb' 24 2))
  | 0x07 => checked w 0x200007FFF (.vldx (w.extractLsb' 34 6) (vsrcAt w 27 26) (srcAt w 20 19) (w.extractLsb' 15 4))
  | 0x08 => checked w 0xFFFFFF (.vst (vsrcAt w 34 33) (srcAt w 27 26) (w.extractLsb' 24 2))
  | 0x09 => checked w 0x1FFFFFFF (.vstq (w.extractLsb' 37 3) (srcAt w 31 30) (w.getLsbD 29))
  | 0x0A => checked w 0x7FFF (.vstx (vsrcAt w 34 33) (vsrcAt w 27 26) (srcAt w 20 19) (w.extractLsb' 15 4))
  | 0x0B => checked w 0xFFF (.xform (srcAt w 34 33) (srcAt w 27 26) (srcAt w 20 19) (srcAt w 13 12))
  | _ => .error .unassigned

/-- MMAC, 04 R78. -/
def mmacOf (w : BitVec 48) : MmacF where
  aset := w.getLsbD 39
  first := w.getLsbD 38
  last := w.getLsbD 37
  rows := w.extractLsb' 31 6
  abase := w.extractLsb' 25 6
  ascale := w.extractLsb' 19 6
  dprog := w.extractLsb' 13 6
  rq := w.extractLsb' 10 3
  strict := w.getLsbD 9

/-- An M slot word, 04 Table 4-12, 11 Table 11-3, 12 R208. -/
def decodeM (w : BitVec 48) : Except SlotReject Instr :=
  match (w.extractLsb' 40 8).toNat with
  | 0x01 => checked w 0x1FFF81FFC (.dpload (srcAt w 34 33) (w.extractLsb' 13 6) (w.extractLsb' 0 2))
  | 0x02 => checked w 0x1FFFFFFFF (.mcfg (srcAt w 34 33))
  | 0x03 => checked w 0xFFFFFFFFE (.mldb (w.extractLsb' 36 4) (w.getLsbD 0))
  | 0x04 => checked w 0x1FFFFFFFF (.mldh (srcAt w 34 33))
  | 0x05 => checked w 0x1FF (.mmac (mmacOf w))
  | 0x06 => checked w 0x7FFFF803FF (.mret (w.getLsbD 39) (w.extractLsb' 13 6) (w.extractLsb' 10 3))
  | 0x07 => checked w 0x1FFFFFFFF (.mspc (srcAt w 34 33))
  | 0x08 => checked w 0xFFFFFFFFFF .mswap
  | _ => .error .unassigned

/-- ATOM, 20 Table 20-3. -/
def atomOf (w : BitVec 48) : AtomF where
  aop := w.extractLsb' 36 4
  sd := w.extractLsb' 30 6
  a := srcAt w 24 23
  b := srcAt w 17 16
  c := srcAt w 10 9
  sz := w.getLsbD 8
  ord := w.extractLsb' 6 2
  scope := w.extractLsb' 2 4
  log := w.getLsbD 1

/-- COLL, 20 Table 20-4. -/
def collOf (w : BitVec 48) : CollF where
  group := w.extractLsb' 32 8
  a := srcAt w 26 25
  b := srcAt w 19 18
  c := srcAt w 12 11
  op := w.extractLsb' 8 3
  ty := w.extractLsb' 6 2

/-- XFER, 23 Table 23-9. -/
def xferOf (w : BitVec 48) : XferF where
  out := w.getLsbD 39
  a := srcAt w 33 32
  b := srcAt w 26 25
  c := srcAt w 19 18
  e := srcAt w 12 11
  arr := w.getLsbD 10
  lur := w.getLsbD 9
  cv := w.extractLsb' 7 2

/-- An H slot word, 04 Table 4-12; head commands as 07 Table 7-3. -/
def decodeH (w : BitVec 48) : Except SlotReject Instr :=
  let hd := w.extractLsb' 36 4
  let a := srcAt w 30 17
  let b := srcAt w 24 16
  let c := srcAt w 18 15
  match (w.extractLsb' 40 8).toNat with
  | 0x01 => checked w 1 (.atom (atomOf w))
  | 0x02 => checked w 0x3F (.coll (collOf w))
  | 0x03 => checked w 0xFC0FEFFFF (.hback hd b)
  | 0x04 => checked w 0xFFFFFFFFF (.hclose hd)
  | 0x05 => checked w 0xFFFFFFFFE (.hmark hd (w.getLsbD 0))
  | 0x06 => checked w 0xFCFFFC (.hopen hd a b (w.extractLsb' 0 2))
  | 0x07 => checked w 0x3FFFFFFF (.hpos hd (w.extractLsb' 30 6))
  | 0x08 => checked w 0x7000
      (.hread hd a b c (w.extractLsb' 0 8) (w.getLsbD 8) (w.getLsbD 9) (w.getLsbD 10) (w.getLsbD 11))
  | 0x09 => checked w 0xFFFFFFFFE (.hrewind hd (w.getLsbD 0))
  | 0x0A => checked w 0xFC0FEFFFF (.hskip hd b)
  | 0x0B => checked w 0x6000
      (.hwrite hd a b c (w.extractLsb' 0 8) (w.getLsbD 8) (w.extractLsb' 9 2) (w.getLsbD 11) (w.getLsbD 12))
  | 0x0C => checked w 0x3FFFFF (.qsend (w.extractLsb' 37 3) (srcAt w 31 30) (srcAt w 24 23) (w.getLsbD 22))
  | 0x0D => checked w 0x1FFFFFFFF (.tbarrive (srcAt w 34 33))
  | 0x0E => checked w 0x3FFFFFF (.tbexpect (srcAt w 34 33) (srcAt w 27 26))
  | 0x0F => checked w 0x3FFFFFF (.tbinit (srcAt w 34 33) (srcAt w 27 26))
  | 0x10 => checked w 0x3FFFFFF (.tbwait (srcAt w 34 33) (srcAt w 27 26))
  | 0x11 => checked w 0x7F (.xfer (xferOf w))
  | _ => .error .unassigned

/-- Why DPLOAD refuses a code word: the reasons 6 to 9 of 12 R209. -/
inductive DrainReject where
  /-- 6: opcode 0x0 or 0xD to 0xF -/
  | opcode
  /-- 7: a used selector of 12 to 15 -/
  | selector
  /-- 8: a field that must be zero is not -/
  | nonzero
  /-- 9: a constant or size that the micro-operation refuses -/
  | refused
deriving DecidableEq, Repr

/-- The reason code of 12 R209. -/
def DrainReject.code : DrainReject → Nat
  | .opcode => 6
  | .selector => 7
  | .nonzero => 8
  | .refused => 9

/-- Whether a micro-operation reads its B field as a selector: DADD, DMAX, DMIN, DMUL without KSEL, and DFMA. -/
def drainUsesB (opc : Nat) (ksel : Bool) : Bool :=
  opc == 5 || (opc == 1 || opc == 6 || opc == 7 || opc == 8) && !ksel

/-- A drain code word, 04 R79 and 12 Table 12-2, checked in the order of 12 R209. The checks of DCVT's and DQNT's
constants need the image and are made by the DPLOAD. -/
def decodeDrain (w : BitVec 24) : Except DrainReject Instr :=
  let opc := (w.extractLsb' 20 4).toNat
  let o : DrainF := ⟨w.extractLsb' 17 3, w.extractLsb' 13 4, w.extractLsb' 9 4, w.extractLsb' 4 5, w.extractLsb' 0 4⟩
  if opc == 0 || 13 ≤ opc then .error .opcode
  else if opc != 3 && !drainSel o.a || drainUsesB opc (o.f.getLsbD 3) && !drainSel o.b then .error .selector
  else
    let zero (spare : Nat) (i : Instr) : Except DrainReject Instr :=
      if w &&& BitVec.ofNat 24 spare == 0#24 then (if i.wf then .ok i else .error .refused) else .error .nonzero
    let two (i : Instr) := if o.f.getLsbD 3 then zero 0x1E00 i else zero 0x1F0 i
    match opc with
    | 1 => two (.dadd o)
    | 2 => zero 0x1E08 (.dcvt o)
    | 3 => zero 0xFFFFF .dend
    | 4 => zero 0x1FF8 (.dexp2 o)
    | 5 => zero 0x8 (.dfma o)
    | 6 => two (.dmax o)
    | 7 => two (.dmin o)
    | 8 => two (.dmul o)
    | 9 => zero 0x0E1FFC (.dpush o.a (w.extractLsb' 0 2))
    | 10 => zero 0x1E08 (.dqnt o)
    | 11 => zero 0x1FF8 (.drcp o)
    | _ => zero 0x0E1E08 (.dsto o.a o.k (w.getLsbD 2) (w.extractLsb' 0 2))

/-! ### Bundles -/

/-- The seven slots by index, 04 Table 4-3. -/
def slotClassOf : Nat → SlotClass
  | 0 | 1 => .scalar
  | 2 | 3 => .vector
  | 4 => .l
  | 5 => .m
  | _ => .h

/-- The VALID bit of slot k, 04 Table 4-2. -/
def Bundle.valid (b : Bundle) (k : Nat) : Bool := b.getLsbD (383 - k)

/-- The word of a slot, a scalar word zero-extended, 04 Table 4-2. -/
def Bundle.word (b : Bundle) : Nat → BitVec 48
  | 0 => (b.extractLsb' 288 32).setWidth 48
  | 1 => (b.extractLsb' 256 32).setWidth 48
  | 2 => b.extractLsb' 208 48
  | 3 => b.extractLsb' 160 48
  | 4 => b.extractLsb' 112 48
  | 5 => b.extractLsb' 64 48
  | _ => b.extractLsb' 16 48

/-- The opcode field of a slot word of a class. -/
def opcodeOf (c : SlotClass) (w : BitVec 48) : Nat :=
  match c with
  | .scalar => (w.extractLsb' 26 6).toNat
  | _ => (w.extractLsb' 40 8).toNat

/-- The assigned opcodes of each class, 04 Tables 4-10 to 4-12. -/
def opcodeAssigned (c : SlotClass) (opc : Nat) : Bool :=
  opc != 0 && match c with
  | .scalar => opc ≤ 0x2A
  | .vector => opc ≤ 0x24
  | .l => opc ≤ 0x0B
  | .m => opc ≤ 0x08
  | .h => opc ≤ 0x11
  | .drain => opc ≤ 0x0C

/-- The instructions that take XIMM: ADDI, ANDI, BR, CALL, CMPI, LI, LOOP, ORI, XORI and VRNG (20 R281, 21 R299,
22 R316, 23 R334). -/
def takesXimm (c : SlotClass) (opc : Nat) : Bool :=
  match c with
  | .scalar => opc == 0x02 || opc == 0x04 || opc == 0x07 || opc == 0x09 || opc == 0x0C || opc == 0x12 || opc == 0x13
      || opc == 0x1C || opc == 0x2A
  | .vector => opc == 0x1B
  | _ => false

/-- Whether the slot selects the broadcast port: BSEL of the vector formats, BPS of FILL (04 R77, 21 Table 21-2). DESIGN
CHOICE (log 10): bits [2:1] of a vector slot with an unassigned opcode are read as BSEL too, so that check 3 comes first. -/
def selectsBroadcast (c : SlotClass) (w : BitVec 48) : Bool :=
  match c with
  | .vector => let opc := opcodeOf c w; opc != 0x06 && opc != 0x17 && w.extractLsb' 1 2 != 0#2
  | .l => opcodeOf c w == 0x01 && w.getLsbD 16
  | _ => false

/-- A register of a file: 0 s, 1 va, 2 vb, 3 m (04 Table 4-15). -/
structure RegName where
  file : BitVec 2
  num : BitVec 6
deriving DecidableEq, Repr

/-- An s register. -/
def sReg (n : BitVec 6) : RegName := ⟨0#2, n⟩
/-- An m register. -/
def mReg (n : BitVec 4) : RegName := ⟨3#2, n.setWidth 6⟩
/-- A va (cluster 0) or vb (cluster 1) register. -/
def vReg (clusterB : Bool) (n : BitVec 5) : RegName := ⟨if clusterB then 2#2 else 1#2, n.setWidth 6⟩
/-- The register named by a 6-bit vector field, 23 R342. -/
def vReg6 (n : BitVec 6) : RegName := vReg (n.getLsbD 5) (n.setWidth 5)

/-- s0 and m0 are excepted: writes to them are discarded (04 R67, R68). -/
def RegName.discards (r : RegName) : Bool := r.num == 0#6 && (r.file == 0#2 || r.file == 3#2)

/-- The destination register a slot word names, whatever its other fields hold (04 R67 check 5, R69): the word's
opcode decides, so a slot that fails check 7 still names one. -/
def destOf (k : Nat) (w : BitVec 48) : Option RegName :=
  let c := slotClassOf k
  let opc := opcodeOf c w
  let low (lo : Nat) : BitVec 6 := w.extractLsb' lo 6
  match c with
  | .scalar =>
    if opc == 0x09 then some (sReg 63#6)
    else if opc == 0x06 || opc == 0x07 || opc == 0x0E || opc == 0x18 || opc == 0x1E || opc == 0x1F || opc == 0x22
      || opc == 0x26 || opc == 0x27 then none
    else if opc == 0x0F && w.extractLsb' 0 2 != 1#2 then none
    else some (sReg (low 20))
  | .vector =>
    if opc == 0x05 then some (mReg (w.extractLsb' 35 4))
    else if opc == 0x09 then some (sReg (low 34))
    else if opc == 0x0D then (if w.getLsbD 29 then some (mReg (w.extractLsb' 30 4)) else some (sReg (low 34)))
    else some (vReg (k == 3) (w.extractLsb' 35 5))
  | .l =>
    if opc == 0x02 || opc == 0x04 then some (sReg (low 34))
    else if opc == 0x06 || opc == 0x07 then some (vReg6 (low 34))
    else none
  | .h => if opc == 0x01 || opc == 0x07 then some (sReg (low 30)) else none
  | _ => none

/-- The control transfers, which may stand in S1 only, and IFENCE ENTER (04 R80, 21 R299). -/
def onlyS1 (w : BitVec 48) : Bool :=
  let opc := opcodeOf .scalar w
  opc == 0x07 || opc == 0x09 || opc == 0x0E || opc == 0x10 || opc == 0x13 || opc == 0x1E || opc == 0x1F || opc == 0x26
    || opc == 0x0F && w.extractLsb' 0 2 == 2#2

/-- The field that XIMM replaces must be zero (04 R76, 23 R352). -/
def ximmFieldZero (i : Instr) : Bool :=
  match i with
  | .addi _ _ imm | .andi _ _ imm | .li _ imm | .ori _ _ imm | .xori _ _ imm => imm == 0#13
  | .br _ _ off | .call off | .loop _ _ off => off == 0#16
  | .cmpi _ _ imm _ => imm == 0#10
  | .vrng _ va pa _ => va == 0#5 && pa == false
  | _ => true

/-- The instruction of slot k's word. -/
def decodeSlot (k : Nat) (w : BitVec 48) : Except SlotReject Instr :=
  match slotClassOf k with
  | .scalar => decodeScalar (w.setWidth 32)
  | .vector => decodeVector w
  | .l => decodeL w
  | .m => decodeM w
  | _ => decodeH w

/-- A bundle that passes the decode checks of 04 Table 4-4: its valid slots in bundle order, and the fields the slots
share. -/
structure Decoded where
  slots : List (Nat × Instr)
  xown : BitVec 3
  ximm : BitVec 32
  bpen : Bool
  bpsrc : BitVec 6
  sync : BitVec 2
deriving DecidableEq, Repr

/-- A failed decode check: the XINFO of ILLEGAL_BUNDLE, 04 R67. -/
structure BundleReject where
  reason : BitVec 4
  slot : BitVec 3
  detail : BitVec 8
deriving DecidableEq, Repr

/-- XINFO of a failed check, 04 R67. -/
def BundleReject.xinfo (r : BundleReject) : Word :=
  (0#48 ++ r.reason ++ 0#1 ++ r.slot ++ r.detail : BitVec 64)

/-- The valid slots of a bundle, in bundle order. -/
def Bundle.validSlots (b : Bundle) : List Nat := [0, 1, 2, 3, 4, 5, 6].filter b.valid

/-- Check 2 of 04 Table 4-4 fails. -/
def Bundle.ximmWrong (b : Bundle) : Bool :=
  let xown := (b.extractLsb' 374 3).toNat
  if xown == 7 then b.extractLsb' 320 32 != 0#32
  else !b.valid xown ||
    (let c := slotClassOf xown
     let opc := opcodeOf c (b.word xown)
     opcodeAssigned c opc && !takesXimm c opc)

/-- The first slot of a list for which `p` holds. -/
def firstSlot (p : Nat → Bool) : List Nat → Option Nat
  | [] => none
  | k :: ks => if p k then some k else firstSlot p ks

/-- Two valid slots name one destination: the lower of them (04 Table 4-4, check 5; s0 and m0 excepted). -/
def Bundle.sameDest (b : Bundle) (k : Nat) : Bool :=
  match destOf k (b.word k) with
  | none => false
  | some r => !r.discards && b.validSlots.any fun j => k < j && destOf j (b.word j) == some r

/-- Check 5 of 04 Table 4-4 fails at slot k. -/
def Bundle.check5 (b : Bundle) (k : Nat) : Bool := k == 0 && onlyS1 (b.word 0) || b.sameDest k

/-- Slot k has no well-formed instruction, or the field that XIMM replaces is not zero (check 7). -/
def Bundle.check7 (b : Bundle) (k : Nat) : Bool :=
  match decodeSlot k (b.word k) with
  | .error _ => true
  | .ok i => (b.extractLsb' 374 3).toNat == k && !ximmFieldZero i

/-- The instructions of a list of slots. -/
def Bundle.instrs (b : Bundle) : List Nat → List (Nat × Instr)
  | [] => []
  | k :: ks =>
    match decodeSlot k (b.word k) with
    | .ok i => (k, i) :: b.instrs ks
    | .error _ => b.instrs ks

/-- The decode checks of 04 Table 4-4, in table order and within one check by the lowest slot. -/
def decodeBundle (b : Bundle) : Except BundleReject Decoded :=
  let bpen := b.getLsbD 373
  let bpsrc := b.extractLsb' 367 6
  let opc (k : Nat) := opcodeOf (slotClassOf k) (b.word k)
  if b.extractLsb' 352 13 != 0#13 || b.extractLsb' 0 16 != 0#16 then .error ⟨1#4, 7#3, 0#8⟩
  else if b.ximmWrong then .error ⟨2#4, 7#3, 0#8⟩
  else if !bpen && (bpsrc != 0#6 || b.validSlots.any fun k => selectsBroadcast (slotClassOf k) (b.word k)) then
    .error ⟨3#4, 7#3, 0#8⟩
  else
    match firstSlot (fun k => !opcodeAssigned (slotClassOf k) (opc k)) b.validSlots with
    | some k => .error ⟨4#4, BitVec.ofNat 3 k, BitVec.ofNat 8 (opc k)⟩
    | none =>
      match firstSlot b.check5 b.validSlots with
      | some k => .error ⟨5#4, BitVec.ofNat 3 k, 0#8⟩
      | none =>
        match firstSlot b.check7 b.validSlots with
        | some k => .error ⟨7#4, BitVec.ofNat 3 k, 0#8⟩
        | none => .ok ⟨b.instrs b.validSlots, b.extractLsb' 374 3, b.extractLsb' 320 32, bpen, bpsrc, b.extractLsb' 365 2⟩

/-- 48 little-endian bytes make a bundle, bits [7:0] at the lowest address (04 R66). -/
def bundleOfBytes : List Byte → Bundle
  | [] => 0#384
  | x :: xs => x.setWidth 384 ||| (bundleOfBytes xs <<< 8)

/-- The halfwords of an escape, bundle bits [15:0] first (04 Table 4-1). -/
def bundleOfHalfwords : List (BitVec 16) → Bundle
  | [] => 0#384
  | x :: xs => x.setWidth 384 ||| (bundleOfHalfwords xs <<< 16)

/-! ### The encoder -/

/-- A source register and its policy bit, where the two stand together. -/
def Src.bits (a : Src) : BitVec 7 := a.reg ++ BitVec.ofBool a.pol

/-- A vector source and its policy bit. -/
def VSrc.bits (a : VSrc) : BitVec 7 := a.reg ++ BitVec.ofBool a.pol

/-- Format S.R. -/
def encSR (opc d : BitVec 6) (a b : Src) (fn : BitVec 6) : BitVec 32 := opc ++ d ++ a.bits ++ b.bits ++ fn
/-- Formats S.I and S.C. -/
def encSI (opc d : BitVec 6) (a : Src) (imm : BitVec 13) : BitVec 32 := opc ++ d ++ a.bits ++ imm
/-- Format S.B. -/
def encSB (opc : BitVec 6) (a : Src) (cc : BitVec 3) (off : BitVec 16) : BitVec 32 := opc ++ a.bits ++ cc ++ off

/-- The word of a scalar instruction, from 04 Table 4-7 and the reference entries. -/
def encodeScalar (i : Instr) : BitVec 32 :=
  let z : Src := ⟨0#6, false⟩
  match i with
  | .add d a b => encSR 0x01#6 d a b 0#6
  | .addi d a imm => encSI 0x02#6 d a imm
  | .and d a b => encSR 0x03#6 d a b 0#6
  | .andi d a imm => encSI 0x04#6 d a imm
  | .andn d a b => encSR 0x05#6 d a b 0#6
  | .barArrive bar a => encSI 0x06#6 0#6 a (bar ++ 0#2 ++ 0#4)
  | .barWait bar a => encSI 0x06#6 0#6 a (bar ++ 1#2 ++ 0#4)
  | .barSync bar a => encSI 0x06#6 0#6 a (bar ++ 2#2 ++ 0#4)
  | .br a cc off => encSB 0x07#6 a cc off
  | .bwaitWait d bar a => encSI 0x08#6 d a (bar ++ 0#2 ++ 0#4)
  | .bwaitTest d bar a => encSI 0x08#6 d a (bar ++ 1#2 ++ 0#4)
  | .call off => encSB 0x09#6 z 6#3 off
  | .clz d a => encSR 0x0A#6 d a z 0#6
  | .cmp d a b cond => encSR 0x0B#6 d a b cond
  | .cmpi d a imm cond => encSI 0x0C#6 d a (imm ++ cond)
  | .div d a b => encSR 0x0D#6 d a b 0#6
  | .exit => encSI 0x0E#6 0#6 z 0#13
  | .ifenceWait => encSI 0x0F#6 0#6 z 0#13
  | .ifenceLoad d a => encSI 0x0F#6 d a 1#13
  | .ifenceEnter a ov => encSI 0x0F#6 0#6 a (0#10 ++ BitVec.ofBool ov ++ 2#2)
  | .jmp d a => encSR 0x10#6 d a z 0#6
  | .launch d a q => encSI 0x11#6 d a (0#7 ++ q)
  | .li d imm => encSI 0x12#6 d z imm
  | .loop a cc off => encSB 0x13#6 a cc off
  | .max d a b => encSR 0x14#6 d a b 0#6
  | .mfsr d r => encSI 0x15#6 d z (0#7 ++ r)
  | .min d a b => encSR 0x16#6 d a b 0#6
  | .mov d a => encSR 0x17#6 d a z 0#6
  | .mtsr r a => encSI 0x18#6 0#6 a (0#7 ++ r)
  | .mul d a b => encSR 0x19#6 d a b 0#6
  | .mulh d a b => encSR 0x1A#6 d a b 0#6
  | .or d a b => encSR 0x1B#6 d a b 0#6
  | .ori d a imm => encSI 0x1C#6 d a imm
  | .popc d a => encSR 0x1D#6 d a z 0#6
  | .ret a => encSI 0x1E#6 0#6 a 0#13
  | .rtt => encSI 0x1F#6 0#6 z 0#13
  | .sar d a b => encSR 0x20#6 d a b 0#6
  | .sarImm d a c => encSR 0x20#6 d a ⟨c, false⟩ 1#6
  | .sel d a b c => encSR 0x21#6 d a b c
  | .settle scope kind domains => encSI 0x22#6 0#6 z (scope ++ kind ++ domains)
  | .shl d a b => encSR 0x23#6 d a b 0#6
  | .shlImm d a c => encSR 0x23#6 d a ⟨c, false⟩ 1#6
  | .shr d a b => encSR 0x24#6 d a b 0#6
  | .shrImm d a c => encSR 0x24#6 d a ⟨c, false⟩ 1#6
  | .sub d a b => encSR 0x25#6 d a b 0#6
  | .trap imm => encSI 0x26#6 0#6 z imm
  | .trigger => encSI 0x27#6 0#6 z 0#13
  | .ttnext d => encSI 0x28#6 d z 0#13
  | .xor d a b => encSR 0x29#6 d a b 0#6
  | .xori d a imm => encSI 0x2A#6 d a imm
  | _ => 0#32

/-- Format V.R. -/
def encVR (opc : BitVec 8) (o : VR) : BitVec 48 :=
  opc ++ o.vd ++ o.va ++ BitVec.ofBool o.pa ++ o.vb ++ BitVec.ofBool o.pb ++ o.vc ++ BitVec.ofBool o.pc ++ o.msk
    ++ o.ty ++ o.rm ++ BitVec.ofBool o.zi ++ BitVec.ofBool o.zo ++ BitVec.ofBool o.sat ++ o.bsel ++ 0#1

/-- The head commands' layout, 07 R135. -/
def encHead (opc : BitVec 8) (hd : BitVec 4) (a b c : Src) (flags : BitVec 15) : BitVec 48 :=
  opc ++ hd ++ a.reg ++ b.reg ++ c.reg ++ BitVec.ofBool a.pol ++ BitVec.ofBool b.pol ++ BitVec.ofBool c.pol ++ flags

/-- The word of a vector, L, M or H instruction, from 04 R77, R78 and the reference entries. -/
def encodeWide (i : Instr) : BitVec 48 :=
  let z : Src := ⟨0#6, false⟩
  match i with
  | .vabs o => encVR 0x01#8 o
  | .vadd o => encVR 0x02#8 o
  | .vand o => encVR 0x03#8 o
  | .vclz o => encVR 0x04#8 o
  | .vcmp o => encVR 0x05#8 o
  | .vcvt o =>
    0x06#8 ++ o.vd ++ o.va ++ BitVec.ofBool o.pa ++ o.msk ++ o.sf ++ o.df ++ o.rm ++ BitVec.ofBool o.zi
      ++ BitVec.ofBool o.zo ++ BitVec.ofBool o.sat ++ o.part
  | .vdiv o => encVR 0x07#8 o
  | .vexp2 o => encVR 0x08#8 o
  | .vext d va pa ln ty bp =>
    0x09#8 ++ d ++ va ++ BitVec.ofBool pa ++ ln ++ 0#9 ++ ty ++ 0#6 ++ (0#1 ++ BitVec.ofBool bp) ++ 0#1
  | .vfma o => encVR 0x0A#8 o
  | .vidx o => encVR 0x0B#8 o
  | .vlog2 o => encVR 0x0C#8 o
  | .vmask d mx => 0x0D#8 ++ d ++ mx ++ 0#30
  | .vmaskWrite mx => 0x0D#8 ++ 0#6 ++ mx ++ 1#1 ++ 0#26 ++ 1#2 ++ 0#1
  | .vmax o => encVR 0x0E#8 o
  | .vmin o => encVR 0x0F#8 o
  | .vmov o => encVR 0x10#8 o
  | .vmul o => encVR 0x11#8 o
  | .vneg o => encVR 0x12#8 o
  | .vnot o => encVR 0x13#8 o
  | .vor o => encVR 0x14#8 o
  | .vord o => encVR 0x15#8 o
  | .vperm o => encVR 0x16#8 o
  | .vpop vd q qp mk => 0x17#8 ++ vd ++ q ++ BitVec.ofBool qp ++ 0#14 ++ mk ++ 0#13
  | .vredadd o => encVR 0x18#8 o
  | .vredmax o => encVR 0x19#8 o
  | .vredmin o => encVR 0x1A#8 o
  | .vrng vd va pa mk =>
    0x1B#8 ++ vd ++ va ++ BitVec.ofBool pa ++ 0#12 ++ mk ++ 2#4 ++ 0#6 ++ 2#2 ++ 0#1
  | .vsar o => encVR 0x1C#8 o
  | .vscan o => encVR 0x1D#8 o
  | .vsel o => encVR 0x1E#8 o
  | .vshl o => encVR 0x1F#8 o
  | .vshr o => encVR 0x20#8 o
  | .vsqrt o => encVR 0x21#8 o
  | .vsub o => encVR 0x22#8 o
  | .vxor o => encVR 0x23#8 o
  | .xmov o => encVR 0x24#8 o
  | .fill o => 0x01#8 ++ o.a.bits ++ o.b.bits ++ o.c.bits ++ o.mode ++ BitVec.ofBool o.bps ++ 0#16
  | .sld d a ty off => 0x02#8 ++ d ++ 0#1 ++ a.bits ++ ty ++ off ++ 0#7
  | .sst v a ty off => 0x03#8 ++ v.bits ++ a.bits ++ ty ++ off ++ 0#7
  | .taglu d a => 0x04#8 ++ d ++ 0#1 ++ a.bits ++ 0#26
  | .tagset a b => 0x05#8 ++ a.bits ++ b.bits ++ 0#26
  | .vld vr a mode => 0x06#8 ++ vr ++ 0#1 ++ a.bits ++ mode ++ 0#24
  | .vldx vr vi a mx => 0x07#8 ++ vr ++ 0#1 ++ vi.bits ++ a.bits ++ mx ++ 0#15
  | .vst v a mode => 0x08#8 ++ v.bits ++ a.bits ++ mode ++ 0#24
  | .vstq q a qp => 0x09#8 ++ q ++ a.bits ++ BitVec.ofBool qp ++ 0#29
  | .vstx v vi a mx => 0x0A#8 ++ v.bits ++ vi.bits ++ a.bits ++ mx ++ 0#15
  | .xform c s d n => 0x0B#8 ++ c.bits ++ s.bits ++ d.bits ++ n.bits ++ 0#12
  | .dpload a prog part => 0x01#8 ++ a.bits ++ 0#14 ++ prog ++ 0#11 ++ part
  | .mcfg a => 0x02#8 ++ a.bits ++ 0#33
  | .mldb hd lur => 0x03#8 ++ hd ++ 0#35 ++ BitVec.ofBool lur
  | .mldh a => 0x04#8 ++ a.bits ++ 0#33
  | .mmac o =>
    0x05#8 ++ BitVec.ofBool o.aset ++ BitVec.ofBool o.first ++ BitVec.ofBool o.last ++ o.rows ++ o.abase ++ o.ascale
      ++ o.dprog ++ o.rq ++ BitVec.ofBool o.strict ++ 0#9
  | .mret aset prog rq => 0x06#8 ++ BitVec.ofBool aset ++ 0#20 ++ prog ++ rq ++ 0#10
  | .mspc a => 0x07#8 ++ a.bits ++ 0#33
  | .mswap => 0x08#8 ++ 0#40
  | .atom o =>
    0x01#8 ++ o.aop ++ o.sd ++ o.a.bits ++ o.b.bits ++ o.c.bits ++ BitVec.ofBool o.sz ++ o.ord ++ o.scope
      ++ BitVec.ofBool o.log ++ 0#1
  | .coll o => 0x02#8 ++ o.group ++ o.a.bits ++ o.b.bits ++ o.c.bits ++ o.op ++ o.ty ++ 0#6
  | .hback hd n => encHead 0x03#8 hd z n z 0#15
  | .hclose hd => encHead 0x04#8 hd z z z 0#15
  | .hmark hd mark => encHead 0x05#8 hd z z z (0#14 ++ BitVec.ofBool mark)
  | .hopen hd desc pos mode => encHead 0x06#8 hd desc pos z (0#13 ++ mode)
  | .hpos hd d => encHead 0x07#8 hd ⟨d, false⟩ z z 0#15
  | .hread hd dst n tb fmt bk raw sat lur =>
    encHead 0x08#8 hd dst n tb
      (0#3 ++ BitVec.ofBool lur ++ BitVec.ofBool sat ++ BitVec.ofBool raw ++ BitVec.ofBool bk ++ fmt)
  | .hrewind hd mark => encHead 0x09#8 hd z z z (0#14 ++ BitVec.ofBool mark)
  | .hskip hd n => encHead 0x0A#8 hd z n z 0#15
  | .hwrite hd src n tag fmt bk mode lur sat =>
    encHead 0x0B#8 hd src n tag (0#2 ++ BitVec.ofBool sat ++ BitVec.ofBool lur ++ mode ++ BitVec.ofBool bk ++ fmt)
  | .qsend q a o qp => 0x0C#8 ++ q ++ a.bits ++ o.bits ++ BitVec.ofBool qp ++ 0#22
  | .tbarrive a => 0x0D#8 ++ a.bits ++ 0#33
  | .tbexpect a n => 0x0E#8 ++ a.bits ++ n.bits ++ 0#26
  | .tbinit a n => 0x0F#8 ++ a.bits ++ n.bits ++ 0#26
  | .tbwait a g => 0x10#8 ++ a.bits ++ g.bits ++ 0#26
  | .xfer o =>
    0x11#8 ++ BitVec.ofBool o.out ++ o.a.bits ++ o.b.bits ++ o.c.bits ++ o.e.bits ++ BitVec.ofBool o.arr
      ++ BitVec.ofBool o.lur ++ o.cv ++ 0#7
  | _ => 0#48

/-- A drain micro-operation's layout, 04 R79. -/
def encD (opc : BitVec 4) (o : DrainF) : BitVec 24 := opc ++ o.d ++ o.a ++ o.b ++ o.k ++ o.f

/-- The code word of a drain micro-operation. -/
def encodeDrain (i : Instr) : BitVec 24 :=
  match i with
  | .dadd o => encD 0x1#4 o
  | .dcvt o => encD 0x2#4 o
  | .dend => 0x300000#24
  | .dexp2 o => encD 0x4#4 o
  | .dfma o => encD 0x5#4 o
  | .dmax o => encD 0x6#4 o
  | .dmin o => encD 0x7#4 o
  | .dmul o => encD 0x8#4 o
  | .dpush a sz => encD 0x9#4 ⟨0#3, a, 0#4, 0#5, 0#2 ++ sz⟩
  | .dqnt o => encD 0xA#4 o
  | .drcp o => encD 0xB#4 o
  | .dsto a k skew sz => encD 0xC#4 ⟨0#3, a, 0#4, k, 0#1 ++ BitVec.ofBool skew ++ sz⟩
  | _ => 0#24

/-- The class whose slot holds an instruction; none for a step that no slot holds. -/
def Instr.slotClass (i : Instr) : Option SlotClass :=
  match i with
  | .add .. | .addi .. | .and .. | .andi .. | .andn .. | .barArrive .. | .barWait .. | .barSync .. | .br ..
  | .bwaitWait .. | .bwaitTest .. | .call .. | .clz .. | .cmp .. | .cmpi .. | .div .. | .exit | .ifenceWait
  | .ifenceLoad .. | .ifenceEnter .. | .jmp .. | .launch .. | .li .. | .loop .. | .max .. | .mfsr .. | .min ..
  | .mov .. | .mtsr .. | .mul .. | .mulh .. | .or .. | .ori .. | .popc .. | .ret .. | .rtt | .sar .. | .sarImm ..
  | .sel .. | .settle .. | .shl .. | .shlImm .. | .shr .. | .shrImm .. | .sub .. | .trap .. | .trigger | .ttnext ..
  | .xor .. | .xori .. => some .scalar
  | .vabs .. | .vadd .. | .vand .. | .vclz .. | .vcmp .. | .vcvt .. | .vdiv .. | .vexp2 .. | .vext .. | .vfma ..
  | .vidx .. | .vlog2 .. | .vmask .. | .vmaskWrite .. | .vmax .. | .vmin .. | .vmov .. | .vmul .. | .vneg ..
  | .vnot .. | .vor .. | .vord .. | .vperm .. | .vpop .. | .vredadd .. | .vredmax .. | .vredmin .. | .vrng ..
  | .vsar .. | .vscan .. | .vsel .. | .vshl .. | .vshr .. | .vsqrt .. | .vsub .. | .vxor .. | .xmov .. => some .vector
  | .fill .. | .sld .. | .sst .. | .taglu .. | .tagset .. | .vld .. | .vldx .. | .vst .. | .vstq .. | .vstx ..
  | .xform .. => some .l
  | .dpload .. | .mcfg .. | .mldb .. | .mldh .. | .mmac .. | .mret .. | .mspc .. | .mswap => some .m
  | .atom .. | .coll .. | .hback .. | .hclose .. | .hmark .. | .hopen .. | .hpos .. | .hread .. | .hrewind ..
  | .hskip .. | .hwrite .. | .qsend .. | .tbarrive .. | .tbexpect .. | .tbinit .. | .tbwait .. | .xfer .. => some .h
  | .dadd .. | .dcvt .. | .dend | .dexp2 .. | .dfma .. | .dmax .. | .dmin .. | .dmul .. | .dpush .. | .dqnt ..
  | .drcp .. | .dsto .. => some .drain
  | _ => none

/-- The instruction that the decoder reads from a row of spec/opcode_table.json: the 32-bit rows are scalar slot
words, the 24-bit rows drain code words. The table gives no bits to the 48-bit classes, whose opcodes overlap. -/
def decodeTableWord (nbits w : Nat) : Option Instr :=
  match nbits with
  | 32 => (decodeScalar (BitVec.ofNat 32 w)).toOption
  | 24 => (decodeDrain (BitVec.ofNat 24 w)).toOption
  | _ => none

end Sys2Proof
end

