-- ==== Sys2Proof/Machine/Maps.lean ====
section
/-! DEFINITION. Sparse maps in one canonical form: indices strictly rising, no entry equal to what an unlisted index
reads as. Every register file, store and memory of the model is one. -/

namespace Sys2Proof.Machine

/-- The value at index k; `d` where k is unlisted. -/
def mget {α : Type} (d : α) : SMap α → Nat → α
  | [], _ => d
  | (j, v) :: m, k => if k = j then v else mget d m k

/-- The map with v at index k, before the first higher index. -/
def mput {α : Type} : SMap α → Nat → α → SMap α
  | [], k, v => [(k, v)]
  | (j, w) :: m, k, v => if k < j then (k, v) :: (j, w) :: m else if k = j then (k, v) :: m else (j, w) :: mput m k v

/-- The map with v at index k, in canonical form: the default is not listed. -/
def mset {α : Type} [DecidableEq α] (d : α) (m : SMap α) (k : Nat) (v : α) : SMap α :=
  if v = d then m.filter fun x => x.1 != k else mput m k v

/-- Every index from `lo` up, strictly rising, and no entry equal to `d`. -/
def mwfFrom {α : Type} [DecidableEq α] (d : α) : Nat → SMap α → Bool
  | _, [] => true
  | lo, (j, v) :: m => decide (lo ≤ j) && decide (v ≠ d) && mwfFrom d (j + 1) m

/-- The canonical form. -/
def mwf {α : Type} [DecidableEq α] (d : α) (m : SMap α) : Bool := mwfFrom d 0 m

/-- Writes a list of values at consecutive indices from k, each index taken by `at_`. -/
def msetList {α : Type} [DecidableEq α] (d : α) (at_ : Nat → Nat) : SMap α → Nat → List α → SMap α
  | m, _, [] => m
  | m, k, v :: vs => msetList d at_ (mset d m (at_ k) v) (k + 1) vs

/-- The values at n consecutive indices from k of a map with no index below k. -/
def mrunFrom {α : Type} (d : α) : SMap α → Nat → Nat → List α
  | _, _, 0 => []
  | [], k, n + 1 => d :: mrunFrom d [] (k + 1) n
  | (j, v) :: m, k, n + 1 => if j = k then v :: mrunFrom d m (k + 1) n else d :: mrunFrom d ((j, v) :: m) (k + 1) n

/-- The values at n consecutive indices from k. -/
def mrun {α : Type} (d : α) (m : SMap α) (k n : Nat) : List α := mrunFrom d (m.dropWhile fun x => x.1 < k) k n

/-- The entries that a list of values makes at consecutive indices from k. -/
def runEntries {α : Type} [DecidableEq α] (d : α) : Nat → List α → SMap α
  | _, [] => []
  | k, v :: vs => if v = d then runEntries d (k + 1) vs else (k, v) :: runEntries d (k + 1) vs

/-- The map with a list of values at consecutive indices from k. -/
def mputRun {α : Type} [DecidableEq α] (d : α) (m : SMap α) (k : Nat) (vs : List α) : SMap α :=
  (m.takeWhile fun x => x.1 < k) ++ runEntries d k vs ++ (m.dropWhile fun x => x.1 < k + vs.length)

/-- The element of a list at an index, `d` beyond its end. -/
def nth {α : Type} (d : α) : List α → Nat → α
  | [], _ => d
  | x :: _, 0 => x
  | _ :: xs, n + 1 => nth d xs n

/-- The list with the element at an index replaced; unchanged beyond its end. -/
def setNth {α : Type} : List α → Nat → α → List α
  | [], _, _ => []
  | _ :: xs, 0, v => v :: xs
  | x :: xs, n + 1, v => x :: setNth xs n v

/-- 0, 1, …, n − 1. -/
def upto (n : Nat) : List Nat := List.range n

end Sys2Proof.Machine
end

