-- ==== Sys2Proof/Machine/State.lean ====
section
/-! DEFINITION. The state of the machine as plain data, every piece of state that the spec names, and the state right
after a cold reset (15 R253). A structure's default values are its values at cold reset; a strand's own registers are
written again when the strand starts (01 R17, 03 R37). Log entries: 1 (the issue latch), 2 (one agent at a time),
3 (reset values that the spec does not give). -/

namespace Sys2Proof.Machine

/-- 64 lanes. -/
abbrev Vec := List Lane
/-- 64 zero lanes. -/
def Vec.zero : Vec := List.replicate 64 0#32

/-! ### Registers of a context -/

/-- The s, va, vb and m registers of a context and their full/empty bits, a set bit meaning empty (02 R31, 04 R69). -/
structure Regs where
  s : SMap Word := []
  va : SMap Vec := []
  vb : SMap Vec := []
  m : SMap Word := []
  emptyS : BitVec 64 := 0
  emptyVa : BitVec 32 := 0
  emptyVb : BitVec 32 := 0
  emptyM : BitVec 16 := 0
deriving DecidableEq, Repr

/-- The special registers that a context stores, 04 Table 4-13. -/
structure SpecRegs where
  pl : BitVec 2 := 0
  slotres : BitVec 3 := 7
  snapv : Bool := false
  prio : BitVec 5 := 0
  xpc : BitVec 16 := 0
  xcause : BitVec 8 := 0
  xinfo : Word := 0
  xvec : BitVec 16 := 0
  fflags : BitVec 5 := 0
  fctl : BitVec 8 := 0
  rcard : Word := 0
  mxcnt : Word := 0
  mdpc : Word := 0
  dictbase : BitVec 12 := 0
  dictlen : BitVec 13 := 0
  redlim : BitVec 32 := 65536
  hmlim : BitVec 32 := 65536
  xsave : BitVec 57 := 0
  tickn : Word := 0
  occ : Word := 0
  draft : Word := 0
  bellst : Word := 0
deriving DecidableEq, Repr

/-- A value for a register: an s or m register holds a word, a vector register 64 lanes. -/
inductive RegVal where
  | word (w : Word)
  | lanes (v : Vec)
deriving DecidableEq, Repr

/-- A result in flight (04 R69, R70): it lands when the core's unfrozen cycle count reaches `due`; it is discarded
unless `tag` is still the register's latest producer. Its slot's flags merge then (05 R98). -/
structure Flight where
  reg : RegName
  tag : Nat
  due : Nat
  val : RegVal
  flags : BitVec 5
deriving DecidableEq, Repr

/-- A trap owed at a bundle boundary (09 R165). -/
structure Owed where
  cause : BitVec 8
  info : Word
deriving DecidableEq, Repr

/-- The halfword and dictionary ranges of an image in a core's stores (03 R40, 21 R305). -/
structure Ranges where
  idxbase : BitVec 16 := 0
  idxlen : BitVec 16 := 0
  dictbase : BitVec 12 := 0
  dictlen : BitVec 13 := 0
deriving DecidableEq, Repr

/-- The bundle that a context offers (04 Table 4-1): one of `len` halfwords that passed the decode checks, or one that
failed them. -/
inductive Fetched where
  | ok (b : Decoded) (len : Nat)
  | bad (r : BundleReject)
deriving DecidableEq, Repr

/-- The operands latched when a bundle splits, and the PC recorded with them (02 R31, 04 R74, 22 R321). -/
structure Snapshot where
  regs : Regs
  bp : Option Word
  pc : BitVec 16
deriving DecidableEq, Repr

/-- A strand by the sequence number of its job and its index (03 R35, R49). -/
structure StrandId where
  seq : Nat
  idx : Nat
deriving DecidableEq, Repr

/-! ### A head -/

/-- A tape descriptor's fields, 07 Table 7-1. -/
structure Desc where
  base : Nat := 0
  len : Nat := 0
  kind : Nat := 0
  sink : Nat := 0
  rlen : Nat := 0
  gelem : Nat := 0
deriving DecidableEq, Repr

/-- A block that a head has staged (07 R143): its group and number, its tag and 64 bytes as they were fetched, and whether
it is poisoned. -/
structure Staged where
  group : Nat
  block : Nat
  tag : Nat
  bits : BitVec 512
  poison : Bool
deriving DecidableEq, Repr

/-- A head (07 R134, R150). -/
structure Head where
  mode : Nat := 0
  /-- HOPEN accepted, descriptor not yet held -/
  opening : Bool := false
  descVa : Nat := 0
  job : Nat := 0
  pos : Nat := 0
  /-- MARK and SET of A and B: the position of each mark, and whether it is set (07 R150) -/
  markA : Nat × Bool := (0, false)
  markB : Nat × Bool := (0, false)
  ecount : Nat := 0
  desc : Desc := {}
  closing : Bool := false
  /-- a fault found and not yet taken, and whom it is owed to (07 R148) -/
  fault : Option (Owed × StrandId) := none
  wmk : Nat := 0
  depth : Nat := 32
  poison : Bool := false
  /-- a reread of ECOUNT (07 R136): 0 none, 1 awaited, 2 parked behind a missing translation (09 R171) -/
  reread : Nat := 0
  /-- the strand whose bundle asked for that reread, and its number in the order in which requests parked -/
  asker : Option StrandId := none
  rereadAt : Nat := 0
  stage : List Staged := []
deriving DecidableEq, Repr

/-! ### The issue latch: the model's own state, log 1 -/

/-- How the bundle in the latch stands: its slots commit so far; it yields; a slot has trapped. -/
inductive Stop where
  | go
  | yields
  | trapped
deriving DecidableEq, Repr

/-- A recording of a BAR or BWAIT at an offer (03 R55): its slot, the binding of barrier `bar` by the strand to `group`, whether
a SYNC's arrival is recorded with it, whether it waits and so holds the bundle back, and the count of phases that a WAIT
waits for (06 R119). -/
structure BarRec where
  slot : Nat
  bar : BitVec 7
  group : BitVec 8
  binds : Bool := true
  arrive : Bool := false
  holds : Bool := false
  wait : Option Nat := none
deriving DecidableEq, Repr

/-- What an offer leaves behind although its bundle yields: a barrier's recording (03 R55), the reread of ECOUNT that a
head's check asks for (07 R136), and the page fault of a tape page that the check needs (09 R171). -/
inductive Side where
  | bar (r : BarRec)
  | reread (head : Nat)
  | fault (va : BitVec 57)
deriving DecidableEq, Repr

/-- The bundle that is issuing: its context, the slot whose instruction runs, its PC and length in halfwords, XIMM when
it is the slot's own, the broadcast value, and the registers, the special registers, the heads of the core and their
HSTATE views as the bundle read them (04 R71). -/
structure Latch where
  ctx : Nat := 0
  slot : Nat := 0
  pcb : BitVec 16 := 0
  len : Nat := 1
  ximm : Option (BitVec 32) := none
  bp : Option Word := none
  regs : Regs := {}
  sr : SpecRegs := {}
  heads : SMap Head := []
  hview : SMap (BitVec 2) := []
  stop : Stop := .go
  /-- a BAR or BWAIT of the bundle waits: the bundle yields, and what it records stays -/
  waiting : Bool := false
  /-- the slots stand behind a SETTLE of their bundle: what program order holds them behind keeps them in the hold, and not the
  bundle from issuing (22 R324) -/
  behind : Bool := false
  /-- a source of a slot is empty and blocks (04 R69) -/
  empty : Bool := false
  /-- the cause of the trap that was raised -/
  cause : BitVec 8 := 0
  recs : List Side := []
deriving DecidableEq, Repr

/-- The destination of a slot that waits in a hold, as it stood before the bundle issued: its producer's tag, and whether it
was empty (04 R69, R74). -/
structure OldDest where
  slot : Nat
  reg : RegName
  tag : Nat
  empty : Bool
deriving DecidableEq, Repr

/-- Why a context offers no bundle: it waits for outstanding operations, then runs the slots kept with the operands
already read (08 R155, 22 R324 for SETTLE; 22 R329 for TBEXPECT). -/
structure Hold where
  ops : List Nat
  slots : List (Nat × Instr)
  latch : Latch
  /-- the RTT or EXIT of the bundle, which acts after its other slots (21 R300, 22 R321) -/
  last : List (Nat × Instr) := []
  /-- the owed trap, and the head that found it, that splits the bundle at its H slot (07 R148, 15 R244) -/
  atH : Option (Owed × Option Nat) := none
  olds : List OldDest := []
deriving DecidableEq, Repr

/-- Why a strand is being saved (09 Table 9-6): reason 0 pre-emption, 1 system stop, 2 LATE_MEMORY, 3 debug stop; the
cause and detail, and the PC of a system stop. -/
structure StopReq where
  reason : Nat
  cause : BitVec 8
  info : Word
  pc : BitVec 16
  /-- the deliveries that the freeze waited for (09 R168) -/
  waits : List Nat := []
  /-- a debug stop came while the strand was stopping (09 R177) -/
  debug : Bool := false
  /-- pre-emption takes the strand's whole gang, which is restored as a whole (03 R52) -/
  gang : Bool := false
deriving DecidableEq, Repr

/-- A hardware context (02 R31). -/
structure Ctx where
  regs : Regs := {}
  sr : SpecRegs := {}
  pc : BitVec 16 := 0
  /-- the next fetch is out of range (04 R64) -/
  oor : Bool := false
  idxbase : BitVec 16 := 0
  idxlen : BitVec 16 := 0
  kernel : Ranges := {}
  overlay : Option Ranges := none
  hact : Bool := false
  srcnt : Word := 0
  snap : Option Snapshot := none
  /-- RTT's re-entry: the slot to start at, and the operands latched (04 R75) -/
  reenter : Option (Nat × Option Snapshot) := none
  flight : List Flight := []
  /-- the latest producer of each register, by file × 64 + number -/
  tags : SMap Nat := []
  owed : List Owed := []
  /-- outstanding SETTLE operations -/
  settles : List Nat := []
  hold : Option Hold := none
  /-- the PC of the BAR SYNC bundle whose arrival is recorded: the SYNC-arrived bit (20 R286) -/
  syncAt : Option (BitVec 16) := none
  /-- the BAR WAITs that the offered bundle waits in: its PC, the slot, and the count of phases waited for (06 R119) -/
  waitAt : List (BitVec 16 × Nat × Nat) := []
  starve : Nat := 0
  /-- the unfrozen cycle before which an FP_TRAP enable holds issue (05 R99) -/
  fpHold : Nat := 0
  strand : Option StrandId := none
  /-- stopped, waiting for its save: offers no bundle (03 R58, 09 R166, R168, R177) -/
  stop : Option StopReq := none
  offered : Option Fetched := none
  /-- the VA of a parked request of the check of a head command of the offered bundle: a tape page (07 R136, 09 R171) -/
  needs : Option (BitVec 57) := none
  /-- the number of that request in the order in which requests parked (09 R171) -/
  needsAt : Nat := 0
  /-- the rereads of ECOUNT that the checks of the offered bundle have asked for (07 R136), by head: 1 awaited, 2 done, 3 the
  descriptor's line was uncorrectable -/
  rereads : SMap Nat := []
  /-- HSTATE view of each head (07 R150) -/
  hview : SMap (BitVec 2) := []
  /-- the reduction shadow of each set (05 R107) -/
  shadow : SMap Word := []
deriving DecidableEq, Repr

/-! ### Ranges and operations -/

/-- A range of scratchpad bytes, wrapping at 4 MiB. -/
structure Range where
  start : Nat
  len : Nat
deriving DecidableEq, Repr

/-- The record of a stage: the B operand of one MLDB or MLDH (11 R182, R192). -/
structure Stage where
  /-- the operation that loads it -/
  id : Nat := 0
  valid : Bool := false
  loading : Bool := false
  /-- invalid only because a slab that holds one of its slices failed (11 R199 check 3) -/
  failed : Bool := false
  bfmt : Nat := 0
  mode : Nat := 0
  ks : Nat := 0
  /-- which of the two planes of each slab holds its pass-0 slices; pass-1 slices lie in the other -/
  phys : Bool := false
  /-- the floor of each slice -/
  deal : List Nat := []
  live : BitVec 4 := 0
  freq : BitVec 4 := 0
  /-- why floors did not take part: [0] thermal, [1] power, [2] fault, [3] request -/
  reasons : BitVec 4 := 0
  job : Nat := 0
deriving DecidableEq, Repr

/-- An accepted MMAC (11 R198 to R201): its set, FIRST and LAST, its rows and addresses, the format of A, the zeroed groups
of mode S, the stage it reads, the reduction it adds to, and the events counted so far (05 R105). -/
structure Mmac where
  set : Bool
  first : Bool
  last : Bool
  rows : Nat
  abase : Nat
  ascale : Nat
  prog : Nat
  rq : Nat
  afmt : Nat
  zeroed : BitVec 32
  stage : Stage
  red : Nat
  events : Word := 0
deriving DecidableEq, Repr

/-- A drain (12 R215, R217): its set, program, queue and rows, FCTL[0] as its Retire read it, whether a failed unit has
stopped it, and whether its next unit is the first since it started or resumed. -/
structure Drain where
  set : Bool
  prog : Nat
  rq : Nat
  rmax : Nat
  nanStop : Bool := false
  stopped : Bool := false
  first : Bool := true
  /-- the set is cleared before the first unit: its reduction ended before the MMAC with FIRST that was to clear it began
  (11 R195) -/
  clear : Bool := false
deriving DecidableEq, Repr

/-- What an outstanding operation of an engine is; State.ops holds one for every command or request that has been
accepted and has not performed. -/
inductive OpKind where
  /-- HOPEN awaits its descriptor (07 R137) -/
  | hopen (head : Nat) (descVa : Nat) (pos : Nat) (mode : Nat)
  /-- HREAD: start position, count, destination, barrier address, format (07 R138); `raw` keeps group images -/
  | hread (head : Nat) (pos n elems dst : Nat) (tb : Option Nat) (fmt : Nat) (bk raw sat : Bool) (rm : Nat)
  /-- MLDB: delivery into the shadow planes (11 R186) -/
  | mldb (head : Nat) (pos n : Nat) (stage : Stage)
  /-- HWRITE (07 R140) -/
  | hwrite (head : Nat) (pos n src : Nat) (tag : Nat) (fmt : Nat) (bk : Bool) (mode : Nat) (sat : Bool) (rm : Nat)
  /-- HPOS (07 R137) -/
  | hpos (head : Nat) (pos : Nat)
  /-- HSKIP: its walk of the tags (07 R132, 21 R303) -/
  | hskip (head : Nat) (pos n : Nat)
  /-- HBACK, HMARK or HREWIND in its place in the head's queue: no performed effect (21 Table 21-3) -/
  | hmove (head : Nat)
  /-- HCLOSE (07 R141) -/
  | hclose (head : Nat)
  /-- XFER: scratchpad address, VA, source bytes, barrier (23 R354) -/
  | xfer (out : Bool) (sp va n : Nat) (tb : Option Nat) (arr : Bool) (cv : Nat) (rm : Nat)
  /-- a credit of bytes to an object on a core of the cluster; `arr` counts an arrival with it (06 R121, 23 R354) -/
  | credit (addr n : Nat) (arr : Bool)
  | tbarrive (addr : Nat)
  | tbexpect (addr : Nat) (n : Nat)
  /-- QSEND's write of a popped entry, and the object it credits (22 R319) -/
  | qsend (addr tb : Nat) (entry : Vec)
  /-- a remote load of `n` bytes into a register: sign-extended, or 64 lanes (06 R111) -/
  | rload (addr n : Nat) (signed : Bool) (vec : Bool)
  /-- a remote store of bytes -/
  | rstore (addr : Nat) (bytes : List Byte)
  /-- ATOM: address, operation, 8 bytes, operands, order, scope, and its number in the strand's journal when it is
  journalled (15 R250) -/
  | atom (va : Nat) (aop : Nat) (dbl : Bool) (b c : Word) (ord scope : Nat) (entry : Option Nat)
  /-- XFORM: job card, source, destination, source bytes (23 R356) -/
  | xform (card : Word) (src dst n : Nat) (rm : Nat)
  | settle (scope kind : Nat) (domains : BitVec 7)
  | trigger (scope : Nat)
  /-- LAUNCH: the packet's VA, the device-side queue, the launching strand's PL, its number in the journal, the packet once
  it has been read, and the slot of the queue once the packet stands in it (21 R309) -/
  | launch (va : Nat) (queue : Nat) (pl : BitVec 2) (entry : Option Nat) (pkt : Option (BitVec 512)) (slot : Option Nat)
  | ttnext
  /-- IFENCE LOAD: the image's VA (21 R306) -/
  | ifenceLoad (va : Nat)
  /-- COLL of a group: the DTIME of its issue, and once the collective has begun the rank and every rank's source, by rank
  (20 R293, 15 R243) -/
  | coll (group src n dst op ty root : Nat) (since : Nat) (begun : Option (Nat × List (List Byte)))
  /-- DPLOAD (12 R209) -/
  | dpload (prog addr part : Nat)
  /-- MLDH (11 R189) -/
  | mldh (n : Nat) (stage : Stage)
  /-- MMAC (11 R198, R200) -/
  | mmac (m : Mmac)
  /-- MSWAP (11 R190) -/
  | mswap
  /-- a retirement and its drain (11 R203, 12 R215); `prog` of the operation is the next lane group, counted over rows of 8 -/
  | drain (d : Drain)
  /-- a result that an engine returned to a saved strand, to be written into its slot (09 R172) -/
  | result (v : RegVal)
  /-- the end without a result of a request of a saved strand, whose PENDING bit is to clear (09 R172, R175) -/
  | noResult
deriving DecidableEq, Repr

/-- An outstanding operation: who issued it, its SETTLE domain bits (08 Table 8-4), the scratchpad ranges not yet read
and not yet written (06 R125), the operations it waits for, its progress, and the register it returns a result to with
the producer's tag. -/
structure Op where
  id : Nat
  core : Nat
  owner : StrandId
  tenant : BitVec 16
  domains : BitVec 7 := 0
  reads : List Range := []
  writes : List Range := []
  waits : List Nat := []
  prog : Nat := 0
  dest : Option (RegName × Nat) := none
  /-- the VA of a request that is parked behind a missing translation, and whether it writes (09 R171) -/
  parked : Option (BitVec 57 × Bool) := none
  /-- its number in the order in which requests parked -/
  arrival : Nat := 0
  /-- holds one of the core's 64 transfer records (06 R116) -/
  record : Bool := false
  /-- holds one of the core's 32 remote-access slots (06 R111) -/
  slot : Bool := false
  /-- what an IFENCE LOAD that has passed its checks is copying: its ranges and its image (21 R306) -/
  copying : Option (Ranges × List Byte) := none
  /-- a conversion took it out of the memory freeze (09 R168): it waits for its data without one -/
  late : Bool := false
  /-- the core's cycle at which it was accepted -/
  since : Nat := 0
  kind : OpKind
deriving DecidableEq, Repr

/-! ### A core -/

/-- A tag table entry (06 R113). -/
structure TagEntry where
  valid : Bool := false
  key : BitVec 63 := 0
  tenant : BitVec 16 := 0
deriving DecidableEq, Repr

/-- A packed-region entry (06 R114). -/
structure Packed where
  base : Nat
  len : Nat
  job : Nat
  /-- an XFORM with EXPD that has still to find how far its output reaches, with the granules that it may reach: LEN is 0 until
  then (log 17) -/
  open_ : Option (Nat × Nat) := none
deriving DecidableEq, Repr

/-- A named barrier of a job's group, over every core that binds it (06 R118, R119, 20 R288): the arrivals of each
member since binding, the phases completed, and the accesses that the arrivals release, each with the count of phases
at which its phase completes, before which it performs (08 R156). -/
structure BarNet where
  bar : Nat
  job : Nat
  group : Nat
  arrivals : SMap Nat := []
  phc : Nat := 0
  waits : List (Nat × Nat) := []
deriving DecidableEq, Repr

/-- A drain program (12 R207). -/
structure DrainProg where
  loaded : Bool := false
  job : Nat := 0
  code : List (BitVec 32) := []
  consts : List Lane := []
  kcol : SMap Lane := []
deriving DecidableEq, Repr

/-- The planes of four floors: cells by floor × 2^18 + row × 512 + column, E8M0 scales by floor × 8,192 + row × 16 + run,
sparsity metadata by floor × 2^17 + group × 512 + column (02 R31, 11 R182, R188). -/
structure Planes where
  cell : SMap (BitVec 16) := []
  scale : SMap Byte := []
  meta_ : SMap (BitVec 4) := []
deriving DecidableEq, Repr

/-- A reduction on an accumulator set (11 R200, R203, R206). -/
structure Reduction where
  /-- the operation of the MMAC that opened it -/
  id : Nat
  owner : StrandId
  elapsed : Nat := 0
  /-- an MMAC with LAST, an MRET or a forced retirement has started its Retire (11 R203) -/
  closed : Bool := false
  /-- the drain of an accepted MRET, which waits for the MMACs before it -/
  retire : Option Nat := none
  rmax : Nat := 0
  used : BitVec 4 := 0
  passes : Nat := 0
  req : BitVec 4 := 0
  skipped : Bool := false
  reasons : BitVec 4 := 0
  kpass : Nat := 0
  dprog : Nat := 0
  rq : Nat := 0
  shadow : Word := 0
  /-- its MMAC with FIRST stopped before it began, so the set is still to be cleared (11 R195, R200) -/
  clear : Bool := false
deriving DecidableEq, Repr

/-- An accumulator set. -/
structure AccSet where
  acc : SMap Lane := []
  /-- the reductions that have not retired, oldest first; at most the last of them is open -/
  reds : List Reduction := []
deriving DecidableEq, Repr

/-- A store of a drain unit: lane group, micro-operation, address, size in bytes and value (12 R213). -/
structure DrainStore where
  group : Nat
  stage : Nat
  addr : Nat
  size : Nat
  val : Lane
deriving DecidableEq, Repr

/-- The unit in a drain pipe: the drain's operation, its row, first lane group and number of lane groups, the
micro-operation that runs next, and the temporaries of its elements by element × 8 + number (12 R211, R216). -/
structure Pipe where
  op : Nat := 0
  row : Nat := 0
  group : Nat := 0
  width : Nat := 1
  rq : Nat := 0
  step : Nat := 0
  done : Bool := false
  /-- the first micro-operation that wrote a NaN into a temporary (12 R217) -/
  nan : Option Nat := none
  x : SMap Lane := []
  stores : List DrainStore := []
  /-- refused stores: lane group, micro-operation and reason -/
  refused : List (Nat × Nat × Nat) := []
  /-- entries to push: the lane group that completes it, the micro-operation, the entry -/
  pushes : List (Nat × Nat × Vec) := []
  /-- unfrozen cycles spent waiting for free queue entries -/
  waited : Nat := 0
deriving DecidableEq, Repr

/-- A core (02 R31, Table 2-3). -/
structure CoreSt where
  dict : SMap Bundle := []
  index : SMap (BitVec 16) := []
  /-- images held: VA of the image, its ranges, the job that loaded an overlay (03 R42, 21 R306) -/
  images : List (Nat × Ranges) := []
  sp : SMap Byte := []
  tags : SMap TagEntry := []
  packed : List Packed := []
  heads : SMap Head := []
  queues : SMap (List Vec) := []
  /-- the job and group that each named barrier is bound to on this core (06 R118) -/
  bars : List (Nat × Nat × Nat) := []
  progs : SMap DrainProg := []
  /-- the two planes of the slabs, and which is active -/
  plane0 : Planes := {}
  plane1 : Planes := {}
  swapped : Bool := false
  /-- the records of the two stages as the accepted commands leave them -/
  stageA : Stage := {}
  stageS : Stage := {}
  /-- loads that were cancelled and that an accepted MMAC may still wait on (11 R182) -/
  cancelled : List Nat := []
  sets : SMap AccSet := []
  mcfg : Word := 0
  mcfgSet : Bool := false
  retires : BitVec 16 := 0
  failed : BitVec 4 := 0
  /-- the strand that owns the matrix engine (11 R202) -/
  engine : Option StrandId := none
  /-- the unfrozen cycle in which the fetches of the last accepted MMAC end (11 R201, R204) -/
  fetchEnd : Nat := 0
  /-- the drains whose Retire has started, in that order (12 R215) -/
  drains : List Nat := []
  pipe : Option Pipe := none
  rp : Nat := 0
  /-- bank-conflict cycles left (06 R109) -/
  freeze : Nat := 0
  /-- the Hall monitor's count of the current memory freeze (09 R168) -/
  hall : Nat := 0
  /-- what that freeze waits for: operations, each with a granule that it awaits (09 R167) -/
  hallFor : List (Nat × Nat) := []
  /-- unfrozen cycles, which latencies count (04 R70) -/
  ucycle : Nat := 0
  /-- cycles since cold reset (04 R81, CYCLE) -/
  cycle : Nat := 0
  offline : Bool := false
  /-- granules a cancelled delivery or an ended transfer left unwritten, with the operations held behind them (07 R148):
  operation, granule address -/
  holes : List (Nat × Nat) := []
deriving DecidableEq, Repr

/-! ### The memory system -/

/-- The registers of 14 Table 14-5 but those that another field of State shows (IGO reads 1 while an access of `invalidating` is
parked, PGO 1 while there is a `promotion` or one is `promoting`, CGO 1 while `unmapping` is set; MOVING counts the moves). -/
structure MemRegs where
  ten : Bool := false
  rootbase : BitVec 43 := 0
  iasid : BitVec 16 := 0
  iall : Bool := false
  ievery : Bool := false
  iva : BitVec 57 := 0
  ipages : BitVec 32 := 0
  pasid : BitVec 16 := 0
  psize : Bool := false
  pstat : BitVec 3 := 0
  pva : BitVec 57 := 0
  ptarget : BitVec 43 := 0
  cframe : BitVec 27 := 0
  cop : BitVec 4 := 0
  cstat : BitVec 2 := 0
  charg : Word := 0
  interval : BitVec 16 := 1000
  aen : Bool := true
  migen : Bool := false
  migmax : BitVec 8 := 64
  attbase : BitVec 57 := 0
  attlog2n : BitVec 4 := 0
  attwr : BitVec 16 := 0
  attrd : BitVec 16 := 0
  attovf : Bool := false
  /-- the DTIME at which the interval in progress ends (14 R236) -/
  attend : Nat := 1000000
deriving DecidableEq, Repr

/-- A move in progress (14 R237): the frame, its old tier, the new tier and media, by the numbers of STATE and MEDIA. -/
structure Move where
  frame : Nat
  oldTier : Nat
  tier : Nat
  media : Nat
deriving DecidableEq, Repr

/-- An access parked behind a migration, in arrival order: frame, 64-byte line of the frame, and the operation; a request of
no operation has its core, or 128 for the host and 129 for the scrubber, and what it does; the block that the scrubber
poisons; and the ASID and page that the access was translated from, by ASID × 2^41 + page, or 2^60 for a DPA. -/
structure ParkedAccess where
  frame : Nat
  line : Nat
  op : Nat
  write : Bool
  act : Option (Nat × LineOp) := none
  poison : Option Nat := none
  key : Nat := 2 ^ 60
deriving DecidableEq, Repr

/-- A record of the Attendance ring that is to be written (14 Table 14-3): frame, TYPE, COUNT and INFO. -/
structure AttRec where
  frame : Nat
  type : Nat
  count : Nat
  info : Word
deriving DecidableEq, Repr

/-- A promotion in progress (14 R232): its ASID and VA, the first target frame, the frame of the table and the first entry
that it rewrites, W of the pages, the source frames, the entries as it read them, and how many it has rewritten. -/
structure Promotion where
  asid : BitVec 16
  va : BitVec 57
  target : Nat
  table : Nat
  index : Nat
  w : Bool
  sources : List Nat
  olds : List Word
  done : Nat := 0
deriving DecidableEq, Repr

/-- The memory system. A media address is stack × 2^36 + offset for near media (14 R224), and 2^52 + the host physical
address for far media and host memory (R229, R233). -/
structure MemSys where
  bytes : SMap Byte := []
  /-- uncorrectable 64-byte lines, by media address / 64 (14 R359) -/
  bad : SMap Bool := []
  /-- the Seating chart, by frame (14 R233) -/
  chart : SMap Word := []
  /-- free near media frames of each stack, by MEDIA (14 R234) -/
  pool : SMap (List Nat) := []
  moves : List Move := []
  parked : List ParkedAccess := []
  /-- the translations that the TLBs of a base die and of its cores hold, by die × 2^57 + ASID × 2^41 + 64 KiB page; more than one
  when an entry was changed without invalidation (14 R231) -/
  tlb : SMap (List Word) := []
  /-- sketch counters, by controller × 32,768 + row × 8,192 + index (14 R236) -/
  sketch : SMap (BitVec 16) := []
  /-- candidates of each controller: frame and estimate -/
  cands : SMap (List (Nat × Nat)) := []
  /-- activations of each row in the refresh window, by stack × 2^40 + pseudo-channel × 2^34 + row (14 R224, R228) -/
  acts : SMap Nat := []
  /-- (ASID, page, write) of the page faults recorded since the last replay (09 R171) -/
  faults : List (BitVec 16 × Nat × Bool) := []
  /-- stacks that are offline (15 R247) -/
  offline : BitVec 16 := 0
  promotion : Option Promotion := none
  /-- PASID, PVA, PTARGET and PSIZE of a PGO whose page tables wait behind a migration, while which PGO reads 1 (14 R232, R237) -/
  promoting : Option (BitVec 16 × BitVec 57 × BitVec 43 × Bool) := none
  /-- the frame of an UNMAP that waits for admitted requests, while which CGO reads 1 (14 R234) -/
  unmapping : Option Nat := none
  /-- the parked accesses that the last IGO waits for, translated through entries that it removed: while one of them is still
  parked, IGO reads 1 (14 R231) -/
  invalidating : List ParkedAccess := []
  /-- Attendance records that wait for a line behind a migration, oldest first (14 R236) -/
  attRecs : List AttRec := []
  regs : MemRegs := {}
deriving DecidableEq, Repr

/-! ### Jobs, strands and the command processor -/

/-- A group of a job (03 R43). -/
structure Group where
  scope : Nat
  gang : Bool
  members : List Nat
deriving DecidableEq, Repr

/-- The state of a strand, 03 Table 3-1. A strand that pre-emption or LATE_MEMORY saved is `saved` and not held: it
waits for its restore. -/
inductive StrandSt where
  | pending
  | resident (ctx : Nat)
  | saved
  | exited
  | lost
deriving DecidableEq, Repr

/-- What a save keeps beside the slot's image in memory, in the parts of the slot whose layout the spec does not give
(09 Table 9-5: snapshot, restart state, part's own area), log 5. -/
structure Saved where
  /-- the core it is restored on -/
  core : Nat
  /-- VA of the slot -/
  slot : Nat
  /-- held for a disposition; held by the debug function -/
  held : Bool := false
  dheld : Bool := false
  /-- its priority, and the PC, OWNS and SETA1 that the save wrote -/
  prio : Nat := 0
  pc : BitVec 16 := 0
  owns : Bool := false
  setA1 : Bool := false
  snap : Option Snapshot := none
  reenter : Option (Nat × Option Snapshot) := none
  owed : List Owed := []
  oor : Bool := false
  idxbase : BitVec 16 := 0
  idxlen : BitVec 16 := 0
  kernel : Ranges := {}
  overlay : Option Ranges := none
  syncAt : Option (BitVec 16) := none
  /-- the BAR WAITs that the offered bundle waits in: its PC, the slot, and the count of phases waited for (06 R119) -/
  waitAt : List (BitVec 16 × Nat × Nat) := []
  shadow : SMap Word := []
  hview : SMap (BitVec 2) := []
  tags : SMap Nat := []
  /-- deliveries a LATE_MEMORY save waits for -/
  waits : List Nat := []
  /-- the slots of a bundle that wait behind its SETTLE or TBEXPECT (22 R324, R329) -/
  hold : Option Hold := none
  /-- pre-emption took its whole gang, which is restored as a whole (03 R52) -/
  gang : Bool := false
  /-- the step of the save, which wrote the free bytes of the slot (log 5) -/
  savedAt : Nat := 0
deriving DecidableEq, Repr

/-- A strand of a job. -/
structure Strand where
  st : StrandSt := .pending
  triggered : Bool := false
  saved : Option Saved := none
  /-- the order of its latest placement (03 R58), and its core (R44, R51) -/
  placed : Nat := 0
  core : Option Nat := none
deriving DecidableEq, Repr

/-- A journal entry (15 R250): entry k of a strand, for its ATOMs or its LAUNCHes, with the address, the operation (the
queue for LAUNCH) and the returned value. -/
structure JEntry where
  strand : Nat
  launch : Bool
  k : Nat
  addr : Nat
  op : Nat
  value : Word
  /-- the DTIME at which it was written (15 R251) -/
  written : Word
deriving DecidableEq, Repr

/-- An entry of the launch record: an accepted job (03 R49, 15 R247 to R250). -/
structure Job where
  seq : Nat
  /-- the DTIME at which the entry was written (15 R251) -/
  written : Word := 0
  /-- the packet, its dependence fields as admitted -/
  packet : BitVec 512
  /-- 0 to 255 host queues, 256 to 319 device-side queues; none for a Timetable job -/
  queue : Option Nat
  slot : Nat
  tenant : BitVec 16
  prio : Nat
  depth : Nat := 0
  parent : Option StrandId := none
  groups : List Group := []
  /-- the header of its image (03 R40) -/
  header : BitVec 512 := 0
  params : List Word := []
  started : Bool := false
  completed : Bool := false
  status : Nat := 0
  strands : List Strand := []
  children : List Nat := []
  reruns : Nat := 0
  irrevocable : Bool := false
  /-- its write set is valid and its INPLACE regions fitted the snapshot store (15 R248, R249) -/
  wsetOk : Bool := false
  /-- the INPLACE regions at the job's start, by VA of the 64-byte line (15 R248) -/
  wset : List (Nat × BitVec 512) := []
  /-- the DTIME at which the snapshot was written (15 R251) -/
  wsetWritten : Word := 0
  journal : List JEntry := []
  /-- COLLs that each strand has issued on each group, by strand × 256 + group (20 R294) -/
  colls : SMap Nat := []
  /-- the aborted collectives: group, number, REASON and RANK (15 R244) -/
  aborted : List (Nat × Nat × Nat × Nat) := []
  /-- .logged ATOMs and LAUNCHes issued in this run, by strand × 2, + 1 for LAUNCH (15 R250) -/
  issued : SMap Nat := []
  /-- interrupted, and to be re-run (15 R247) -/
  rerun : Bool := false
  /-- interrupted and not to be re-run, or ended by an FLR or an abort: its strands are removed, and it completes once its
  children have completed and its operations have performed (15 R247) -/
  removed : Bool := false
  /-- the iteration of the Timetable that launched it (17 R260) -/
  iter : Option Nat := none
  /-- TICKN, OCC, DRAFT and BELLST of that iteration (17 Table 17-3) -/
  gen : List Word := []
deriving DecidableEq, Repr

/-- A queue's register block, 03 Table 3-7. -/
structure QueueRegs where
  sqbase : BitVec 57 := 0
  log2n : BitVec 4 := 0
  vector : BitVec 11 := 0
  ien : Bool := false
  enable : Bool := false
  tenant : BitVec 16 := 0
  priocap : BitVec 5 := 0
  sqwr : BitVec 16 := 0
  sqrd : BitVec 16 := 0
  cqbase : BitVec 57 := 0
  cqwr : BitVec 16 := 0
  cqrd : BitVec 16 := 0
  badidx : Bool := false
  /-- an FLR of its function has stopped admission from it (15 R246) -/
  stopped : Bool := false
  /-- completion records that the host has not read (R49) -/
  unread : Nat := 0
deriving DecidableEq, Repr

/-- The event queue's block, 09 Table 9-1, but REPLAY, which reads 0 between steps. -/
structure EventRegs where
  eqbase : BitVec 57 := 0
  log2n : BitVec 4 := 0
  vector : BitVec 11 := 0
  ien : Bool := false
  enable : Bool := false
  eqwr : BitVec 16 := 0
  eqrd : BitVec 16 := 0
  asid : BitVec 16 := 0
  page : BitVec 41 := 0
  eqovf : Bool := false
  djob : BitVec 56 := 0
  dstrand : BitVec 13 := 0
deriving DecidableEq, Repr

/-- A request of the command processor that is parked (09 R171): the ASID, page and kind of access; the job it serves, or
0 and the queue whose packet is being admitted; or queue 512 for the Timetable, and 513 for a look and 514 for a header of the
Bell, with the stream in `seq`. -/
structure CpPark where
  asid : BitVec 16
  page : Nat
  write : Bool
  seq : Nat
  queue : Nat
  /-- its number in the order in which requests parked -/
  arrival : Nat := 0
deriving DecidableEq, Repr

/-- The debug block, 09 Table 9-7. -/
structure DebugRegs where
  unlocked : Bool := false
  dtenant : BitVec 16 := 0
  djob : BitVec 56 := 0
  dstrand : BitVec 13 := 0
  dreq : BitVec 3 := 0
  go : Bool := false
  dres : BitVec 2 := 0
  /-- the request that waits for lines of a slot behind a migration (14 R237): 1 STOP, 2 READ, 3 WRITE, or 0 -/
  waits : BitVec 3 := 0
  slot : SMap Byte := []
  hview : SMap Word := []
  rcount : BitVec 16 := 0
deriving DecidableEq, Repr

/-- An entry of the session table (15 R242, R252): tenant, group id, the chips of the set and the total member count. -/
structure Session where
  tenant : BitVec 16 := 0
  group : BitVec 8 := 0
  valid : Bool := false
  total : BitVec 15 := 0
  chips : BitVec 64 := 0
deriving DecidableEq, Repr

/-- The fabric and recovery registers, 15 Table 15-2, but the session table; and the retries in a row of each port
(R241). -/
structure FabRegs where
  chip : BitVec 6 := 0
  domain : BitVec 8 := 0
  porten : BitVec 16 := 0
  portup : BitVec 16 := 0
  collto : BitVec 32 := 1000000
  recbase0 : BitVec 57 := 0
  recbase1 : BitVec 57 := 0
  recsize : BitVec 32 := 0
  recen : Bool := false
  hdmbase : BitVec 57 := 0
  retries : SMap Nat := []
deriving DecidableEq, Repr

/-- A stream of the Bell (17 Table 17-1): its registers; its next tick, the next token it takes, the cutoffs of its last
two steps (R267), while it holds the DTIME at which its step started (R268), and its ticks missed since its last step
(R269). -/
structure Stream where
  period : BitVec 32 := 0
  phase : BitVec 32 := 0
  lead : BitVec 32 := 0
  grace : BitVec 32 := 0
  policy : BitVec 2 := 0
  en : Bool := false
  attach : Bool := false
  cfgerr : Bool := false
  expect : BitVec 6 := 0
  tape : BitVec 57 := 0
  stepbase : BitVec 57 := 0
  steplog2n : BitVec 4 := 0
  dropcnt : BitVec 32 := 0
  latecnt : BitVec 32 := 0
  tick : Nat := 0
  token : Nat := 0
  cut1 : Int := 0
  cut2 : Int := 0
  holding : Option Nat := none
  missed : Nat := 0
  /-- the DTIME at which the step that takes the latest of its missed ticks starts (R269) -/
  late : Nat := 0
  /-- ECOUNT as a look found it that still waits for a line of the tape (R268) -/
  seen : Option Nat := none
deriving DecidableEq, Repr

/-- What a stream took or skipped at a step (17 R267, Table 17-4): the DTIME then, the first token, the tokens taken, those
that are late or dropped, and its bits of BELLST. -/
structure Take where
  stream : Nat
  start : Nat
  first : Nat
  count : Nat := 0
  late : BitVec 32 := 0
  drop : BitVec 32 := 0
  gap : Bool := false
  held : Bool := false
  skipped : Bool := false
deriving DecidableEq, Repr

/-- A step that the Bell gathers (17 R268): its tick number, missed ticks and start, the streams that hold, those whose look still
waits for a line, and what the others took. -/
structure BellStep where
  tick : Nat
  missed : Nat
  start : Nat
  waiting : List Nat := []
  unseen : List Nat := []
  takes : List Take := []
deriving DecidableEq, Repr

/-- The iteration in progress (17 R260 to R262): its number, its jobs, whether it is committed, the tick of its step, and
whether the Timetable stopped during it. -/
structure Iter where
  num : Nat
  jobs : List Nat
  committed : Bool := false
  tick : Nat := 0
  stopped : Bool := false
deriving DecidableEq, Repr

/-- The Timetable's and the Bell's registers (17 Table 17-1), OCC and DRAFT as the last boundary left them, the reset set
(R273), the iteration and the step in progress, and a trigger that is due with its tick number and BELLST (R260). -/
structure Timetable where
  run : Bool := false
  bell : Bool := false
  mstream : BitVec 4 := 0
  fen : Bool := false
  fsched : BitVec 6 := 0
  schbase : BitVec 57 := 0
  pendva : BitVec 57 := 0
  curva : BitVec 57 := 0
  iter : BitVec 48 := 0
  stop : BitVec 3 := 0
  misscnt : BitVec 32 := 0
  clksrc : BitVec 2 := 0
  locked : Bool := false
  buckets : SMap (BitVec 37) := []
  streams : SMap Stream := []
  occ : Nat := 0
  draft : BitVec 4 := 0
  resetSet : List (BitVec 16) := []
  current : Option Iter := none
  step : Option BellStep := none
  due : Option (Nat × Word) := none
  /-- the schedule and the bucket of the trigger that is due, and the packets as they were read, once (03 R38) -/
  read : Option (Nat × Nat × List (BitVec 512)) := none
  /-- step headers of streams on their own ticks that wait for a line: tick, missed ticks, and what was taken, oldest first -/
  headers : List (Nat × Nat × Take) := []
  /-- a trigger's jobs would have passed the last sequence number, and admission has stopped (03 R49) -/
  full : Bool := false
  /-- RUN has been set and its boundary is still to come (R263) -/
  starting : Bool := false
  /-- iterations that were running when RUN was set again after a stop -/
  past : List Iter := []
deriving DecidableEq, Repr


/-- An interrupt or event that the part raises to the host (03 R48, R49, 15 R254). -/
inductive HostSignal where
  | msix (vector : Nat)
  | event
  | fatal
deriving DecidableEq, Repr

/-- The fuses that the boot ROM checks firmware against (15 R253): the hash of the public key, and the least firmware sequence
number. -/
structure Fuses where
  keyHash : Nat := 0
  minSeq : Nat := 0
deriving DecidableEq, Repr

/-- The part's power and boot state (15 R253, R254). -/
inductive Power where
  | running
  /-- the boot chain failed a check: the part stays in reset -/
  | heldInReset
  /-- thermal shutdown, or power lost -/
  | off
deriving DecidableEq, Repr

/-- The machine. -/
structure State where
  ctxs : SMap Ctx := []
  cores : SMap CoreSt := []
  ops : List Op := []
  nextOp : Nat := 0
  issue : Latch := {}
  /-- the core whose drain pipe runs its next micro-operation (log 1) -/
  drainCore : Nat := 0
  nets : List BarNet := []
  jobs : List Job := []
  nextSeq : Nat := 1
  rot : Nat := 0
  placements : Nat := 0
  queues : SMap QueueRegs := []
  assign : SMap (BitVec 6) := []
  evq : EventRegs := {}
  /-- event records not yet in the ring, and those withheld because it was full (09 R169, R171) -/
  records : List (BitVec 256) := []
  withheld : List (BitVec 256) := []
  cpParked : List CpPark := []
  /-- the requests of no operation that are parked behind a missing translation, each with its number in the order in which
  requests parked (09 R171) -/
  reqs : List (Nat × MemReq) := []
  /-- the packets, by queue, that have been read and wait for their checks or for the record of their rejection: each is read
  once (03 R38) -/
  packets : List (Nat × BitVec 512) := []
  dbg : DebugRegs := {}
  signals : List HostSignal := []
  /-- the session table's entries, 0 to 63 (15 R242) -/
  sessions : SMap Session := []
  fab : FabRegs := {}
  tt : Timetable := {}
  power : Power := .running
  fuses : Fuses := {}
  /-- the virtual functions whose FLR waits for the completion records of their tenants' jobs (15 R246) -/
  flrs : List (BitVec 6) := []
  /-- the requests that have parked so far, which number those of operations in arrival order (09 R171) -/
  parks : Nat := 0
  mem : MemSys := {}
  /-- throttles of the floor dies (11 R192): bit tower × 8 + floor × 2 + 1 for power, + 0 for thermal -/
  throttles : BitVec 16 := 0
  /-- CCLK cycles since cold reset: every active core has counted as many or one more -/
  cclk : Nat := 0
  dtime : Word := 0
  /-- ninths of a nanosecond of DTIME, nanoseconds since the last slew, and the correction still to be slewed in
  nanoseconds (17 R265) -/
  dsub : Nat := 0
  dslew : Nat := 0
  slew : Int := 0
  tick : Nat := 0
  inputs : List Instr := []
deriving DecidableEq, Repr

/-- Why the machine stops. -/
inductive Fault where
  /-- raised by a step while the part is held in reset, shut down or without power and no reset is at hand
  (15 R253, R254): nothing runs. Safe: the hardware does nothing either. -/
  | off
deriving DecidableEq, Repr

/-- Why an instruction has no meaning. -/
inductive Refusal where
  /-- raised by an arm of exec whose meaning is not written. Safe: nothing is claimed. -/
  | notModelled (mnemonic : String)
deriving DecidableEq, Repr

/-- The machine right after a cold reset (15 R253): every field at its structure's default value. -/
def State.reset : State := {}

end Sys2Proof.Machine
end

