-- ==== Sys2Proof/Machine/Ops.lean ====
section
/-! DEFINITION. The named operations over contexts, cores, registers, strands and operations, and taking a trap: one
shared operation that every meaning calls (09 R164), with the system stop it may end in (R166). -/

namespace Sys2Proof.Machine

/-! ### Contexts, cores, jobs -/

/-- Context c, 0 to 511 (02 R29). -/
def State.ctx (s : State) (c : Nat) : Ctx := mget {} s.ctxs c
/-- The state with context c replaced. -/
def State.setCtx (s : State) (c : Nat) (x : Ctx) : State := { s with ctxs := mset {} s.ctxs c x }
/-- The state with context c changed. -/
def State.modCtx (s : State) (c : Nat) (f : Ctx → Ctx) : State := s.setCtx c (f (s.ctx c))
/-- Core k, 0 to 127 (02 R29). -/
def State.core (s : State) (k : Nat) : CoreSt := mget {} s.cores k
/-- The state with core k replaced. -/
def State.setCore (s : State) (k : Nat) (x : CoreSt) : State := { s with cores := mset {} s.cores k x }
/-- The state with core k changed. -/
def State.modCore (s : State) (k : Nat) (f : CoreSt → CoreSt) : State := s.setCore k (f (s.core k))

/-- The core of a context (02 R29). -/
def coreOf (c : Nat) : Nat := c / 4

/-- The contexts of a core. -/
def coreCtxs (k : Nat) : List Nat := [4 * k, 4 * k + 1, 4 * k + 2, 4 * k + 3]

/-- The context of the bundle that issues. -/
def State.cur (s : State) : Ctx := s.ctx s.issue.ctx
/-- Its core's number. -/
def State.curCore (s : State) : Nat := coreOf s.issue.ctx
/-- The state with the issuing context changed. -/
def State.modCur (s : State) (f : Ctx → Ctx) : State := s.modCtx s.issue.ctx f

/-- The job with a sequence number. -/
def findJob (seq : Nat) : List Job → Option Job
  | [] => none
  | j :: js => if j.seq = seq then some j else findJob seq js

/-- The launch record with a job changed. -/
def modJobList (seq : Nat) (f : Job → Job) : List Job → List Job
  | [] => []
  | j :: js => if j.seq = seq then f j :: js else j :: modJobList seq f js

/-- The state with a job changed. -/
def State.modJob (s : State) (seq : Nat) (f : Job → Job) : State := { s with jobs := modJobList seq f s.jobs }

/-- A strand of the launch record. -/
def State.strand (s : State) (i : StrandId) : Option Strand :=
  (findJob i.seq s.jobs).bind fun j => j.strands[i.idx]?

/-- The state with a strand changed. -/
def State.modStrand (s : State) (i : StrandId) (f : Strand → Strand) : State :=
  s.modJob i.seq fun j =>
    match j.strands[i.idx]? with
    | none => j
    | some x => { j with strands := setNth j.strands i.idx (f x) }

/-- The context a strand is bound to, when it is Resident (03 R35). -/
def State.ctxOf (s : State) (i : StrandId) : Option Nat :=
  match s.strand i with
  | some { st := .resident c, .. } => some c
  | _ => none

/-- The strand of the issuing context; a context that holds none answers for no job. -/
def State.curStrand (s : State) : StrandId := s.cur.strand.getD ⟨0, 0⟩

/-- The tenant of a strand's job, which is its address space (03 R46). -/
def State.tenantOf (s : State) (i : StrandId) : BitVec 16 :=
  match findJob i.seq s.jobs with
  | some j => j.tenant
  | none => 0#16

/-! ### Registers -/

/-- s register n; s0 reads zero (04 R68). -/
def Regs.sGet (r : Regs) (n : BitVec 6) : Word := if n = 0#6 then 0#64 else mget 0#64 r.s n.toNat
/-- m register n; m0 reads all ones (04 R68). -/
def Regs.mGet (r : Regs) (n : BitVec 4) : Word := if n = 0#4 then BitVec.allOnes 64 else mget 0#64 r.m n.toNat
/-- va (cluster false) or vb register n. -/
def Regs.vGet (r : Regs) (clusterB : Bool) (n : BitVec 5) : Vec :=
  if clusterB then mget Vec.zero r.vb n.toNat else mget Vec.zero r.va n.toNat

/-- The value of a register. -/
def Regs.get (r : Regs) (n : RegName) : RegVal :=
  match n.file.toNat with
  | 0 => .word (r.sGet n.num)
  | 1 => .lanes (r.vGet false (n.num.setWidth 5))
  | 2 => .lanes (r.vGet true (n.num.setWidth 5))
  | _ => .word (r.mGet (n.num.setWidth 4))

/-- Whether a register is empty; s0 and m0 stay full (04 R68, R69). -/
def Regs.isEmpty (r : Regs) (n : RegName) : Bool :=
  !n.discards && match n.file.toNat with
  | 0 => r.emptyS.getLsbD n.num.toNat
  | 1 => r.emptyVa.getLsbD n.num.toNat
  | 2 => r.emptyVb.getLsbD n.num.toNat
  | _ => r.emptyM.getLsbD n.num.toNat

/-- A bit of a mask set or cleared. -/
def withBit {w : Nat} (m : BitVec w) (n : Nat) (b : Bool) : BitVec w :=
  if b then m ||| BitVec.twoPow w n else m &&& ~~~ BitVec.twoPow w n

/-- The file with a register marked empty or full; s0 and m0 stay full. -/
def Regs.mark (r : Regs) (n : RegName) (empty : Bool) : Regs :=
  if n.discards then r else
  match n.file.toNat with
  | 0 => { r with emptyS := withBit r.emptyS n.num.toNat empty }
  | 1 => { r with emptyVa := withBit r.emptyVa n.num.toNat empty }
  | 2 => { r with emptyVb := withBit r.emptyVb n.num.toNat empty }
  | _ => { r with emptyM := withBit r.emptyM n.num.toNat empty }

/-- A word from a register value. -/
def RegVal.toWord : RegVal → Word
  | .word w => w
  | .lanes _ => 0#64
/-- Lanes from a register value. -/
def RegVal.toVec : RegVal → Vec
  | .word _ => Vec.zero
  | .lanes v => v

/-- Write(f, n, v) of 01 Table 1-5: the value written and the register marked full; a write to s0 or m0 is discarded. -/
def Regs.write (r : Regs) (n : RegName) (v : RegVal) : Regs :=
  if n.discards then r else
  match n.file.toNat with
  | 0 => { r with s := mset 0#64 r.s n.num.toNat v.toWord, emptyS := withBit r.emptyS n.num.toNat false }
  | 1 => { r with va := mset Vec.zero r.va n.num.toNat v.toVec, emptyVa := withBit r.emptyVa n.num.toNat false }
  | 2 => { r with vb := mset Vec.zero r.vb n.num.toNat v.toVec, emptyVb := withBit r.emptyVb n.num.toNat false }
  | _ => { r with m := mset 0#64 r.m n.num.toNat v.toWord, emptyM := withBit r.emptyM n.num.toNat false }

/-- The key of a register's producer tag. -/
def regKey (n : RegName) : Nat := n.file.toNat * 64 + n.num.toNat

/-! ### Results -/

/-- A fresh producer tag or operation number. -/
def State.fresh (s : State) : Nat := s.nextOp

/-- Marks a destination empty with a fresh producer (04 R69): the context, the counter advanced. -/
def State.claim (s : State) (n : RegName) : State :=
  let t := s.nextOp
  { s.modCur (fun c => if n.discards then c
      else { c with regs := c.regs.mark n true, tags := mset 0 c.tags (regKey n) t }) with nextOp := t + 1 }

/-- The unfrozen cycle of the issuing context's core (04 R70). -/
def State.now (s : State) : Nat := (s.core s.curCore).ucycle

/-- A fixed-latency result (04 R69, R70): the destination is empty until `lat` unfrozen cycles have passed. -/
def State.result (s : State) (n : RegName) (lat : Nat) (v : RegVal) (flags : BitVec 5) : State :=
  let t := s.nextOp
  let f : Flight := ⟨n, t, s.now + lat, v, flags⟩
  if n.discards then s
  else { s.modCur (fun c =>
    { c with regs := c.regs.mark n true, tags := mset 0 c.tags (regKey n) t, flight := c.flight ++ [f] }) with nextOp := t + 1 }

/-- A result of an s register. -/
def State.resultS (s : State) (d : BitVec 6) (lat : Nat) (v : Word) : State := s.result (sReg d) lat (.word v) 0#5

/-- Lands one result: discarded when a later producer to the register has issued; its flags merge either way (04 R69,
05 R98). -/
def Ctx.land (c : Ctx) (f : Flight) : Ctx :=
  { c with
    regs := if mget 0 c.tags (regKey f.reg) = f.tag then c.regs.write f.reg f.val else c.regs
    sr := { c.sr with fflags := c.sr.fflags ||| f.flags } }

/-- Lands every result that is due at unfrozen cycle u, in issue order. -/
def Ctx.landDue (u : Nat) (c : Ctx) : Ctx :=
  let c' := c.flight.foldl (fun x f => if f.due ≤ u then x.land f else x) c
  { c' with flight := c.flight.filter fun f => u < f.due }

/-! ### Outstanding operations -/

/-- The operation with a number. -/
def findOp (n : Nat) : List Op → Option Op
  | [] => none
  | o :: os => if o.id = n then some o else findOp n os

/-- The operation with a number. -/
def State.op (s : State) (n : Nat) : Option Op := findOp n s.ops

/-- A new operation at the end of the list, its number given by the counter. -/
def State.addOp (s : State) (o : Op) : State :=
  { s with ops := s.ops ++ [{ o with id := s.nextOp, since := (s.core o.core).cycle }], nextOp := s.nextOp + 1 }

/-- A result that an engine returns (04 Table 4-6, variable), where its producer is still the register's latest: into the
strand's context where it is Resident; a saved strand's result is written into its slot by a step of its own
(09 R172), until when the remote-access slot of a load stays taken, which `slot` says (06 R111); to an exited strand it is
discarded (21 R300). -/
def State.deliver (s : State) (i : StrandId) (dest : Option (RegName × Nat)) (v : RegVal) (slot : Bool := false) : State :=
  match dest, s.strand i with
  | some (n, t), some { st := .resident c, .. } =>
    s.modCtx c fun x => if mget 0 x.tags (regKey n) = t then { x with regs := x.regs.write n v } else x
  | some (n, t), some { st := .saved, saved := some w, .. } =>
    if mget 0 w.tags (regKey n) = t then
      s.addOp { id := 0, core := w.core, owner := i, tenant := s.tenantOf i, dest := some (n, t), slot := slot, kind := .result v }
    else s
  | _, _ => s

/-- The list with an operation replaced. -/
def setOpList (o : Op) : List Op → List Op
  | [] => []
  | p :: ps => if p.id = o.id then o :: ps else p :: setOpList o ps

/-- The state with an operation replaced. -/
def State.setOp (s : State) (o : Op) : State := { s with ops := setOpList o s.ops }

/-- An operation has performed or ended: it leaves the list, with its record or slot. -/
def State.endOp (s : State) (n : Nat) : State := { s with ops := s.ops.filter fun o => o.id != n }

/-- An operation ends without the result that it owes: the register stays empty, and the PENDING bit that a save has set for it
clears, in a step of its own, so that the strand may be restored (09 R172, R175). -/
def State.endUnanswered (s : State) (o : Op) : State :=
  let t := s.endOp o.id
  match o.dest, s.strand o.owner with
  | some (n, g), some { st := .saved, saved := some w, .. } =>
    if mget 0 w.tags (regKey n) = g then
      t.addOp { id := 0, core := w.core, owner := o.owner, tenant := o.tenant, dest := some (n, g), kind := .noResult }
    else t
  | _, _ => t

/-- Whether every operation of a list has performed. -/
def State.performed (s : State) (ns : List Nat) : Bool := ns.all fun n => (s.op n).isNone

/-- A stopped drain: what it has left belongs to the MRET that resumes it (12 R219). -/
def OpKind.standsStopped : OpKind → Bool
  | .drain d => d.stopped
  | _ => false

/-- The outstanding operations of a strand whose domains meet `d`; all of them when `d` is none. -/
def State.opsOf (s : State) (i : StrandId) (d : Option (BitVec 7)) : List Nat :=
  (s.ops.filter fun o => o.owner == i && !o.kind.standsStopped
    && (match d with | none => true | some m => o.domains &&& m != 0#7)).map (·.id)

/-- No operation that a predicate picks waits for operation n any more. -/
def State.unwait (s : State) (n : Nat) (p : OpKind → Bool) : State :=
  { s with ops := s.ops.map fun o => if p o.kind then { o with waits := o.waits.filter (· != n) } else o }

/-- Free transfer records of a core: 64 in all (06 R116). -/
def State.recordsUsed (s : State) (k : Nat) : Nat := (s.ops.filter fun o => o.core == k && o.record).length
/-- Remote-access slots in use on a core: 32 in all (06 R111). -/
def State.slotsUsed (s : State) (k : Nat) : Nat := (s.ops.filter fun o => o.core == k && o.slot).length

/-- The head whose command an operation is. -/
def OpKind.headOf : OpKind → Option Nat
  | .hopen h .. | .hread h .. | .mldb h .. | .hwrite h .. | .hpos h .. | .hclose h | .hskip h .. | .hmove h => some h
  | _ => none

/-- Accepted commands outstanding on a head, oldest first (07 R134). -/
def State.headOps (s : State) (k h : Nat) : List Op := s.ops.filter fun o => o.core == k && o.kind.headOf == some h

/-- Head h of core k. -/
def State.head (s : State) (k h : Nat) : Head := mget {} (s.core k).heads h

/-- WMKn: the slots that the oldest delivery of the head has written, or that its last one wrote (07 R142). -/
def State.wmk (s : State) (k h : Nat) : Nat :=
  match (s.headOps k h).find? fun o => match o.kind with | .hread .. | .mldb .. => true | _ => false with
  | some o => o.prog
  | none => (s.head k h).wmk

/-- The state with a head changed. -/
def State.modHead (s : State) (k h : Nat) (f : Head → Head) : State :=
  s.modCore k fun c => { c with heads := mset {} c.heads h (f (mget {} c.heads h)) }

/-- Whether an operation reads memory that other agents see, for SETTLE's acq (08 R155). DESIGN CHOICE (log 32): a credit, QSEND's
too, is an atomic operation (06 R120) whose read returns nothing, and counts as a write alone. -/
def OpKind.isRead : OpKind → Bool
  | .hread .. | .mldb .. | .xfer .. | .rload .. | .atom .. | .coll .. | .xform .. | .mmac .. | .drain .. | .hwrite .. | .dpload ..
  | .hopen .. | .hskip .. => true
  | _ => false

/-- Whether an operation writes memory that other agents see, for SETTLE's rel (08 R155). -/
def OpKind.isWrite : OpKind → Bool
  | .hread .. | .hwrite .. | .xfer .. | .rstore .. | .atom .. | .qsend .. | .coll .. | .xform .. | .drain .. | .credit ..
  | .hopen .. | .hclose .. => true
  | .mmac m => m.last
  | _ => false

/-! ### Trap causes, 04 Table 4-14 -/

def cIllegalBundle : BitVec 8 := 0x01
def cIllegalIndex : BitVec 8 := 0x02
def cEmptyRead : BitVec 8 := 0x03
def cPrivilege : BitVec 8 := 0x04
def cHeadUe : BitVec 8 := 0x08
def cHeadRange : BitVec 8 := 0x09
def cHeadFormat : BitVec 8 := 0x0A
def cHeadBlank : BitVec 8 := 0x0B
def cTapeWriter : BitVec 8 := 0x0C
def cQueueOvf : BitVec 8 := 0x10
def cQueueUnf : BitVec 8 := 0x11
def cDrainFault : BitVec 8 := 0x12
def cFloorUnavail : BitVec 8 := 0x13
def cReductionLimit : BitVec 8 := 0x14
def cMatrixBusy : BitVec 8 := 0x15
def cXferSize : BitVec 8 := 0x18
def cPackedRead : BitVec 8 := 0x19
def cTbOvf : BitVec 8 := 0x1A
def cRubric : BitVec 8 := 0x1B
def cPageFault : BitVec 8 := 0x20
def cLateMemory : BitVec 8 := 0x21
def cPreempt : BitVec 8 := 0x22
def cCollAbort : BitVec 8 := 0x28
def cFpTrap : BitVec 8 := 0x30
def cSwTrap : BitVec 8 := 0x38
def cMachineCheck : BitVec 8 := 0x3F

/-! ### Yielding and trapping -/

/-- Yield() of 01 Table 1-5: the bundle does not issue. The merge stage undoes the whole bundle. -/
def State.yields (s : State) : State := { s with issue := { s.issue with stop := .yields } }

/-- The causes that Table 4-14 marks "strand first". -/
def strandFirst (c : BitVec 8) : Bool :=
  !(c == 0x20#8 || c == 0x21#8 || c == 0x22#8 || c == 0x3F#8)

/-- A debug stop is on its way, by itself or beside another stop (09 R177). -/
def debugPending : Option StopReq → Bool
  | some r => r.debug || r.reason == 3
  | none => false

/-- A stop that pre-emption has made part of a gang's (03 R52). -/
def gangPending : Option StopReq → Bool
  | some r => r.gang
  | none => false

/-- SystemStop(c, i), 09 R166: the context offers no further bundle; STRAND_SAVE saves it, held, and writes the event
record. A debug stop on its way stays (R177). -/
def Ctx.systemStop (x : Ctx) (cause : BitVec 8) (info : Word) (pc : BitVec 16) : Ctx :=
  { x with stop := some { reason := 1, cause := cause, info := info, pc := pc, debug := debugPending x.stop, gang := gangPending x.stop }
           pc := pc }

/-- XPC, XCAUSE and XINFO of a trap. -/
def SpecRegs.trapped (r : SpecRegs) (cause : BitVec 8) (info : Word) (pc : BitVec 16) : SpecRegs :=
  { r with xpc := pc, xcause := cause, xinfo := info }

/-- A trap delivered to a context, 09 R164. SLOTRES, SNAPV and the snapshot are already as the split left them. XPC, XCAUSE and
XINFO are those of the trap, DEDUCED for one that goes to the system (04 R64, R74, 19 R280; log 12), and in a handler they keep
the first trap's (R165). -/
def Ctx.trap (x : Ctx) (cause : BitVec 8) (info : Word) (pc : BitVec 16) : Ctx :=
  let x := { x with offered := none, reenter := none, oor := false, needs := none, rereads := [] }
  if x.hact then x.systemStop cause info pc
  else
    let y := { x with sr := x.sr.trapped cause info pc }
    if strandFirst cause && x.sr.xvec != 0#16 then { y with hact := true, pc := x.sr.xvec } else y.systemStop cause info pc

/-- The split of 04 R74 at slot k: SLOTRES, SNAPV and the operands latched with the bundle's PC. -/
def Ctx.split (x : Ctx) (l : Latch) (k : Nat) : Ctx :=
  { x with sr := { x.sr with slotres := BitVec.ofNat 3 k, snapv := true }, snap := some ⟨l.regs, l.bp, l.pcb⟩ }

/-- A trap that commits nothing of the bundle: SLOTRES 7, SNAPV 0 (04 R64, R67, 09 R165). -/
def Ctx.whole (x : Ctx) : Ctx := { x with sr := { x.sr with slotres := 7#3, snapv := false } }

/-- An event record, 09 Table 9-4. -/
structure EventRec where
  va : BitVec 57 := 0
  write : Bool := false
  atomic : Bool := false
  kind : BitVec 4
  asid : BitVec 16 := 0
  core : BitVec 7 := 0
  engine : BitVec 4 := 0
  cause : BitVec 8
  strand : BitVec 13 := 0
  seq : BitVec 56 := 0

/-- The 256 bits of an event record written at device time `dt`. -/
def EventRec.bits (r : EventRec) (dt : Word) : BitVec 256 :=
  0#24 ++ dt.setWidth 48 ++ r.seq ++ 0#3 ++ r.strand ++ 0#8 ++ r.cause ++ 0#5 ++ r.engine ++ r.core ++ r.asid
    ++ r.kind ++ 0#1 ++ BitVec.ofBool r.atomic ++ BitVec.ofBool r.write ++ r.va

/-- An event record as written to the ring at device time `dt`: DTIME is that of the write (09 Table 9-4). -/
def stampRecord (r : BitVec 256) (dt : Word) : BitVec 256 := r.extractLsb' 232 24 ++ dt.setWidth 48 ++ r.extractLsb' 0 184

/-- An event record for the event queue; the part writes it to the ring as soon as the ring has room (09 R169). -/
def State.record (s : State) (r : EventRec) : State := { s with records := s.records ++ [r.bits s.dtime] }

/-- The VA of the save slot that a job's packet gives a strand (03 R39). -/
def Job.slotVa (j : Job) (n : Nat) : Nat := (j.packet.extractLsb' 192 51).toNat * 64 + 24576 * n

/-- A debug request that waits for a strand's save finishes, refused, when the strand is not saved (09 R178; log 28). -/
def State.dropDebug (s : State) (i : StrandId) : State :=
  if s.dbg.go && s.dbg.djob.toNat = i.seq && s.dbg.dstrand.toNat = i.idx then { s with dbg := { s.dbg with go := false, waits := 0#3, dres := 3#2 } }
  else s

/-- The engine that an event record names for a trap cause (09 Table 9-4): 0 a head's faults, 3 COLL_ABORT; the other engines
of a core, which the table does not list, count as transfers. DESIGN CHOICE (log 12). -/
def causeEngine (c : BitVec 8) : Nat :=
  if 8 ≤ c.toNat && c.toNat ≤ 0x0C then 0 else if c = cCollAbort then 3 else 1

/-- A strand that has exited takes no trap: an event record of kind 1, and its job ends with FAULTED (21 R300). -/
def State.faultExited (s : State) (i : StrandId) (cause : BitVec 8) (engine : Nat := causeEngine cause) : State :=
  let slot := match findJob i.seq s.jobs with | some j => j.slotVa i.idx | none => 0
  let core := ((s.strand i).bind (·.core)).getD 0
  (s.modJob i.seq fun j => { j with status := if 0x20 ≤ j.status then j.status else 0x22 }).record
    { va := BitVec.ofNat 57 slot, kind := 1#4, cause := cause, asid := s.tenantOf i, core := BitVec.ofNat 7 core
      engine := BitVec.ofNat 4 engine, strand := BitVec.ofNat 13 i.idx, seq := BitVec.ofNat 56 i.seq }

/-- Whether a strand has exited. -/
def State.hasExited (s : State) (i : StrandId) : Bool :=
  match s.strand i with
  | some { st := .exited, .. } => true
  | _ => false

/-- Trap(cause, info) of 01 Table 1-5 raised by slot k of the issuing bundle: the bundle splits at k and the trap is
delivered. -/
def State.trapAt (s : State) (k : Nat) (cause : BitVec 8) (info : Word) : State :=
  let s := { s with issue := { s.issue with stop := .trapped, cause := cause } }
  if s.hasExited s.curStrand then s.faultExited s.curStrand cause
  else s.modCur fun x => (x.split s.issue k).trap cause info s.issue.pcb

/-- Trap raised by the slot that runs. -/
def State.trap (s : State) (cause : BitVec 8) (info : Word) : State := s.trapAt s.issue.slot cause info

/-- A trap owed to a strand (09 R165): kept for its next bundle boundary, in its context or in its save; an exited
strand's job ends with FAULTED, in the record of which `engine` stands, but TB_OVF only raises a host event (21 R300, 06 R122). -/
def State.owe (s : State) (i : StrandId) (o : Owed) (engine : Nat := causeEngine o.cause) : State :=
  match s.strand i with
  | some { st := .resident c, .. } => s.modCtx c fun x => { x with owed := x.owed ++ [o] }
  | some { st := .saved, .. } =>
    s.modStrand i fun x => { x with saved := x.saved.map fun v => { v with owed := v.owed ++ [o] } }
  | some { st := .exited, .. } =>
    if o.cause == cTbOvf then { s with signals := s.signals ++ [.event] } else s.faultExited i o.cause engine
  | _ => s

end Sys2Proof.Machine
end

