-- ==== Sys2Proof/Machine/Operands.lean ====
section
/-! DEFINITION. Operand forms: sources with their policy bits, the check of empty sources (04 R69), immediates and
XIMM (04 R76), branch offsets, and the broadcast port (04 R69, R77). -/

namespace Sys2Proof.Machine

/-- What a meaning answers. -/
abbrev Out := Host.Outcome State Fault Refusal

/-- A register source of a slot: its policy bit and its field number in 04 Table 4-15. -/
structure Source where
  reg : RegName
  pol : Bool
  field : Nat
deriving DecidableEq, Repr

/-- An s register source. -/
def srcOf (a : Src) (field : Nat) : Source := ⟨sReg a.reg, a.pol, field⟩

/-- XINFO of EMPTY_READ, 04 Table 4-15. -/
def emptyReadInfo (r : RegName) (slot field : Nat) : Word :=
  (0#51 ++ BitVec.ofNat 2 field ++ BitVec.ofNat 3 slot ++ r.file ++ r.num : BitVec 64)

/-- The empty trap-policy source of the lowest field. -/
def lowestTrap (l : Latch) : List Source → Option Source
  | [] => none
  | x :: xs =>
    if l.regs.isEmpty x.reg && x.pol then
      match lowestTrap l xs with
      | some y => if y.field < x.field then some y else some x
      | none => some x
    else lowestTrap l xs

/-- Reads the sources of a slot (04 R69): with every one full the slot goes on; with an empty one of the trap policy it
raises EMPTY_READ; otherwise the bundle yields. -/
def State.reading (s : State) (srcs : List Source) (k : State → State) : State :=
  if srcs.all fun x => !s.issue.regs.isEmpty x.reg then k s
  else match lowestTrap s.issue srcs with
    | some x => s.trap cEmptyRead (emptyReadInfo x.reg s.issue.slot x.field)
    | none => { s.yields with issue := { s.yields.issue with empty := true } }

/-- The value of a source s register, as the bundle read it. -/
def State.sVal (s : State) (a : Src) : Word := s.issue.regs.sGet a.reg
/-- The value of a mask, as the bundle read it; m0 is all ones. -/
def State.mVal (s : State) (n : BitVec 4) : Word := s.issue.regs.mGet n
/-- Lane i of a vector. -/
def lane (v : Vec) (i : Nat) : Lane := nth 0#32 v i
/-- The 64 lanes f 0, …, f 63. -/
def lanesOf (f : Nat → Lane) : Vec := (upto 64).map f
/-- The value of a vector register, as the bundle read it: 64 lanes. -/
def State.vVal (s : State) (clusterB : Bool) (n : BitVec 5) : Vec := lanesOf (lane (s.issue.regs.vGet clusterB n))
/-- The broadcast port's value. -/
def State.bpVal (s : State) : Word := s.issue.bp.getD 0#64

/-- The 13-bit immediate, or XIMM when XOWN names the slot, sign-extended to 64 bits (04 R76). -/
def State.imm (s : State) (imm : BitVec 13) : Word :=
  match s.issue.ximm with
  | some x => x.signExtend 64
  | none => imm.signExtend 64

/-- CMPI's immediate (04 R76). -/
def State.imm10 (s : State) (imm : BitVec 10) : Word :=
  match s.issue.ximm with
  | some x => x.signExtend 64
  | none => imm.signExtend 64

/-- A branch offset in halfwords (04 R76). -/
def State.offset (s : State) (off : BitVec 16) : Int :=
  match s.issue.ximm with
  | some x => x.toInt
  | none => off.toInt

end Sys2Proof.Machine
end

