-- ==== Sys2Proof/Machine/Flags.lean ====
section
/-! DEFINITION. Flags and conditions: the five sticky flags of FFLAGS (04 Table 4-13, 05 R97), the conditions of
branches and compares (04 R76, 20 R291, 23 R338), and FP_TRAP's choice of lane (05 R99). -/

namespace Sys2Proof.Machine

/-- Flags in FFLAGS order: [0] NV, [1] DZ, [2] OF, [3] UF, [4] NX. -/
abbrev Flags := BitVec 5
def fNV : Flags := 1
def fDZ : Flags := 2
def fOF : Flags := 4
def fUF : Flags := 8
def fNX : Flags := 16

/-- CC of BR and LOOP: a signed comparison with zero (04 R76). -/
def condCC (cc : BitVec 3) (a : Word) : Bool :=
  match cc.toNat with
  | 0 => a == 0#64
  | 1 => a != 0#64
  | 2 => a.toInt < 0
  | 3 => 0 ≤ a.toInt
  | 4 => a.toInt ≤ 0
  | 5 => 0 < a.toInt
  | _ => true

/-- The condition of CMP and CMPI: eq, ne, lt, ge, ltn, gen (20 R291). -/
def condCmp (c : Nat) (a b : Word) : Bool :=
  match c with
  | 0 => a == b
  | 1 => a != b
  | 2 => a.toInt < b.toInt
  | 3 => b.toInt ≤ a.toInt
  | 4 => a.toNat < b.toNat
  | _ => b.toNat ≤ a.toNat

/-- 1 when the condition holds and 0 otherwise. -/
def boolWord (b : Bool) : Word := if b then 1#64 else 0#64

/-- The union of the flags of a list of lanes. -/
def unionFlags (fs : List Flags) : Flags := fs.foldl (· ||| ·) 0#5

/-- The lowest lane that raised a flag whose enable is set. -/
def lowestEnabled (en : Flags) : List (Nat × Flags) → Option Nat
  | [] => none
  | (i, f) :: fs => if f &&& en != 0#5 then some i else lowestEnabled en fs

end Sys2Proof.Machine
end

