-- ==== Sys2Proof/Machine/Control.lean ====
section
/-! DEFINITION. Control transfers: BR, CALL, JMP, LOOP, RET (20 R287, R289, 21 R307, R311, 22 R320), the return from a
trap RTT (22 R321), TRAP (22 R331), and the end of a strand: TRIGGER and EXIT (22 R332, 21 R300). -/

namespace Sys2Proof.Machine

/-- A control transfer to target t (04 R64): PC takes its low 16 bits, and a target outside 0 to IDXLEN − 1 marks the
next fetch out of range. -/
def Ctx.jump (x : Ctx) (t : Int) : Ctx :=
  { x with pc := BitVec.ofInt 16 t, oor := !(decide (0 ≤ t) && decide (t < x.idxlen.toNat)) }

/-- The halfword after the bundle: the link of CALL and JMP. -/
def State.link (s : State) : Word := BitVec.ofNat 64 (s.issue.pcb.toNat + s.issue.len)

/-- The target of a branch, PCb + off. -/
def State.target (s : State) (off : BitVec 16) : Int := s.issue.pcb.toNat + s.offset off

/-- BR, 20 R287. -/
def execBr (a : Src) (cc : BitVec 3) (off : BitVec 16) (s : State) : Out :=
  .next (s.reading [srcOf a 0] fun s => if condCC cc (s.sVal a) then s.modCur (·.jump (s.target off)) else s)

/-- CALL, 20 R289. -/
def execCall (off : BitVec 16) (s : State) : Out :=
  .next ((s.resultS 63#6 1 s.link).modCur (·.jump (s.target off)))

/-- JMP, 21 R307: the target is the register's unsigned 64-bit value. -/
def execJmp (d : BitVec 6) (a : Src) (s : State) : Out :=
  .next (s.reading [srcOf a 0] fun s => (s.resultS d 1 s.link).modCur (·.jump (s.sVal a).toNat))

/-- LOOP, 21 R311. -/
def execLoop (a : Src) (cc : BitVec 3) (off : BitVec 16) (s : State) : Out :=
  .next (s.reading [srcOf a 0] fun s =>
    let v := s.sVal a - 1#64
    let t := s.resultS a.reg 1 v
    if condCC cc v then t.modCur (·.jump (s.target off)) else t)

/-- RET, 22 R320. -/
def execRet (a : Src) (s : State) : Out :=
  .next (s.reading [srcOf a 0] fun s => s.modCur (·.jump (s.sVal a).toNat))

/-- TRAP, 22 R331: its own effect is the trap, so the bundle splits after S1. -/
def execTrap (imm : BitVec 13) (s : State) : Out := .next (s.trapAt 2 cSwTrap (imm.setWidth 64))

/-- The return from a trap, 22 R321 and 04 R75. XPC, SLOTRES and SNAPV are read as they stood before the bundle. -/
def Ctx.rtt (x : Ctx) (sr : SpecRegs) : Ctx :=
  let snap := if sr.snapv then x.snap else none
  let k := if sr.snapv && (x.snap.map (·.pc)) != some sr.xpc then 7 else sr.slotres.toNat
  { x with
    hact := false
    sr := { x.sr with slotres := 7#3, snapv := false }
    pc := sr.xpc
    oor := false
    snap := none
    reenter := if k = 7 then none else some (k, snap) }

/-- RTT: PRIVILEGE outside a handler at PL 0. -/
def execRtt (s : State) : Out :=
  .next (if s.issue.sr.pl = 0#2 && !s.cur.hact then s.trap cPrivilege 0x100#64 else s.modCur (·.rtt s.issue.sr))

/-- The scope of TRIGGER's release, the packet's TSCOPE (03 Table 3-2). -/
def Job.tscope (j : Job) : Nat := (j.packet.extractLsb' 124 4).toNat

/-- Whether a strand has executed TRIGGER: its release has performed, or is outstanding (03 R61). -/
def State.hasTriggered (s : State) (i : StrandId) : Bool :=
  (match s.strand i with | some x => x.triggered | none => false)
  || s.ops.any fun o => o.owner == i && (match o.kind with | .trigger _ => true | _ => false)

/-- The release of R61: an operation that performs once every access that the strand issued before has performed; it
then counts toward R50. A second TRIGGER changes nothing. -/
def State.release (s : State) (i : StrandId) : State :=
  if s.hasTriggered i then s
  else match findJob i.seq s.jobs with
    | none => s
    | some j => s.addOp
      { id := 0, core := s.curCore, owner := i, tenant := j.tenant, waits := s.opsOf i none, kind := .trigger j.tscope }

/-- TRIGGER, 22 R332. -/
def execTrigger (s : State) : Out := .next (s.release s.curStrand)

/-- What is owed to strand i, in its context c and at the heads of core k, as it exits: it became owed while a SETTLE or a TBEXPECT
of the EXIT's bundle held the EXIT, after the boundary before the bundle. DESIGN CHOICE (log 12): it counts as found after the
exit (21 R300). -/
def State.owedAtExit (s : State) (c k : Nat) (i : StrandId) : State :=
  let t := (s.ctx c).owed.foldl (fun t o => t.owe i o) (s.modCtx c fun x => { x with owed := [] })
  (upto 16).foldl (fun t h => match (t.head k h).fault with
    | some (o, j) => if j = i then (t.modHead k h fun x => { x with fault := none }).faultExited i o.cause else t
    | none => t) t

/-- EXIT, 21 R300: the release of a strand that has not triggered, then the strand is Exited; its context is free once
its fixed-latency results have landed. A debug stop that waited for its save is refused (09 R178; log 28). -/
def execExit (s : State) : Out :=
  let i := s.curStrand
  .next ((((s.release i).modStrand i fun x => { x with st := .exited }).owedAtExit s.issue.ctx s.curCore i).dropDebug i)

end Sys2Proof.Machine
end

