-- ==== Sys2Proof/Machine/System.lean ====
section
/-! DEFINITION. The special registers and the instructions that reach them, MFSR and MTSR (04 R81, 21 R314, R315), with
the head views of 07 R150; and what an acquire does to a core's heads (R147). -/

namespace Sys2Proof.Machine

/-- STATUS as software reads it, 04 Table 4-13. -/
def SpecRegs.status (r : SpecRegs) : Word :=
  (0#43 ++ r.prio ++ 0#10 ++ BitVec.ofBool r.snapv ++ r.slotres ++ r.pl : BitVec 64)

/-- The ids of the groups of a job that hold strand i, in ascending order. -/
def Job.groupIds (j : Job) (i : Nat) : List Nat :=
  (upto j.groups.length).filter fun g =>
    match j.groups[g]? with
    | some x => x.members.contains i
    | none => false

/-- GROUPS, 03 Table 3-6. -/
def groupsWord (ids : List Nat) : Word :=
  (0#28 ++ BitVec.ofNat 4 (2 ^ (min ids.length 4) - 1) ++ BitVec.ofNat 8 (nth 0 ids 3) ++ BitVec.ofNat 8 (nth 0 ids 2)
    ++ BitVec.ofNat 8 (nth 0 ids 1) ++ BitVec.ofNat 8 (nth 0 ids 0) : BitVec 64)

/-- The view of head h, whose fields are x, that HSTATEh shows, 07 Table 7-7. -/
def State.hstate (s : State) (k h : Nat) (x : Head) (view : Nat) : Word :=
  let mark (m : Nat × Bool) : Word := (0#15 ++ BitVec.ofBool m.2 ++ BitVec.ofNat 48 m.1 : BitVec 64)
  match view with
  | 0 => (0#12 ++ BitVec.ofBool x.fault.isSome ++ BitVec.ofBool (!(s.headOps k h).isEmpty) ++ BitVec.ofNat 2 x.mode
          ++ BitVec.ofNat 48 x.pos : BitVec 64)
  | 1 => mark x.markA
  | 2 => mark x.markB
  | _ => (0#57 ++ BitVec.ofBool x.poison ++ BitVec.ofNat 6 x.depth : BitVec 64)

/-- The value of special register r for the issuing context: stored registers and heads as the bundle found them (04 R71). -/
def State.specReg (s : State) (r : Nat) : Word :=
  let sr := s.issue.sr
  let k := s.curCore
  let i := s.curStrand
  match r with
  | 0x00 => sr.status
  | 0x01 => sr.xpc.setWidth 64
  | 0x02 => sr.xcause.setWidth 64
  | 0x03 => sr.xinfo
  | 0x04 => sr.xvec.setWidth 64
  | 0x05 => sr.fflags.setWidth 64
  | 0x06 => sr.fctl.setWidth 64
  | 0x07 => sr.rcard
  | 0x08 => sr.mxcnt
  | 0x09 => sr.mdpc
  | 0x0A => BitVec.ofNat 64 s.issue.ctx
  | 0x0B => BitVec.ofNat 64 (i.idx % 8192)
  | 0x0C => BitVec.ofNat 64 i.seq
  | 0x0D =>
    match findJob i.seq s.jobs with
    | some j => groupsWord (j.groupIds i.idx)
    | none => 0#64
  | 0x0E => s.dtime
  | 0x0F => sr.tickn
  | 0x10 => sr.occ
  | 0x11 => sr.draft
  | 0x12 => sr.bellst
  | 0x13 => (s.tenantOf i).setWidth 64
  | 0x14 => sr.dictbase.setWidth 64
  | 0x15 => sr.dictlen.setWidth 64
  | 0x16 => sr.redlim.setWidth 64
  | 0x17 => sr.hmlim.setWidth 64
  | 0x18 => sr.xsave.setWidth 64
  | 0x19 => BitVec.ofNat 64 (s.core k).cycle
  | _ =>
    if 0x20 ≤ r && r < 0x30 then BitVec.ofNat 64 (s.wmk k (r - 0x20))
    else if 0x30 ≤ r then s.hstate k (r - 0x30) (mget {} s.issue.heads (r - 0x30)) (mget 0#2 s.issue.hview (r - 0x30)).toNat
    else 0#64

/-- MFSR, 21 R314: the register's value at issue, L = 1; never yields. -/
def execMfsr (d : BitVec 6) (r : BitVec 6) (s : State) : Out := .next (s.resultS d 1 (s.specReg r.toNat))

/-- Whether MTSR of v to register r raises PRIVILEGE (04 R81, 21 Table 21-6). -/
def mtsrDenied (sr : SpecRegs) (r : Nat) (v : Word) : Bool :=
  let pl := v.extractLsb' 0 2
  let prio := v.extractLsb' 16 5
  if r = 0 then
    if sr.pl = 0#2 then pl != sr.pl || prio != sr.prio else 2 ≤ pl.toNat || 24 ≤ prio.toNat
  else sr.pl = 0#2 && (r = 0x16 || r = 0x17 || r = 0x18 || 0x30 ≤ r)

/-- A limit register: values below 256 are stored as 256 (21 Table 21-6). -/
def limit256 (v : BitVec 32) : BitVec 32 := if v.toNat < 256 then 256#32 else v

/-- The write of v to a stored special register, 21 Table 21-6; `oldPl` is PL as the bundle found it. -/
def SpecRegs.put (x : SpecRegs) (oldPl : BitVec 2) (r : Nat) (v : Word) : SpecRegs :=
  match r with
  | 0x00 =>
    let x := { x with slotres := v.extractLsb' 2 3, snapv := v.getLsbD 5 }
    if oldPl = 0#2 then x else { x with pl := v.extractLsb' 0 2, prio := v.extractLsb' 16 5 }
  | 0x01 => { x with xpc := v.setWidth 16 }
  | 0x04 => { x with xvec := v.setWidth 16 }
  | 0x05 => { x with fflags := v.setWidth 5 }
  | 0x06 => { x with fctl := if 5 ≤ (v.extractLsb' 5 3).toNat then v.setWidth 8 &&& 0x1F#8 else v.setWidth 8 }
  | 0x08 => { x with mxcnt := v }
  | 0x14 => { x with dictbase := v.setWidth 12 }
  | 0x15 => { x with dictlen := if 4096 < (v.extractLsb' 0 13).toNat then 4096#13 else v.setWidth 13 }
  | 0x16 => { x with redlim := limit256 (v.setWidth 32) }
  | 0x17 => { x with hmlim := limit256 (v.setWidth 32) }
  | 0x18 => { x with xsave := v.setWidth 57 &&& ~~~0x3F#57 }
  | _ => x

/-- A write to HSTATEh, 07 R150: bit 63 selects a view; otherwise the selected view is written, views 0 to 2 only while
no command is outstanding. DESIGN CHOICE (log 13): the selection of a
view belongs to the context, not to the head. -/
def State.putHstate (s : State) (h : Nat) (v : Word) : State :=
  let k := s.curCore
  let busy := !(s.headOps k h).isEmpty
  if v.getLsbD 63 then s.modCur fun x => { x with hview := mset 0#2 x.hview h (v.extractLsb' 0 2) }
  else
    let p := (v.extractLsb' 0 48).toNat
    let mark := (p, v.getLsbD 48)
    match (mget 0#2 s.cur.hview h).toNat with
    | 0 => if busy then s else s.modHead k h fun x => { x with pos := p, stage := [] }
    | 1 => if busy then s else s.modHead k h fun x => { x with markA := mark }
    | 2 => if busy then s else s.modHead k h fun x => { x with markB := mark }
    | _ =>
      let d := (v.extractLsb' 0 6).toNat
      s.modHead k h fun x =>
        let x := { x with depth := if d = 0 then 1 else if 32 < d then 32 else d }
        if v.getLsbD 6 then { x with poison := false, stage := x.stage.filter fun b => !b.poison } else x

/-- MTSR, 21 R314: PRIVILEGE splits at its slot with the register number in XINFO; a write to an RO register has no
effect. -/
def execMtsr (r : BitVec 6) (a : Src) (s : State) : Out :=
  .next (s.reading [srcOf a 0] fun s =>
    let v := s.sVal a
    if mtsrDenied s.issue.sr r.toNat v then s.trap cPrivilege (r.setWidth 64)
    else if 0x30 ≤ r.toNat then s.putHstate (r.toNat - 0x30) v
    else s.modCur fun x => { x with sr := x.sr.put s.issue.sr.pl r.toNat v })

/-- An acquire by a context of core k invalidates every block that the core's heads staged before it (07 R147). -/
def State.acquire (s : State) (k : Nat) : State :=
  (upto 16).foldl (fun s h => if (s.head k h).stage.isEmpty then s else s.modHead k h fun x => { x with stage := [] }) s

end Sys2Proof.Machine
end

