-- ==== Sys2Proof/Machine/Scratch.lean ====
section
/-! DEFINITION. The scratchpad: bytes and words (06 R108, R110), ranges and the scoreboard (R125), packed regions
(R114, R115), skewed tiles (R112), bank costs (R109), and the order of an operation against earlier ones (08 R154). -/

namespace Sys2Proof.Machine

/-- The size of a scratchpad, 4 MiB; addresses wrap (06 R110). -/
def spSize : Nat := 0x400000

/-- What a byte of scratchpad that nothing has written reads as: log 3. -/
def spDefault : Byte := 0#8

/-- The byte at a scratchpad address of a core. -/
def CoreSt.spByte (c : CoreSt) (a : Nat) : Byte := mget spDefault c.sp (a % spSize)

/-- SP[a, n] of 01 Table 1-5 as bytes, lowest address first. -/
def CoreSt.spBytes (c : CoreSt) (a : Nat) : Nat → List Byte
  | 0 => []
  | n + 1 => c.spByte a :: c.spBytes (a + 1) n

/-- Bytes written from address a upward, wrapping. -/
def CoreSt.spPut (c : CoreSt) (a : Nat) : List Byte → CoreSt
  | [] => c
  | b :: bs => { c with sp := mset spDefault c.sp (a % spSize) b }.spPut (a + 1) bs

/-- The little-endian value of bytes (00 R6). -/
def leNat : List Byte → Nat
  | [] => 0
  | b :: bs => b.toNat + 256 * leNat bs

/-- n little-endian bytes of a value. -/
def leBytes : Nat → Nat → List Byte
  | 0, _ => []
  | n + 1, x => BitVec.ofNat 8 (x % 256) :: leBytes n (x / 256)

/-- The value of n bytes at a scratchpad address. -/
def CoreSt.spNat (c : CoreSt) (a n : Nat) : Nat := leNat (c.spBytes a n)
/-- A 32-bit word at a scratchpad address. -/
def CoreSt.spWord (c : CoreSt) (a : Nat) : Lane := BitVec.ofNat 32 (c.spNat a 4)

/-- Two ranges share a byte, modulo 4 MiB. -/
def Range.meets (a b : Range) : Bool :=
  a.len != 0 && b.len != 0
  && ((b.start + spSize - a.start % spSize) % spSize < a.len || (a.start + spSize - b.start % spSize) % spSize < b.len)

/-- A range meets one of a list. -/
def meetsAny (r : Range) (rs : List Range) : Bool := rs.any r.meets

/-- A write to bytes [a, a + n) of a core releases the granules that a cancelled delivery left unwritten (07 R148). -/
def CoreSt.fillHoles (c : CoreSt) (a n : Nat) : CoreSt :=
  if c.holes.isEmpty then c else { c with holes := c.holes.filter fun h => !(Range.meets ⟨h.2, 64⟩ ⟨a, n⟩) }

/-- Bytes written to the scratchpad of core k. -/
def State.spWrite (s : State) (k a : Nat) (bs : List Byte) : State :=
  s.modCore k fun c => (c.spPut a bs).fillHoles a bs.length

/-- A word written to the scratchpad of core k. -/
def State.spWriteWord (s : State) (k a : Nat) (v : Lane) : State := s.spWrite k a (leBytes 4 v.toNat)

/-! ### Addresses -/

/-- A scratchpad or cluster address, 06 R110: the core that it names from core k, and the offset; whether it is a
cluster address. -/
def spTarget (k : Nat) (x : Word) : Bool × Nat × Nat :=
  if x.getLsbD 25 then (true, 8 * (k / 8) + (x.extractLsb' 22 3).toNat, (x.extractLsb' 0 22).toNat)
  else (false, k, (x.extractLsb' 0 22).toNat)

/-- The low 26 bits that a cluster operand uses, and the core and offset they name. -/
def tbTarget (k addr : Nat) : Nat × Nat :=
  let t := spTarget k (BitVec.ofNat 64 addr)
  (t.2.1, t.2.2)

/-- Element (r, c) of the skewed tile at T, 06 R112. -/
def skewAddr (tile r c : Nat) : Nat := tile + 256 * r + 4 * ((r + c) % 64)

/-- The address of lane i of a VLD, VST or FILL with operand x under MODE (06 R112, 23 R343). -/
def laneAddr (mode : Nat) (x : Word) (i : Nat) : Nat :=
  let tile := (x.extractLsb' 14 8).toNat * 16384
  let rc := (x.extractLsb' 8 6).toNat
  match mode with
  | 1 => skewAddr tile rc i
  | 2 => skewAddr tile i rc
  | _ => ((x.extractLsb' 0 22).toNat / 4 * 4 + 4 * i) % spSize

/-! ### Packed regions -/

/-- The packed granules of a region as a range. -/
def Packed.range (p : Packed) : Range := ⟨p.base * 64, p.len * 64⟩

/-- Whether bytes [a, a + n) meet a packed granule (06 R115). -/
def CoreSt.isPacked (c : CoreSt) (r : Range) : Bool := c.packed.any fun p => r.meets p.range

/-- XINFO of PACKED_READ, 04 Table 4-16. -/
def packedInfo (kind source addr : Nat) : Word :=
  (0#34 ++ BitVec.ofNat 22 addr ++ 0#1 ++ BitVec.ofNat 3 source ++ BitVec.ofNat 4 kind : BitVec 64)

/-- The first packed byte of a range, in increasing address order, looked for granule by granule. -/
def CoreSt.firstPacked (c : CoreSt) (a : Nat) : Nat → Option Nat
  | 0 => none
  | n + 1 =>
    if c.isPacked ⟨a, 1⟩ then some (a % spSize) else c.firstPacked (a / 64 * 64 + 64) n

/-- The first packed byte of the range. -/
def CoreSt.packedByte (c : CoreSt) (r : Range) : Option Nat :=
  if c.isPacked r then c.firstPacked r.start (r.len / 64 + 2) else none

/-- A mark over a range: an entry for each, refused when a ninth entry would be needed (06 R115). DESIGN CHOICE (log 13): a mark
of 65,536 granules, one more than LEN can say, is one entry; a mark that equals a standing entry of the job reuses it. -/
def CoreSt.markPacked (c : CoreSt) (r : Range) (job : Nat) : Option CoreSt :=
  let p : Packed := { base := r.start % spSize / 64, len := (r.start % 64 + r.len + 63) / 64, job := job }
  if r.len = 0 || c.packed.contains p then some c
  else if 8 ≤ c.packed.length then none else some { c with packed := c.packed ++ [p] }

/-- An entry for the output of XFORM `op`, which may reach as far as a range does (log 17). -/
def CoreSt.reservePacked (c : CoreSt) (r : Range) (job op : Nat) : Option CoreSt :=
  if 8 ≤ c.packed.length then none
  else some { c with packed := c.packed ++ [{ base := r.start % spSize / 64, len := 0, job := job, open_ := some (op, (r.len + 63) / 64) }] }

/-- The output of XFORM `op` is n bytes: its entry is made good, or goes where there is no output. -/
def CoreSt.settlePacked (c : CoreSt) (op n : Nat) : CoreSt :=
  { c with packed := c.packed.filterMap fun p =>
      if p.open_.any (·.1 == op) then (if n = 0 then none else some { p with len := (n + 63) / 64, open_ := none }) else some p }

/-- Whether a range is packed is not known yet: the output of an XFORM with EXPD may reach it (log 17). -/
def CoreSt.unsettled (c : CoreSt) (r : Range) : Bool :=
  c.packed.any fun p => match p.open_ with | some (_, n) => r.meets ⟨p.base * 64, n * 64⟩ | none => false

/-- As `unsettled`, of the XFORMs accepted before operation n alone: a later one's output is written after what n writes. -/
def CoreSt.unsettledBefore (c : CoreSt) (n : Nat) (r : Range) : Bool :=
  c.packed.any fun p => match p.open_ with | some (op, m) => op < n && r.meets ⟨p.base * 64, m * 64⟩ | none => false

/-- An EXPD clears every entry that its source overlaps. -/
def CoreSt.clearPacked (c : CoreSt) (r : Range) : CoreSt := { c with packed := c.packed.filter fun p => !(r.meets p.range) }

/-! ### Order against earlier operations of the context, 08 R154 -/

/-- The operation returns a value that the context receives in a register (08 R154 item 1). -/
def OpKind.returnsValue : OpKind → Bool
  | .rload .. | .atom .. | .hpos .. => true
  | _ => false

/-- An ATOM that acquires (08 R156). -/
def OpKind.acquires : OpKind → Bool
  | .atom _ _ _ _ _ ord _ _ => ord == 1 || ord == 3
  | _ => false

/-- The earlier operations that a new access of the context waits for: reads that return a value before a write (item
1), and acquires before everything (item 6). -/
def State.poWaits (s : State) (i : StrandId) (isWrite : Bool) : List Nat :=
  (s.ops.filter fun o => o.owner == i && (isWrite && o.kind.returnsValue || o.kind.acquires)).map (·.id)

/-- The core and the bytes that a remote access of core k names (06 R111). -/
def OpKind.remoteRange (k : Nat) : OpKind → Option (Nat × Range)
  | .rload a n _ _ => let t := tbTarget k a; some (t.1, ⟨t.2, n⟩)
  | .rstore a bs => let t := tbTarget k a; some (t.1, ⟨t.2, bs.length⟩)
  | _ => none

/-- The outstanding remote accesses of a strand to bytes of core k that a new access makes to a common location (08 R154
item 3). -/
def State.commonWaits (s : State) (i : StrandId) (k : Nat) (rs : List Range) : List Nat :=
  (s.ops.filter fun o => o.owner == i && (match o.kind.remoteRange o.core with
    | some (c, r) => c == k && meetsAny r rs
    | none => false)).map (·.id)

/-- The outstanding COLLs of a strand whose buffers a later access to bytes of core k meets: their completion acquires them (08
R156, 20 R295). -/
def State.collWaits (s : State) (i : StrandId) (k : Nat) (r : Range) (isWrite : Bool) : List Nat :=
  (s.ops.filter fun o => o.owner == i && o.core == k && (match o.kind with | .coll .. => true | _ => false)
    && (meetsAny r o.writes || isWrite && meetsAny r o.reads)).map (·.id)

/-- What the credit of operation n to an object waits for: the strand's COLLs before it that have the object in a buffer (08 R156). -/
def State.creditWaits (s : State) (i : StrandId) (k n obj : Nat) : List Nat :=
  let t := tbTarget k obj
  (s.collWaits i t.1 ⟨t.2, 16⟩ true).filter (· < n)

/-- A local access of the issuing strand that program order holds behind its own outstanding operations: it performs at issue
(04 R72), so its bundle yields, or, behind a SETTLE of the bundle, its slot waits (log 23). `common`: an SLD, SST, VLD or VST,
which the order of common locations takes in (08 R154 item 3). -/
def State.poBlocked (s : State) (k : Nat) (rs : List Range) (isWrite common : Bool) : Bool :=
  !s.issue.behind && (!(s.poWaits s.curStrand isWrite).isEmpty || common && !(s.commonWaits s.curStrand k rs).isEmpty)

/-! ### The scoreboard, 06 R125 -/

/-- An L-slot read of these ranges meets an engine's unperformed write, or follows an operation in program order. -/
def State.lReadBlocked (s : State) (k : Nat) (rs : List Range) (common : Bool) : Bool :=
  s.poBlocked k rs false common || s.ops.any fun o => o.core == k && rs.any fun r => meetsAny r o.writes

/-- An L-slot write of these ranges meets an engine's unperformed write or read, or follows an operation in program order. -/
def State.lWriteBlocked (s : State) (k : Nat) (rs : List Range) (common : Bool) : Bool :=
  s.poBlocked k rs true common || s.ops.any fun o => o.core == k && rs.any fun r => meetsAny r o.writes || meetsAny r o.reads

/-- Operation n of core k may not yet read the range: an earlier command has not written it (RAW), or it is held behind a
granule that a cancelled delivery left unwritten (07 R148). -/
def State.readBlocked (s : State) (k n : Nat) (r : Range) : Bool :=
  (s.ops.any fun o => o.core == k && o.id < n && meetsAny r o.writes)
  || (s.core k).holes.any fun h => h.1 == n && r.meets ⟨h.2, 64⟩

/-- A range reaches beyond what a head delivery or a transfer into it has written (03 R56, 07 R142). -/
def State.aboveWatermark (s : State) (k : Nat) (r : Range) : Bool :=
  s.ops.any fun o => o.core == k && meetsAny r o.writes && (match o.kind with
    | .hread .. => true
    | .xfer out .. => !out
    | _ => false)

/-- Operation n of core k may not yet write the range: an earlier command reads or writes it (WAR, WAW). -/
def State.writeBlocked (s : State) (k n : Nat) (r : Range) : Bool :=
  s.ops.any fun o => o.core == k && o.id < n && (meetsAny r o.writes || meetsAny r o.reads)

/-- The bytes that an operation reads next: an MMAC's next row and its scales, an XFORM's source, what the next block of an HWRITE
may take, the next unit of an XFER that converts f32 to bf16, and otherwise the granule at the start of what is left. -/
def Op.need (o : Op) : List Range :=
  match o.kind with
  | .mmac _ => o.reads.take 2
  | .xform .. => o.reads
  | .xfer true _ _ _ _ _ 1 _ => (o.reads.find? fun r => r.len != 0).toList.map fun r => ⟨r.start, Nat.min r.len 128⟩
  | .hwrite .. => (o.reads.find? fun r => r.len != 0).toList.map fun r => ⟨r.start, Nat.min r.len 512⟩
  | _ => (o.reads.find? fun r => r.len != 0).toList.map fun r => ⟨r.start, Nat.min r.len (64 - r.start % 64)⟩

/-- The operations held behind granules that a cancelled delivery left unwritten, and those that wait behind them, which their
job's completion abandons (07 R148). -/
def State.stuck (s : State) : List Op :=
  s.ops.foldl (fun l o =>
    let held := (s.core o.core).holes.any fun h => h.1 == o.id && meetsAny ⟨h.2, 64⟩ o.need
    let behind := l.any fun p => o.waits.contains p.id || p.core == o.core
      && (p.kind.headOf.isSome && p.kind.headOf == o.kind.headOf
        || p.writes.any (fun w => meetsAny w o.reads || meetsAny w o.writes) || p.reads.any fun r => meetsAny r o.writes)
    if held || behind then l ++ [o] else l) []

/-- An operation of a job is outstanding that its completion waits for (03 R62, 07 R148). -/
def State.working (s : State) (seq : Nat) : Bool :=
  let stuck := s.stuck
  s.ops.any fun o => o.owner.seq == seq && !o.kind.standsStopped && !stuck.any fun p => p.id == o.id

/-- The range without its first n bytes. -/
def Range.drop (r : Range) (n : Nat) : Range := ⟨(r.start + n) % spSize, r.len - n⟩

end Sys2Proof.Machine
end

