-- ==== Sys2Proof/Machine/Local.lean ====
section
/-! DEFINITION. The L slot but XFORM: FILL (21 R301, R302), SLD and SST (22 R325, R326), TAGLU and TAGSET (22 R327), VLD,
VST, VLDX, VSTX, VSTQ (23 R342 to R345). Local accesses perform in the order in which their bundles issue (04 R72); a
cluster address makes a remote access, an outstanding operation (06 R111). -/

namespace Sys2Proof.Machine

/-- XINFO of XFER_SIZE: the reason in [3:0] (23 R334). -/
def xferInfo (reason : Nat) : Word := BitVec.ofNat 64 reason

/-- A remote access of n bytes at a cluster address, from issue until it performs at its target: it takes one of the
core's 32 remote-access slots and yields when all are taken (06 R111). Accesses of the context to a common location keep
program order (08 R154 item 3), and it follows the completion of the context's COLLs on what it accesses (R156). -/
def State.remote (s : State) (addr n : Nat) (isWrite : Bool) (dest : Option (RegName × Nat)) (kind : OpKind) : State :=
  let k := s.curCore
  let i := s.curStrand
  let t := tbTarget k addr
  let same := s.commonWaits i t.1 [⟨t.2, n⟩] ++ s.collWaits i t.1 ⟨t.2, n⟩ isWrite
  s.addOp { id := 0, core := k, owner := i, tenant := s.tenantOf i, domains := 1#7, dest := dest, slot := true,
            waits := same ++ s.poWaits i isWrite, kind := kind }

/-- The ranges of a list of word addresses. -/
def wordRanges (as : List Nat) : List Range := as.map fun a => ⟨a, 4⟩

/-- The first of a list of word addresses that lies in a packed granule. -/
def CoreSt.packedWord (c : CoreSt) : List Nat → Option Nat
  | [] => none
  | a :: as => if c.isPacked ⟨a, 4⟩ then c.packedByte ⟨a, 4⟩ else c.packedWord as

/-- Words stored at addresses of the issuing core, in list order: a later word at the same address remains. -/
def State.putWords (s : State) : List (Nat × Lane) → State
  | [] => s
  | (a, v) :: ws => (s.spWriteWord s.curCore a v).putWords ws

/-- The port-B cycles that the access needs on its busiest bank: the distinct pairs of bank rows that it touches there
(23 R344). -/
def bankCost (as : List Nat) : Nat :=
  let pairs := (as.map fun a => (a / 4 % 64, a / 512)).eraseDups
  (upto 64).foldl (fun m b => Nat.max m (pairs.filter fun p => p.1 = b).length) 0

/-- An access that needs n > 1 cycles on one bank freezes the core for n − 1 cycles (06 R109). -/
def State.bankFreeze (s : State) (as : List Nat) : State :=
  s.modCore s.curCore fun c => { c with freeze := c.freeze + (bankCost as - 1) }

/-- The size that TY names (22 R326). -/
def tySize (ty : BitVec 3) : Nat := 2 ^ (ty.toNat / 2)
/-- The i-types but i64 sign-extend. -/
def tySigned (ty : BitVec 3) : Bool := ty.toNat == 0 || ty.toNat == 2 || ty.toNat == 4

/-- n bytes' value, sign- or zero-extended to 64 bits. -/
def extendNat (v n : Nat) (signed : Bool) : Word :=
  if signed then (BitVec.ofNat (8 * n) v).signExtend 64 else BitVec.ofNat 64 v

/-- The address of SLD and SST: base plus offset, rounded down to the natural alignment (22 R326). -/
def State.lAddr (s : State) (a : Src) (ty : BitVec 3) (off : BitVec 16) : Nat :=
  ((s.sVal a + off.signExtend 64).extractLsb' 0 26).toNat / tySize ty * tySize ty

/-- SLD, 22 R326. -/
def execSld (d : BitVec 6) (a : Src) (ty : BitVec 3) (off : BitVec 16) (s : State) : Out :=
  .next (s.reading [srcOf a 0] fun s =>
    let x := s.lAddr a ty off
    let n := tySize ty
    let t := spTarget s.curCore (BitVec.ofNat 64 x)
    if t.1 then
      if 32 ≤ s.slotsUsed s.curCore then s.yields
      else
        let tag := s.nextOp
        (s.claim (sReg d)).remote x n false (some (sReg d, tag)) (.rload x n (tySigned ty) false)
    else
      let c := s.core s.curCore
      let r : Range := ⟨t.2.2, n⟩
      if s.lReadBlocked s.curCore [r] true then s.yields
      else match c.packedByte r with
        | some p => s.trap cPackedRead (packedInfo 0 0 p)
        | none => s.resultS d 6 (extendNat (c.spNat t.2.2 n) n (tySigned ty)))

/-- SST, 22 R326. -/
def execSst (v a : Src) (ty : BitVec 3) (off : BitVec 16) (s : State) : Out :=
  .next (s.reading [srcOf a 0, srcOf v 3] fun s =>
    let x := s.lAddr a ty off
    let n := tySize ty
    let bs := leBytes n (s.sVal v).toNat
    let t := spTarget s.curCore (BitVec.ofNat 64 x)
    if t.1 then
      if 32 ≤ s.slotsUsed s.curCore then s.yields else s.remote x n true none (.rstore x bs)
    else if s.lWriteBlocked s.curCore [⟨t.2.2, n⟩] true then s.yields
    else s.spWrite s.curCore t.2.2 bs)

/-- The tag table's entry i (06 R113). -/
def CoreSt.tagEntry (c : CoreSt) (i : Nat) : TagEntry := mget {} c.tags i

/-- The lowest index of a matching entry, 0xFFFF with none (22 R327). -/
def CoreSt.lookup (c : CoreSt) (key : BitVec 63) (tenant : BitVec 16) : List Nat → Nat
  | [] => 0xFFFF
  | i :: is =>
    let e := c.tagEntry i
    if e.valid && e.key == key && e.tenant == tenant then i else c.lookup key tenant is

/-- TAGLU, 22 R327: latency 3. -/
def execTaglu (d : BitVec 6) (a : Src) (s : State) : Out :=
  .next (s.reading [srcOf a 0] fun s =>
    s.resultS d 3 (BitVec.ofNat 64 ((s.core s.curCore).lookup ((s.sVal a).setWidth 63) (s.tenantOf s.curStrand) (upto 256))))

/-- TAGSET, 22 R327. -/
def execTagset (a b : Src) (s : State) : Out :=
  .next (s.reading [srcOf a 0, srcOf b 1] fun s =>
    let v := s.sVal b
    s.modCore s.curCore fun c =>
      { c with tags := mset {} c.tags ((s.sVal a).toNat % 256) ⟨v.getLsbD 63, v.setWidth 63, s.tenantOf s.curStrand⟩ })

/-- The lanes' word addresses of a VLD or VST. -/
def laneAddrs (mode : BitVec 2) (x : Word) : List Nat := (upto 64).map (laneAddr mode.toNat x)

/-- VLD, 23 R343. -/
def execVld (vr : BitVec 6) (a : Src) (mode : BitVec 2) (s : State) : Out :=
  .next (s.reading [srcOf a 0] fun s =>
    let x := s.sVal a
    let r := vReg6 vr
    let c := s.core s.curCore
    if mode = 0#2 && x.getLsbD 25 then
      if 32 ≤ s.slotsUsed s.curCore then s.yields
      else
        let tag := s.nextOp
        let addr := (x.extractLsb' 0 26).toNat / 4 * 4
        (s.claim r).remote addr 256 false (some (r, tag)) (.rload addr 256 false true)
    else
      let as := laneAddrs mode x
      if s.lReadBlocked s.curCore (wordRanges as) true then s.yields
      else match c.packedWord as with
        | some p => s.trap cPackedRead (packedInfo 0 0 p)
        | none => s.result r 6 (.lanes (as.map c.spWord)) 0#5)

/-- A vector source named by a 6-bit field. -/
def vsrcOf (v : VSrc) (field : Nat) : Source := ⟨vReg6 v.reg, v.pol, field⟩
/-- Its value. -/
def State.vsVal (s : State) (v : VSrc) : Vec := s.vVal (v.reg.getLsbD 5) (v.reg.setWidth 5)

/-- VST, 23 R343. -/
def execVst (v : VSrc) (a : Src) (mode : BitVec 2) (s : State) : Out :=
  .next (s.reading [srcOf a 0, vsrcOf v 3] fun s =>
    let x := s.sVal a
    let d := s.vsVal v
    if mode = 0#2 && x.getLsbD 25 then
      if 32 ≤ s.slotsUsed s.curCore then s.yields
      else
        let addr := (x.extractLsb' 0 26).toNat / 4 * 4
        s.remote addr 256 true none (.rstore addr (d.flatMap fun l => leBytes 4 l.toNat))
    else
      let as := laneAddrs mode x
      if s.lWriteBlocked s.curCore (wordRanges as) true then s.yields
      else s.putWords (as.zip d))

/-- The address of lane i of a VLDX or VSTX, 23 R344. -/
def idxAddr (base : Word) (vi : Vec) (i : Nat) : Nat :=
  ((base.extractLsb' 0 22).toNat / 4 * 4 + 4 * ((lane vi i).extractLsb' 0 20).toNat) % spSize

/-- The lanes whose mask bit is 1. -/
def activeLanes (m : Word) : List Nat := (upto 64).filter fun i => m.getLsbD i

/-- VLDX, 23 R344. -/
def execVldx (vr : BitVec 6) (vi : VSrc) (a : Src) (mx : BitVec 4) (s : State) : Out :=
  .next (s.reading [srcOf a 0, vsrcOf vi 1, ⟨mReg mx, false, 3⟩] fun s =>
    let r := vReg6 vr
    let c := s.core s.curCore
    let m := s.mVal mx
    let idx := s.vsVal vi
    let addr := idxAddr (s.sVal a) idx
    let as := (activeLanes m).map addr
    let old := (s.cur.regs.get r).toVec
    if s.lReadBlocked s.curCore (wordRanges as) false then s.yields
    else match c.packedWord as with
      | some p => s.trap cPackedRead (packedInfo 0 0 p)
      | none =>
        (s.result r 6 (.lanes (lanesOf fun i => if m.getLsbD i then c.spWord (addr i) else lane old i)) 0#5).bankFreeze as)

/-- VSTX, 23 R344: the higher of two lanes that name one address remains. -/
def execVstx (v vi : VSrc) (a : Src) (mx : BitVec 4) (s : State) : Out :=
  .next (s.reading [srcOf a 0, vsrcOf vi 1, vsrcOf v 3, ⟨mReg mx, false, 3⟩] fun s =>
    let addr := idxAddr (s.sVal a) (s.vsVal vi)
    let lanes := activeLanes (s.mVal mx)
    let as := lanes.map addr
    if s.lWriteBlocked s.curCore (wordRanges as) false then s.yields
    else (s.putWords (lanes.map fun i => (addr i, lane (s.vsVal v) i))).bankFreeze as)

/-- The entries of a result queue of the issuing core, oldest first (06 R123). -/
def State.queue (s : State) (q : BitVec 3) : List Vec := mget [] (s.core s.curCore).queues q.toNat

/-- The queue without its oldest entry. -/
def State.popQueue (s : State) (q : BitVec 3) : State :=
  s.modCore s.curCore fun c => { c with queues := mset [] c.queues q.toNat ((mget [] c.queues q.toNat).tail) }

/-- A pop from queue q: an empty queue yields, or raises QUEUE_UNF with the trap policy (06 R123, 04 R83). -/
def State.popping (s : State) (q : BitVec 3) (qp : Bool) (k : Vec → State → State) : State :=
  match s.queue q with
  | [] => if qp then s.trap cQueueUnf (q.setWidth 64) else s.yields
  | e :: _ => k (lanesOf (lane e)) (s.popQueue q)

/-- VSTQ, 23 R345. -/
def execVstq (q : BitVec 3) (a : Src) (qp : Bool) (s : State) : Out :=
  .next (s.reading [srcOf a 0] fun s =>
    let base := ((s.sVal a).extractLsb' 0 22).toNat / 4 * 4
    let as := (upto 64).map fun i => (base + 4 * i) % spSize
    if s.lWriteBlocked s.curCore (wordRanges as) false then s.yields
    else s.popping q qp fun e s => s.putWords (as.zip e))

/-- FILL, 21 R302: lanes f to f + n − 1 receive the constant; a lane range beyond 64 raises XFER_SIZE reason 6. -/
def execFill (o : FillF) (s : State) : Out :=
  .next (s.reading ([srcOf o.a 0, srcOf o.b 1] ++ if o.bps then [] else [srcOf o.c 2]) fun s =>
    let m := s.sVal o.b
    let n := (m.extractLsb' 0 7).toNat
    let f := (m.extractLsb' 8 6).toNat
    let v : Lane := if o.bps then s.bpVal.setWidth 32 else (s.sVal o.c).setWidth 32
    let as := (upto n).map fun i => laneAddr o.mode.toNat (s.sVal o.a) (f + i)
    if 64 < n || 64 < f + n then s.trap cXferSize (xferInfo 6)
    else if s.lWriteBlocked s.curCore (wordRanges as) false then s.yields
    else s.putWords (as.map fun a => (a, v)))

end Sys2Proof.Machine
end

