-- ==== Sys2Proof/Machine/Barriers.lean ====
section
/-! DEFINITION. Named hardware barriers: BAR and BWAIT (06 R118, R119, 20 R286, R288) and the completion of a phase.
Transaction barriers: the object (06 Table 6-4), its operations (R121), TBARRIVE, TBEXPECT, TBINIT, TBWAIT (22 R328 to
R330), and the steps that perform them at the object's core. -/

namespace Sys2Proof.Machine

/-! ### Named barriers -/

/-- The session that a group of scope FAB joins, when this chip is of its set (15 R242). -/
def State.session (s : State) (tenant : BitVec 16) (group : Nat) : Option Session :=
  (s.sessions.map (·.2)).find? fun x =>
    x.valid && x.tenant == tenant && x.group.toNat == group && x.chips.getLsbD s.fab.chip.toNat

/-- The chips of the session that a group joins, when a chip but this one is of them: it has members elsewhere. -/
def State.otherChips (s : State) (tenant : BitVec 16) (group : Nat) (x : Group) : Option (BitVec 64) :=
  if x.scope = 7 then
    (s.session tenant group).bind fun e => if e.chips == BitVec.twoPow 64 s.fab.chip.toNat then none else some e.chips
  else none

/-- A group id that the issuing strand may use: a group of its job, of which it is a member; a group of scope FAB needs
its session (03 R45, 15 R242). -/
def State.groupOf (s : State) (i : StrandId) (g : Nat) : Option Group :=
  match findJob i.seq s.jobs with
  | none => none
  | some j =>
    match j.groups[g]? with
    | none => none
    | some x =>
      if !x.members.contains i.idx then none
      else if x.scope == 7 && (s.session j.tenant g).isNone then none
      else some x

/-- ILLEGAL_BUNDLE reason 6 at the slot that runs, with the group id (04 R67, 03 R45). -/
def State.badGroup (s : State) (g : Nat) : State :=
  s.trap cIllegalBundle (BundleReject.xinfo ⟨6#4, BitVec.ofNat 3 s.issue.slot, BitVec.ofNat 8 g⟩)

/-- What barrier b is bound to on core k. -/
def State.binding (s : State) (k b : Nat) : Option (Nat × Nat) :=
  ((s.core k).bars.find? fun x => x.1 == b).map (·.2)

/-- The barrier of a job's group, as every member core sees it. -/
def State.net (s : State) (b job g : Nat) : BarNet :=
  (s.nets.find? fun x => x.bar == b && x.job == job && x.group == g).getD { bar := b, job := job, group := g }

/-- The state with that barrier replaced. -/
def State.setNet (s : State) (x : BarNet) : State :=
  { s with nets := s.nets.filter (fun y => !(y.bar == x.bar && y.job == x.job && y.group == x.group)) ++ [x] }

/-- Binds barrier b of core k, when it is unbound (06 R118). -/
def State.bind (s : State) (k b job g : Nat) : State :=
  if (s.binding k b).isSome then s
  else (s.modCore k fun c => { c with bars := c.bars ++ [(b, job, g)] }).setNet (s.net b job g)

/-- Records an arrival of a strand; it releases the strand's earlier accesses (08 R156). -/
def State.arrive (s : State) (i : StrandId) (b g : Nat) : State :=
  let n := s.net b i.seq g
  let a := mget 0 n.arrivals i.idx + 1
  s.setNet { n with arrivals := mset 0 n.arrivals i.idx a, waits := n.waits ++ (s.opsOf i none).map fun o => (a, o) }

/-- The phase that holds the strand's latest arrival has completed (06 R119). -/
def State.phaseDone (s : State) (i : StrandId) (b g : Nat) : Bool :=
  let n := s.net b i.seq g
  mget 0 n.arrivals i.idx ≤ n.phc

/-- The count of phases that a WAIT of the bundle waits for: recorded at its first offer, when it is the phase of the strand's
latest arrival, or the current phase where the strand has not arrived in it (06 R119). -/
def State.waitCount (s : State) (b g : Nat) : Nat :=
  let n := s.net b s.curStrand.seq g
  match s.cur.waitAt.find? fun x => x.1 == s.issue.pcb && x.2.1 == s.issue.slot with
  | some x => x.2.2
  | none => Nat.max (n.phc + 1) (mget 0 n.arrivals s.curStrand.idx)

/-- A BAR or BWAIT of the bundle leaves a recording with the offer (03 R55). -/
def State.barRec (s : State) (r : BarRec) : State := { s with issue := { s.issue with recs := s.issue.recs ++ [.bar r] } }

/-- The checks of 20 R286, steps 2 and 3, then the binding, which the offer records: it stays though the bundle yields for a
wait, or though another bundle issues in its cycle. -/
def State.barChecked (s : State) (bar : BitVec 7) (g : Nat) (k : State → State) : State :=
  let i := s.curStrand
  match s.groupOf i g with
  | none => s.badGroup g
  | some _ =>
    match s.binding s.curCore bar.toNat with
    | some x => if x == (i.seq, g) then k s else s.badGroup g
    | none => k ((s.bind s.curCore bar.toNat i.seq g).barRec { slot := s.issue.slot, bar := bar, group := BitVec.ofNat 8 g })

/-- The group id in SA's register. -/
def State.groupVal (s : State) (a : Src) : Nat := ((s.sVal a).extractLsb' 0 8).toNat

/-- A wait that is not met: the bundle yields, and the binding, a SYNC's arrival and what a WAIT waits for stay recorded
(03 R55). -/
def State.waitRec (s : State) (r : BarRec) : State :=
  let t := s.barRec r
  { t with issue := { t.issue with waiting := true } }

/-- BAR ARRIVE, 20 R286. -/
def execBarArrive (bar : BitVec 7) (a : Src) (s : State) : Out :=
  .next (s.reading [srcOf a 0] fun s =>
    let g := s.groupVal a
    s.barChecked bar g fun s => s.arrive s.curStrand bar.toNat g)

/-- BAR WAIT, 20 R286. -/
def execBarWait (bar : BitVec 7) (a : Src) (s : State) : Out :=
  .next (s.reading [srcOf a 0] fun s =>
    let g := s.groupVal a
    s.barChecked bar g fun s =>
      let w := s.waitCount bar.toNat g
      if w ≤ (s.net bar.toNat s.curStrand.seq g).phc then s.acquire s.curCore
      else s.waitRec { slot := s.issue.slot, bar := bar, group := BitVec.ofNat 8 g, holds := true, wait := some w })

/-- BAR SYNC, 20 R286: its arrival is recorded once, at the first offer in which nothing else holds the bundle back. -/
def execBarSync (bar : BitVec 7) (a : Src) (s : State) : Out :=
  .next (s.reading [srcOf a 0] fun s =>
    let g := s.groupVal a
    s.barChecked bar g fun s =>
      if s.cur.syncAt = some s.issue.pcb then
        if s.phaseDone s.curStrand bar.toNat g then s.acquire s.curCore
        else s.waitRec { slot := s.issue.slot, bar := bar, group := BitVec.ofNat 8 g, holds := true }
      else (s.arrive s.curStrand bar.toNat g).waitRec { slot := s.issue.slot, bar := bar, group := BitVec.ofNat 8 g, arrive := true })

/-- Applies what an offer of a context that does not issue records (03 R55). -/
def State.applyRec (s : State) (c : Nat) (r : BarRec) : State :=
  let i := (s.ctx c).strand.getD ⟨0, 0⟩
  let t := if r.binds then s.bind (coreOf c) r.bar.toNat i.seq r.group.toNat else s
  if r.binds && t.binding (coreOf c) r.bar.toNat != some (i.seq, r.group.toNat) then s
  else
    let t := if r.arrive then (t.arrive i r.bar.toNat r.group.toNat).modCtx c fun x => { x with syncAt := some x.pc } else t
    match r.wait with
    | some n => t.modCtx c fun x =>
      if x.waitAt.any fun y => y.1 == x.pc && y.2.1 == r.slot then x else { x with waitAt := x.waitAt ++ [(x.pc, r.slot, n)] }
    | none => t

/-- PHC of a barrier as a strand of its job reads it, 20 R288. -/
def State.phc (s : State) (i : StrandId) (b g : Nat) : BitVec 32 := BitVec.ofNat 32 (s.net b i.seq g).phc

/-- BWAIT in mode test, 20 R288. -/
def execBwaitTest (d : BitVec 6) (bar : BitVec 7) (a : Src) (s : State) : Out :=
  .next (s.reading [srcOf a 0] fun s =>
    let g := s.groupVal a
    s.barChecked bar g fun s =>
      (s.acquire s.curCore).resultS d 1 ((s.phc s.curStrand bar.toNat g).setWidth 64))

/-- BWAIT in mode wait, 20 R288: yields while PHC has not reached the target count in SA's upper half. -/
def execBwaitWait (d : BitVec 6) (bar : BitVec 7) (a : Src) (s : State) : Out :=
  .next (s.reading [srcOf a 0] fun s =>
    let g := s.groupVal a
    s.barChecked bar g fun s =>
      let p := s.phc s.curStrand bar.toNat g
      if 2 ^ 31 ≤ (p - (s.sVal a).extractLsb' 32 32).toNat then s.waitRec { slot := s.issue.slot, bar := bar, group := BitVec.ofNat 8 g, holds := true }
      else (s.acquire s.curCore).resultS d 1 (p.setWidth 64))

/-- TOTAL of a group: the session's for scope FAB, COUNT otherwise (20 R293). -/
def State.total (s : State) (tenant : BitVec 16) (group : Nat) (x : Group) : Nat :=
  if x.scope = 7 then match s.session tenant group with | some e => e.total.toNat | none => x.members.length
  else x.members.length

/-- Every member of a group may be on this chip: the members here are TOTAL, or other chips hold the rest. In a session of this
chip alone that counts more members than the group has, no other can arrive (15 R242). -/
def State.allHere (s : State) (tenant : BitVec 16) (group : Nat) (x : Group) : Bool :=
  (s.otherChips tenant group x).isSome || s.total tenant group x ≤ x.members.length

/-- Every member of the barrier's group has arrived in the current phase, and what the arrivals release has performed. -/
def State.phaseReady (s : State) (n : BarNet) : Bool :=
  match findJob n.job s.jobs with
  | none => false
  | some j =>
    match j.groups[n.group]? with
    | none => false
    | some g => s.allHere j.tenant n.group g && g.members.all (fun m => n.phc < mget 0 n.arrivals m)
        && s.performed ((n.waits.filter fun w => w.1 ≤ n.phc + 1).map (·.2))

/-- BARRIER_PHASE_COMPLETE, 06 R119: on every member core. A barrier of scope FAB also needs the members of other chips:
its step comes from the fabric (State.inputs). -/
def execBarrierPhaseComplete (core bar : BitVec 7) (s : State) : Out :=
  .next (match s.binding core.toNat bar.toNat with
    | none => s
    | some (job, g) =>
      let n := s.net bar.toNat job g
      if s.phaseReady n then s.setNet { n with phc := n.phc + 1, waits := n.waits.filter fun w => n.phc + 1 < w.1 } else s)

/-! ### Transaction barriers -/

/-- The fields of an object, 06 Table 6-4; BAL as a signed number. -/
structure TbObj where
  bal : Int
  arrived : Nat
  quota : Nat
  gen : Nat
  ownStr : Nat
  ownJob : Nat
deriving DecidableEq, Repr

/-- The object at an address of a core. -/
def CoreSt.tbObj (c : CoreSt) (a : Nat) : TbObj where
  bal := (BitVec.ofNat 32 (c.spNat a 4)).toInt
  arrived := c.spNat (a + 4) 2
  quota := c.spNat (a + 6) 2
  gen := c.spNat (a + 8) 2
  ownStr := c.spNat (a + 10) 2 % 8192
  ownJob := c.spNat (a + 10) 6 / 8192

/-- The 16 bytes of an object. -/
def TbObj.bytes (o : TbObj) : List Byte :=
  leBytes 4 (BitVec.ofInt 32 o.bal).toNat ++ leBytes 2 o.arrived ++ leBytes 2 o.quota ++ leBytes 2 o.gen
    ++ leBytes 6 (o.ownStr % 8192 + 8192 * o.ownJob)

/-- A completion, when the arrivals meet the quota and the balance is zero (06 R121). -/
def TbObj.settle (o : TbObj) : TbObj :=
  if o.arrived = o.quota && o.bal = 0 then { o with gen := (o.gen + 1) % 65536, arrived := 0 } else o

/-- XINFO of TB_OVF, 22 Table 22-5. -/
def tbInfo (core off reason : Nat) : Word :=
  (0#32 ++ BitVec.ofNat 4 reason ++ 0#3 ++ BitVec.ofNat 3 (core % 8) ++ BitVec.ofNat 22 off : BitVec 64)

/-- The object replaced. -/
def State.putTb (s : State) (k a : Nat) (o : TbObj) : State := s.spWrite k a o.bytes

/-- The strands of a job that hold a context or a saved state. -/
def Strand.live (x : Strand) : Bool :=
  match x.st with
  | .resident _ | .saved => true
  | _ => false

/-- The owner of an object: the live strand whose index and JOBID[34:0] match, of the job with the higher sequence
number (06 R122). -/
def State.tbOwner (s : State) (o : TbObj) : Option StrandId :=
  (s.jobs.filter fun j => j.seq % 2 ^ 35 == o.ownJob && (match j.strands[o.ownStr]? with
      | some x => x.live | none => false)).foldl
    (fun m j => match m with
      | some i => if i.seq < j.seq then some ⟨j.seq, o.ownStr⟩ else m
      | none => some ⟨j.seq, o.ownStr⟩) none

/-- AsyncTBOvf, 06 R122: TB_OVF is owed to the owner; with none the credit is dropped and the host told. -/
def State.asyncTbOvf (s : State) (k a : Nat) : State :=
  match s.tbOwner ((s.core k).tbObj a) with
  | some i => s.owe i ⟨cTbOvf, tbInfo k a 3⟩
  | none => { s with signals := s.signals ++ [.event] }

/-- Update(o, n) of 23 R354, which is Credit(o, n) without the arrival (06 R121): one atomic operation; if either part
would fail, neither applies. `issuer` is owed the arrival's failure. -/
def State.tbUpdate (s : State) (k a n : Nat) (arr : Bool) (issuer : StrandId) : State :=
  let o := (s.core k).tbObj a
  let late := arr && o.arrived = o.quota
  let high : Bool := 2 ^ 31 ≤ o.bal + n
  if late || high then
    let t := if late then s.owe issuer ⟨cTbOvf, tbInfo k a 2⟩ else s
    if high then t.asyncTbOvf k a else t
  else s.putTb k a ({ o with bal := o.bal + n, arrived := if arr then o.arrived + 1 else o.arrived }).settle

/-- The operations of core k on the object that have not been performed (06 R120). -/
def State.tbOps (s : State) (k addr : Nat) : List Nat :=
  (s.ops.filter fun o => o.core == k && (match o.kind with
    | .tbarrive a | .tbexpect a _ => tbTarget k a == tbTarget k addr
    | _ => false)).map (·.id)

/-- An operation of the same core on the object has not been performed (R56). -/
def State.tbPending (s : State) (k addr : Nat) : Bool := !(s.tbOps k addr).isEmpty

/-- What program order puts before an access of the issuing strand to the object at offset a of core k: reads that return a value
before a write, and acquires before everything (08 R154 items 1 and 6), and the COLLs with the object in a buffer (R156). -/
def State.tbWaits (s : State) (k a : Nat) (isWrite : Bool) : List Nat :=
  s.poWaits s.curStrand isWrite ++ s.collWaits s.curStrand k ⟨a, 16⟩ isWrite

/-- TBINIT, TBWAIT and an XFER of size 0 access an object as their bundles issue, so program order holds the bundle back (log 23). -/
def State.tbBlocked (s : State) (k a : Nat) (isWrite : Bool) : Bool :=
  !s.issue.behind && !(s.tbWaits k a isWrite).isEmpty

/-- TBARRIVE, 22 R329: commits at issue; performed at the object after the strand's earlier accesses and after the core's
earlier operations on the object (06 R120). -/
def execTbarrive (a : Src) (s : State) : Out :=
  .next (s.reading [srcOf a 0] fun s =>
    let x := ((s.sVal a).extractLsb' 0 26).toNat
    let i := s.curStrand
    if x % 16 ≠ 0 then s.trap cXferSize (xferInfo 7)
    else s.addOp { id := 0, core := s.curCore, owner := i, tenant := s.tenantOf i, waits := s.opsOf i none ++ s.tbOps s.curCore x
                   kind := .tbarrive x })

/-- TBEXPECT, 22 R329: yields behind an unperformed operation on the object; its slot commits when the object's core has
performed it, and the context offers nothing meanwhile. -/
def execTbexpect (a n : Src) (s : State) : Out :=
  .next (s.reading [srcOf a 0, srcOf n 1] fun s =>
    let x := ((s.sVal a).extractLsb' 0 26).toNat
    let i := s.curStrand
    if x % 16 ≠ 0 then s.trap cXferSize (xferInfo 7)
    else if s.tbPending s.curCore x then s.yields
    else
      let id := s.nextOp
      let t := tbTarget s.curCore x
      (s.addOp { id := 0, core := s.curCore, owner := i, tenant := s.tenantOf i, waits := s.tbWaits t.1 t.2 true
                 kind := .tbexpect x (s.sVal n).toNat }).modCur fun y => { y with hold := some ⟨[id], [], s.issue, [], none, []⟩ })

/-- TBINIT, 22 R329: behind an unperformed operation on the object it yields; then the quota is checked, and the local object is
written. -/
def execTbinit (a n : Src) (s : State) : Out :=
  .next (s.reading [srcOf a 0, srcOf n 1] fun s =>
    let x := ((s.sVal a).extractLsb' 0 22).toNat
    let q := (s.sVal n).toNat
    let i := s.curStrand
    if x % 16 ≠ 0 then s.trap cXferSize (xferInfo 7)
    else if s.tbPending s.curCore x then s.yields
    else if q = 0 || 65535 < q then s.trap cTbOvf (tbInfo s.curCore x 0)
    else if s.tbBlocked s.curCore x true then s.yields
    else s.putTb s.curCore x ⟨0, 0, q, 0, i.idx, i.seq % 2 ^ 35⟩)

/-- TBWAIT, 22 R329: yields while GEN is the generation last seen; then an acquire. -/
def execTbwait (a g : Src) (s : State) : Out :=
  .next (s.reading [srcOf a 0, srcOf g 1] fun s =>
    let x := ((s.sVal a).extractLsb' 0 22).toNat
    if x % 16 ≠ 0 then s.trap cXferSize (xferInfo 7)
    else if s.tbPending s.curCore x || s.tbBlocked s.curCore x false then s.yields
    else if ((s.core s.curCore).tbObj x).gen = ((s.sVal g).extractLsb' 0 16).toNat then s.yields
    else s.acquire s.curCore)

/-- An operation is ready when what it waits for has performed and it is not parked (08 R162). -/
def State.ready (s : State) (o : Op) : Bool := s.performed o.waits && o.parked.isNone

/-- TBARRIVE_PERFORM, 22 R329: one arrival more than the quota leaves the object and owes TB_OVF reason 2. -/
def execTbarrivePerform (op : Nat) (s : State) : Out :=
  .next (match s.op op with
    | some o =>
      match o.kind with
      | .tbarrive x =>
        if s.ready o then
          let t := tbTarget o.core x
          (s.tbUpdate t.1 t.2 0 true o.owner).endOp op
        else s
      | _ => s
    | none => s)

/-- The hold of a strand changed, in its context or in its save. -/
def State.modHold (s : State) (i : StrandId) (f : Hold → Option Hold) : State :=
  match s.ctxOf i with
  | some c => s.modCtx c fun x => { x with hold := x.hold.bind f }
  | none => s.modStrand i fun x => { x with saved := x.saved.map fun w => { w with hold := w.hold.bind f } }

/-- A strand no longer waits for an operation; what acts last in the bundle that waited is still to run. -/
def State.unhold (s : State) (i : StrandId) : State := s.modHold i fun w => if w.last.isEmpty then none else some w

/-- TBEXPECT_PERFORM, 22 R329: a balance below −2^31 raises TB_OVF reason 1, split at H, the object unchanged; a saved strand takes
it when it is restored. -/
def execTbexpectPerform (op : Nat) (s : State) : Out :=
  .next (match s.op op with
    | some o =>
      match o.kind with
      | .tbexpect x n =>
        let t := tbTarget o.core x
        let b := (s.core t.1).tbObj t.2
        if !s.ready o then s
        else if b.bal - n < -2 ^ 31 then
          match s.ctxOf o.owner with
          | some c =>
            match (s.ctx c).hold with
            | some h => ({ (s.endOp op).modCtx c (fun x => { x with hold := none }) with issue := h.latch }).trapAt 6 cTbOvf (tbInfo t.1 t.2 1)
            | none => s.endOp op
          | none => (s.endOp op).modHold o.owner fun h =>
              some { h with ops := [], slots := [], atH := some (⟨cTbOvf, tbInfo t.1 t.2 1⟩, none) }
        else ((s.putTb t.1 t.2 ({ b with bal := b.bal - n }).settle).endOp op).unhold o.owner
      | _ => s
    | none => s)

/-- TB_CREDIT, 06 R121, 23 R354: the credit of a completed command, with its arrival when it asked for one. -/
def execTbCredit (op : Nat) (s : State) : Out :=
  .next (match s.op op with
    | some o =>
      match o.kind with
      | .credit x n arr =>
        if s.ready o then
          let t := tbTarget o.core x
          (s.tbUpdate t.1 t.2 n arr o.owner).endOp op
        else s
      | _ => s
    | none => s)

end Sys2Proof.Machine
end

