-- ==== Sys2Proof/Config.lean ====
section
/-! DEFINITION. What an implementation fixes and what the spec leaves open: free values, opaque, so that no proof can see
one. Each is applied to State.tick, or to the operands it depends on (log 2, log 4). -/

namespace Sys2Proof

/-- Which of several ready moves comes next: any order that the axioms of chapter 08 allow (log 2). -/
opaque Config.pick : Nat → Nat

/-- A value that the spec leaves open (log 4). -/
opaque Config.free : Nat → Nat → Nat

/-- The DRAM row of a near media address, which the spec does not lay out (14 R228). -/
opaque Config.row : Nat → Nat

/-- A host physical address lies in the memory of a PCIe or CXL peer; the host's address map is not the spec's (08 R151,
R161). -/
opaque Config.peer : Nat → Bool

/-- The traffic among the chips of a set needs the path through a port: the fabric's topology is open (15 R241). -/
opaque Config.onPath : Nat → Nat → Bool

end Sys2Proof
end

