-- ==== Sys2Proof/Machine/Memory.lean ====
section
/-! DEFINITION. Device memory: media bytes and uncorrectable lines (14 R224, R359), the Seating chart (R233, R235), the
table walk (R229, R230), Attendance counts (R236), row activations (R228), accesses parked behind a migration (R237) and
behind a missing translation (09 R171). Every other file reaches memory through this one. -/

namespace Sys2Proof.Machine

/-! ### Media -/

/-- What a byte of media that nothing has written reads as: log 3. -/
def mediaDefault : Byte := 0#8

/-- The canonical form of the media bytes. -/
def Memory.wf (m : MemSys) : Bool := mwf mediaDefault m.bytes

/-- The byte at a media address. -/
def MemSys.byte (m : MemSys) (a : Nat) : Byte := mget mediaDefault m.bytes a

/-- n bytes from a media address. -/
def MemSys.read (m : MemSys) (a : Nat) : Nat → List Byte
  | 0 => []
  | n + 1 => m.byte a :: m.read (a + 1) n

/-- Bytes written from a media address. -/
def MemSys.put (m : MemSys) (a : Nat) : List Byte → MemSys
  | [] => m
  | b :: bs => { m with bytes := mset mediaDefault m.bytes a b }.put (a + 1) bs

/-- Whether the line of a media address is uncorrectable. -/
def MemSys.isBad (m : MemSys) (a : Nat) : Bool := mget false m.bad (a / 64)

/-- A write within one line: a write of all 64 bytes clears the line's error (14 R359). -/
def MemSys.write (m : MemSys) (a : Nat) (bs : List Byte) : MemSys :=
  let m := m.put a bs
  if a % 64 = 0 && bs.length = 64 then { m with bad := mset false m.bad (a / 64) false } else m

/-- A write of the bytes of a line that a mask names; one of all 64 clears the line's error (14 R359). -/
def MemSys.writeMask (m : MemSys) (a : Nat) (mask : BitVec 64) (data : BitVec 512) : MemSys :=
  if mask = BitVec.allOnes 64 then m.write a (leBytes 64 data.toNat)
  else ((upto 64).zip (leBytes 64 data.toNat)).foldl (fun m (i, b) => if mask.getLsbD i then m.put (a + i) [b] else m) m

/-- Host physical addresses as media addresses. -/
def hostMedia (hpa : Nat) : Nat := 2 ^ 52 + hpa

/-! ### The Seating chart, 14 Table 14-2 -/

/-- A chart entry. -/
def MemSys.entry (m : MemSys) (f : Nat) : Word := mget 0#64 m.chart f
/-- The chart with an entry replaced. -/
def MemSys.setEntry (m : MemSys) (f : Nat) (e : Word) : MemSys := { m with chart := mset 0#64 m.chart f e }

def chState (e : Word) : Nat := (e.extractLsb' 0 2).toNat
def chPin (e : Word) : Bool := e.getLsbD 2
def chRevoked (e : Word) : Bool := e.getLsbD 3
def chSched (e : Word) : Bool := e.getLsbD 4
def chMedia (e : Word) : Nat := (e.extractLsb' 16 36).toNat

/-- An entry from its fields. -/
def chEntry (state : Nat) (pin revoked sched : Bool) (media : Nat) : Word :=
  (0#12 ++ BitVec.ofNat 36 media ++ 0#11 ++ BitVec.ofBool sched ++ BitVec.ofBool revoked ++ BitVec.ofBool pin
    ++ BitVec.ofNat 2 state : BitVec 64)

/-- The home stack of a frame (14 R224). -/
def homeOf (f : Nat) : Nat := f / 2 ^ 23 % 16

/-- The media address of byte `off` of a frame in tier 1 near or 2 far at MEDIA. -/
def mediaAt (f tier media off : Nat) : Nat :=
  if tier = 1 then homeOf f * 2 ^ 36 + media % 2 ^ 20 * 65536 + off else hostMedia (media * 65536 + off)

/-- The tier that serves a frame: the old one while it moves (14 R237). -/
def MemSys.tierOf (m : MemSys) (f : Nat) : Nat :=
  match chState (m.entry f) with
  | 3 => match m.moves.find? fun v => v.frame == f with
    | some v => v.oldTier
    | none => 0
  | t => t

/-- Where a byte of a frame lies; none for an unmapped frame, or one of a stack that is offline. -/
def MemSys.place (m : MemSys) (f off : Nat) : Option Nat :=
  let t := m.tierOf f
  if t = 0 || m.offline.getLsbD (homeOf f) then none else some (mediaAt f t (chMedia (m.entry f)) off)

/-! ### The walk, 14 R229 and R230 -/

/-- Eight bytes at a DPA: none when the frame is unmapped or the line uncorrectable, zero when it is revoked. -/
def MemSys.dpaWord (m : MemSys) (dpa : Nat) : Option Word :=
  let f := dpa / 65536
  match m.place f (dpa % 65536) with
  | none => none
  | some a =>
    if m.isBad a then none
    else if chRevoked (m.entry f) then some 0#64 else some (BitVec.ofNat 64 (leNat (m.read a 8)))

/-- ADDR of a table entry, a 64 KiB frame or page number. -/
def pteAddr (e : Word) : Nat := (e.extractLsb' 16 36).toNat

/-- An entry that is valid at its level (14 R230): 4 the root, 3 to 0 the tables. CONTIG means something at level 0 and HOST in
a leaf alone: elsewhere they are no reserved bits, and change nothing. -/
def pteValid (level : Nat) (e : Word) : Bool :=
  e.getLsbD 0 && e &&& 0xFFF000000000FFE0#64 == 0#64
  && (let leaf := e.getLsbD 1
      let host := e.getLsbD 4
      (if level = 0 then leaf else level = 1 || !leaf)
      && (leaf && host || pteAddr e < 2 ^ 27)
      && (level != 1 || !leaf || pteAddr e % 8192 == 0))

/-- The index into a table of a level. -/
def pteIndex (level : Nat) (va : BitVec 57) : Nat :=
  match level with
  | 3 => (va.extractLsb' 55 2).toNat
  | 2 => (va.extractLsb' 42 13).toNat
  | 1 => (va.extractLsb' 29 13).toNat
  | _ => (va.extractLsb' 16 13).toNat

/-- A translation of one 64 KiB page, as one word: W in [2], HOST in [4], ADDR in [51:16]. -/
def xlation (e : Word) (page : Nat) : Word :=
  (0#12 ++ BitVec.ofNat 36 page ++ 0#11 ++ BitVec.ofBool (e.getLsbD 4) ++ 0#1 ++ BitVec.ofBool (e.getLsbD 2) ++ 0#2 :
    BitVec 64)

/-- The walk from a table of level `level` (the root entry has been read): the translation of the VA's page. -/
def MemSys.walkFrom (m : MemSys) (va : BitVec 57) : Nat → Nat → Option Word
  | 0, table =>
    match m.dpaWord (table * 65536 + 8 * pteIndex 0 va) with
    | some e => if pteValid 0 e then some (xlation e (pteAddr e)) else none
    | none => none
  | level + 1, table =>
    match m.dpaWord (table * 65536 + 8 * pteIndex (level + 1) va) with
    | some e =>
      if !pteValid (level + 1) e then none
      else if e.getLsbD 1 then some (xlation e (pteAddr e + pteIndex 0 va))
      else m.walkFrom va level (pteAddr e)
    | none => none

/-- The walk of an ASID. -/
def MemSys.walk (m : MemSys) (asid : BitVec 16) (va : BitVec 57) : Option Word :=
  match m.dpaWord (m.regs.rootbase.toNat + 8 * asid.toNat) with
  | some e => if pteValid 4 e then m.walkFrom va 3 (pteAddr e) else none
  | none => none

/-- The DPAs that the walk of a VA reads from a table of a level. -/
def MemSys.walkReads (m : MemSys) (va : BitVec 57) : Nat → Nat → List Nat
  | 0, table => [table * 65536 + 8 * pteIndex 0 va]
  | level + 1, table =>
    let a := table * 65536 + 8 * pteIndex (level + 1) va
    a :: match m.dpaWord a with
      | some e => if pteValid (level + 1) e && !e.getLsbD 1 then m.walkReads va level (pteAddr e) else []
      | none => []

/-- The DPAs of the entries that the walk of a VA reads, the root's first. -/
def MemSys.walkLines (m : MemSys) (asid : BitVec 16) (va : BitVec 57) : List Nat :=
  let root := m.regs.rootbase.toNat + 8 * asid.toNat
  root :: match m.dpaWord root with
    | some e => if pteValid 4 e then m.walkReads va 3 (pteAddr e) else []
    | none => []

/-- The frame that names the same media as a frame while a promotion covers them both (14 R232); the frame itself with none. -/
def MemSys.pair (m : MemSys) (f : Nat) : Nat :=
  match m.promotion with
  | none => f
  | some p =>
    if p.target ≤ f && f < p.target + p.sources.length then nth f p.sources (f - p.target)
    else match p.sources.findIdx? (· == f) with
      | some i => p.target + i
      | none => f

/-- The accesses that are parked for the media of a frame, in arrival order. -/
def MemSys.queue (m : MemSys) (live : Nat → Bool) (f : Nat) : List ParkedAccess :=
  m.parked.filter fun p => (p.frame == f || p.frame == m.pair f) && (p.act.isSome || live p.op)

/-- The line of a DPA has writes parked before a read of it (14 R237). -/
def State.dpaWaits (s : State) (dpa : Nat) : Bool :=
  (s.mem.queue (fun n => (s.op n).isSome) (dpa / 65536)).any fun q => q.write && q.line == dpa % 65536 / 64

/-- The walk of a VA reads a line that has writes parked before it, and waits behind them (14 R237). -/
def State.walkWaits (s : State) (asid : BitVec 16) (va : BitVec 57) : Bool :=
  !s.mem.parked.isEmpty && (s.mem.walkLines asid va).any s.dpaWaits

/-- The TLB key of a page. -/
def tlbKey (asid : BitVec 16) (va : BitVec 57) : Nat := asid.toNat * 2 ^ 41 + va.toNat / 65536

/-- The base die of a core, whose TLB serves its requests beside its own (14 R231). -/
def dieOf (core : Nat) : Nat := core / 64 % 2

/-- Where `tlb` lists a page's translations in the TLBs of a base die and of its cores. Units that stand on no core use those of
die 0: DESIGN CHOICE (log 33). -/
def dieKey (die key : Nat) : Nat := die * 2 ^ 57 + key

/-- The translations of a page that some TLB holds. -/
def MemSys.held (m : MemSys) (asid : BitVec 16) (va : BitVec 57) : List Word :=
  let near := mget [] m.tlb (tlbKey asid va)
  near ++ (mget [] m.tlb (dieKey 1 (tlbKey asid va))).filter fun w => !near.contains w

/-- The translations that a request may use: the one that a walk finds, and those that a TLB still holds (14 R231). -/
def MemSys.candidates (m : MemSys) (asid : BitVec 16) (va : BitVec 57) : List Word :=
  let held := m.held asid va
  match m.walk asid va with
  | some w => if held.contains w then held else held ++ [w]
  | none => held

/-- The translation that a request uses: a free choice among them, and none when the entry as it stands is not valid. A walk that
waits gives none of them. -/
def State.xlate (s : State) (asid : BitVec 16) (va : BitVec 57) : Option Word :=
  if !s.mem.regs.ten then none
  else if s.walkWaits asid va then
    let ws := s.mem.held asid va
    ws[Config.free s.tick (tlbKey asid va) % ws.length]?
  else
    match s.mem.candidates asid va, s.mem.walk asid va with
    | [], _ => none
    | [w], some _ => some w
    | ws, some _ => some (nth 0#64 ws (Config.free s.tick (tlbKey asid va) % ws.length))
    | ws, none => ws[Config.free s.tick (tlbKey asid va) % (ws.length + 1)]?

/-- The TLBs of a die hold a translation that a request has used. -/
def MemSys.fill (m : MemSys) (asid : BitVec 16) (va : BitVec 57) (w : Word) (die : Nat := 0) : MemSys :=
  let key := dieKey die (tlbKey asid va)
  let held := mget [] m.tlb key
  if held.contains w then m else { m with tlb := mset [] m.tlb key (held ++ [w]) }

/-! ### A request -/

/-- Where a request's bytes lie: the media address, the frame when the Seating chart maps it, and whether that frame is
revoked; or `held`: the request's walk waits behind a migration, and nothing else is known. -/
structure Place where
  addr : Nat
  frame : Option Nat
  revoked : Bool
  xl : Word
  held : Bool
deriving DecidableEq, Repr

/-- The place of a VA for a read or a write; none when its translation is missing, the page is not writable, or the
frame is unmapped: the request parks (09 R171, 14 R230, R233). -/
def State.placeOf (s : State) (asid : BitVec 16) (va : BitVec 57) (write : Bool) : Option Place :=
  match s.xlate asid va with
  | none => if s.mem.regs.ten && s.walkWaits asid va then some ⟨0, none, false, 0#64, true⟩ else none
  | some w =>
    let off := va.toNat % 65536
    if write && !w.getLsbD 2 then none
    else if w.getLsbD 4 then some ⟨hostMedia (pteAddr w * 65536 + off), none, false, w, false⟩
    else
      match s.mem.place (pteAddr w) off with
      | some a => some ⟨a, some (pteAddr w), chRevoked (s.mem.entry (pteAddr w)), w, false⟩
      | none => none

/-- The index of a frame in row i of its controller's sketch. -/
def sketchIndex (f i : Nat) : Nat :=
  let f64 (z : Word) : Word := (z ^^^ (z >>> 32)) * 0x9A4C6F1D27E5B3C7#64
  let z := f64 (f64 (BitVec.ofNat 64 i ^^^ BitVec.ofNat 64 f))
  homeOf f * 32768 + i * 8192 + ((z ^^^ (z >>> 32)) >>> 32).toNat % 8192

/-- The estimate of a frame. -/
def MemSys.estimate (m : MemSys) (f : Nat) : Nat :=
  [0, 1, 2, 3].foldl (fun e i => Nat.min e (mget 0#16 m.sketch (sketchIndex f i)).toNat) 0xFFFF

/-- The frame with the least estimate of a list; the later of equals. -/
def leastCand : List (Nat × Nat) → Option (Nat × Nat)
  | [] => none
  | c :: cs =>
    match leastCand cs with
    | some d => if d.2 ≤ c.2 then some d else some c
    | none => some c

/-- A request's frame enters the candidates of its controller (14 R236), whose estimates are those of now. -/
def MemSys.candidate (m : MemSys) (f : Nat) : MemSys :=
  let e := m.estimate f
  let l := (mget [] m.cands (homeOf f)).map fun c => (c.1, m.estimate c.1)
  let l' :=
    if l.any (·.1 == f) then l
    else if l.length < 32 then l ++ [(f, e)]
    else
      match leastCand l with
      | some c => if c.2 < e then l.map fun d => if d == c then (f, e) else d else l
      | none => l
  { m with cands := mset [] m.cands (homeOf f) l' }

/-- An admitted request of a frame counts in the sketch (14 R236). -/
def MemSys.attend (m : MemSys) (f : Nat) : MemSys :=
  if !m.regs.aen then m
  else
    ([0, 1, 2, 3].foldl (fun m i =>
      let k := sketchIndex f i
      let v := mget 0#16 m.sketch k
      { m with sketch := mset 0#16 m.sketch k (if v = 0xFFFF#16 then v else v + 1#16) }) m).candidate f

/-- The row of a near media address: its stack, its pseudo-channel, in which the 256-byte granules of a frame lie in turn
(14 R224), and the row there. -/
def rowOf (a : Nat) : Nat := a / 2 ^ 36 * 2 ^ 40 + a / 256 % 64 * 2 ^ 34 + Config.row a % 2 ^ 34

/-- A near access may activate its row; whether the row was open is a free value (14 R227, R228). -/
def State.activate (s : State) (a : Nat) : State :=
  if a < 2 ^ 40 && Config.free s.tick a % 2 = 1 then
    { s with mem := { s.mem with acts := mset 0 s.mem.acts (rowOf a) (mget 0 s.mem.acts (rowOf a) + 1) } }
  else s

/-- The row became hot at its 256th activation in the refresh window: its bank has had an RFM command, and the row's
activations are spaced until the window ends (14 R228). -/
def MemSys.hot (m : MemSys) (row : Nat) : Bool := 256 ≤ mget 0 m.acts row

/-- A 64-byte request to a frame counts in the sketch and may activate a row, at the media where it lies. -/
def State.countFrame (s : State) (f off : Nat) : State :=
  let t := { s with mem := s.mem.attend f }
  match t.mem.place f off with
  | some a => t.activate a
  | none => t

/-- The reads of some lines of page tables, each a request (14 R236). -/
def State.countLines (s : State) (dpas : List Nat) : State := dpas.foldl (fun s dpa => s.countFrame (dpa / 65536) (dpa % 65536)) s

/-- The requests of a walk, when no TLB of the die holds a translation of the page (14 R231). Whether one that has used it still does
is open, since the TLBs hold 64 and 1,024 entries and the spec does not say which of them leave (log 33). -/
def State.countWalk (s : State) (asid : BitVec 16) (va : BitVec 57) (die : Nat := 0) : State :=
  if !(mget [] s.mem.tlb (dieKey die (tlbKey asid va))).isEmpty && Config.free s.tick (2 ^ 60 + tlbKey asid va) % 2 = 0 then s
  else s.countLines (s.mem.walkLines asid va)

/-- What admission of a request at a place does beside the access: the walk, TLB, Attendance. -/
def State.enterReq (s : State) (asid : BitVec 16) (va : BitVec 57) (p : Place) (die : Nat := 0) : State :=
  let s := s.countWalk asid va die
  let m := s.mem.fill asid va p.xl die
  let m := match p.frame with
    | some f => m.attend f
    | none => m
  { s with mem := m }

/-- What a request at a place that is admitted and performs at once does beside the access: the row activation too. -/
def State.countAccess (s : State) (asid : BitVec 16) (va : BitVec 57) (p : Place) (die : Nat := 0) : State :=
  (s.enterReq asid va p die).activate p.addr

/-- The lines of n bytes at a VA are read: each is a request. -/
def State.countRead (s : State) (asid : BitVec 16) (va n : Nat) (die : Nat := 0) : State :=
  if n = 0 then s
  else (upto ((va % 64 + n + 63) / 64)).foldl (fun s i =>
    let a := BitVec.ofNat 57 (va / 64 * 64 + 64 * i)
    match s.placeOf asid a false with
    | some p => if p.held then s else s.countAccess asid a p die
    | none => s) s

/-- n bytes of a place within one line; a revoked frame reads zero (14 R235). -/
def State.readPlace (s : State) (p : Place) (n : Nat) : List Byte :=
  if p.revoked then List.replicate n 0#8 else s.mem.read p.addr n

/-- Bytes written at a place within one line; a revoked frame drops them. -/
def State.writePlace (s : State) (p : Place) (bs : List Byte) : State :=
  if p.revoked then s else { s with mem := s.mem.write p.addr bs }

/-- The line of a place is uncorrectable. -/
def State.badPlace (s : State) (p : Place) : Bool := !p.revoked && s.mem.isBad p.addr

/-! ### Parking -/

/-- Whether operation n may access line l of frame f now (14 R237): while the frame moves a write waits, and a read of a
line with parked writes waits behind them; after the flip the parked accesses come first, in arrival order. -/
def MemSys.mayAccess (m : MemSys) (live : Nat → Bool) (n f l : Nat) (write : Bool) : Bool :=
  let before := (m.queue live f).takeWhile fun p => p.op != n
  if chState (m.entry f) = 3 then !write && !before.any fun p => p.line == l && p.write
  else before.isEmpty

/-- A request of no operation may access the line of a place now. -/
def State.mayRequest (s : State) (p : Place) (va : BitVec 57) (write : Bool) : Bool :=
  !p.held && match p.frame with
  | none => true
  | some f => s.mem.mayAccess (fun n => (s.op n).isSome) s.nextOp f (va.toNat % 65536 / 64) write

/-- A request of no operation parks behind its frame's migration (14 R237). -/
def State.parkRequest (s : State) (e : ParkedAccess) : State :=
  { s with mem := { s.mem with parked := s.mem.parked ++ [{ e with op := s.nextOp }] }, nextOp := s.nextOp + 1 }

/-- The controller at which a request that is parked behind a missing translation holds its credit: the page tables name a frame,
which is not mapped (14 R233); until they name one, none. -/
def MemSys.parkedHome (m : MemSys) (asid : BitVec 16) (va : BitVec 57) : Option Nat :=
  (m.walk asid va).bind fun w => if w.getLsbD 4 then none else some (homeOf (pteAddr w))

/-- The request credits that a core, or the host as core 128, has in use at a controller (14 R225): those of the requests parked
behind migrations, and of those parked behind an unmapped frame. -/
def State.creditsUsed (s : State) (k home : Nat) : Nat :=
  (s.ops.filter fun o => o.core == k && o.parked.any fun x => s.mem.parkedHome o.tenant x.1 == some home).length
  + (s.reqs.filter fun x => x.2.core.toNat == k && s.mem.parkedHome x.2.asid x.2.va == some home).length
  + (s.mem.parked.filter fun p => homeOf p.frame == home && (match p.act, s.op p.op with
    | some (c, _), _ => c == k
    | none, some o => o.core == k
    | none, none => false)).length

/-- A request of core k to a place has a credit of its controller (14 R225); one to no frame of the chart needs none. -/
def State.hasCredit (s : State) (k : Nat) (p : Place) : Bool := p.frame.all fun f => s.creditsUsed k (homeOf f) < 32

/-- The engine of an event record, 09 Table 9-4. -/
def engineOf : OpKind → Nat
  | .hopen .. | .hread .. | .mldb .. | .hwrite .. | .hpos .. | .hskip .. | .hmove .. | .hclose .. => 0
  | .atom .. => 2
  | .coll .. => 3
  | .launch .. => 4
  | _ => 1

/-- The first parked request of each (ASID, page, write) writes one record of kind 0 (09 R171). -/
def State.pageFault (s : State) (asid : BitVec 16) (va : BitVec 57) (write atomic : Bool) (core engine : Nat)
    (i : StrandId) : State :=
  let key := (asid, va.toNat / 65536, write)
  if s.mem.faults.contains key then s
  else ({ s with mem := { s.mem with faults := s.mem.faults ++ [key] } }).record
    { va := va, write := write, atomic := atomic, kind := 0#4, asid := asid, core := BitVec.ofNat 7 core
      engine := BitVec.ofNat 4 engine, cause := cPageFault, strand := BitVec.ofNat 13 i.idx, seq := BitVec.ofNat 56 i.seq }

/-- The operation parks (09 R171). -/
def State.park (s : State) (o : Op) (va : BitVec 57) (write : Bool) : State :=
  let atomic := match o.kind with
    | .atom .. => true
    | _ => false
  ({ s with parks := s.parks + 1 }.setOp { o with parked := some (va, write), arrival := s.parks }).pageFault o.tenant va write atomic o.core (engineOf o.kind) o.owner

/-- A write of operation o reaches a host physical address: one to a peer's memory is irrevocable (15 R249). -/
def State.notePeer (s : State) (o : Op) (p : Place) (write : Bool) : State :=
  if write && Config.peer (p.addr - 2 ^ 52) then s.modJob o.owner.seq fun j => { j with irrevocable := true } else s

/-- The access of operation o to the line of a VA that is parked behind a migration, with its place: it was admitted when it
parked. -/
def State.parkedAt (s : State) (o : Op) (va : BitVec 57) : Option (ParkedAccess × Place) :=
  (s.mem.parked.find? fun q => q.op == o.id && q.act.isNone && q.key == tlbKey o.tenant va && q.line == va.toNat % 65536 / 64).bind
    fun q => (s.mem.place q.frame (va.toNat % 65536)).map fun a => (q, ⟨a, some q.frame, chRevoked (s.mem.entry q.frame), 0#64, false⟩)

/-- An access of operation o to the line of a VA: `k` performs it at its place once it may; otherwise the operation parks
or waits, at the core while that has no credit of the controller (14 R225). -/
def State.accessing (s : State) (o : Op) (va : BitVec 57) (write : Bool) (k : Place → State → State) : State :=
  let l := va.toNat % 65536 / 64
  let live n := (s.op n).isSome
  match s.parkedAt o va with
  | some (q, p) =>
    if s.mem.mayAccess live o.id q.frame l write then
      let t := s.activate p.addr
      k p { t with mem := { t.mem with parked := t.mem.parked.erase q } }
    else s
  | none =>
    match s.placeOf o.tenant va write with
    | none => s.park o va write
    | some p =>
      if p.held then s
      else match p.frame with
        | none => k p ((s.countAccess o.tenant va p (dieOf o.core)).notePeer o p write)
        | some f =>
          if !s.hasCredit o.core p then s
          else if s.mem.mayAccess live o.id f l write then k p (s.countAccess o.tenant va p (dieOf o.core))
          else
            let t := s.enterReq o.tenant va p (dieOf o.core)
            let e : ParkedAccess := { frame := f, line := l, op := o.id, write := write, key := tlbKey o.tenant va }
            { t with mem := { t.mem with parked := t.mem.parked ++ [e] } }

/-! ### Moves -/

/-- A move of a frame begins (14 R237): the entry is moving, with its old media. -/
def MemSys.startMove (m : MemSys) (f tier media : Nat) : MemSys :=
  let e := m.entry f
  { m.setEntry f (chEntry 3 (chPin e) (chRevoked e) (chSched e) (chMedia e)) with
    moves := m.moves ++ [⟨f, chState e, tier, media⟩] }

/-- A promotion covers a frame (14 R232, R234). -/
def MemSys.covered (m : MemSys) (f : Nat) : Bool :=
  match m.promotion with
  | some p => p.sources.contains f || decide (p.target ≤ f) && decide (f < p.target + p.sources.length)
  | none => false

/-- A move of a frame to near media of its stack's pool begins, when the frame is far, not pinned, not revoked and under no
promotion, and the pool is not empty (14 R232, R236, R238). -/
def MemSys.moveNear (m : MemSys) (f : Nat) : MemSys :=
  let e := m.entry f
  match mget [] m.pool (homeOf f) with
  | a :: rest =>
    if chState e = 2 && !chPin e && !chRevoked e && !m.covered f then
      { m.startMove f 1 a with pool := mset [] m.pool (homeOf f) rest }
    else m
  | [] => m

/-- A head command touches the page of a VA: a move of its frame starts when the frame is far with SCHED set (14 R236). -/
def State.touch (s : State) (asid : BitVec 16) (va : Nat) : State :=
  match s.placeOf asid (BitVec.ofNat 57 va) false with
  | some { frame := some f, .. } => if chSched (s.mem.entry f) then { s with mem := s.mem.moveNear f } else s
  | _ => s

/-! ### Accesses of the command processor and of the other units that read memory whole -/

/-- Why an access of such a unit cannot be made now: a line's translation is missing, or the line waits behind a migration. -/
inductive Blocked where
  | missing (va : Nat)
  | waits
deriving DecidableEq, Repr

/-- What blocks the line of a VA. -/
def State.lineBlocked (s : State) (asid : BitVec 16) (write : Bool) (va : Nat) : Option Blocked :=
  match s.placeOf asid (BitVec.ofNat 57 va) write with
  | none => some (.missing va)
  | some p => if s.mayRequest p (BitVec.ofNat 57 va) write then none else some .waits

/-- What blocks the first line of n bytes at a VA that cannot be reached. -/
def State.vaBlocked (s : State) (asid : BitVec 16) (write : Bool) : Nat → Nat → Nat → Option Blocked
  | 0, _, _ => none
  | fuel + 1, va, n =>
    if n = 0 then none
    else match s.lineBlocked asid write va with
      | some b => some b
      | none => let m := Nat.min n (64 - va % 64); s.vaBlocked asid write fuel (va + m) (n - m)

/-- What blocks n bytes at a VA. -/
def State.blocked (s : State) (asid : BitVec 16) (write : Bool) (va n : Nat) : Option Blocked :=
  s.vaBlocked asid write (n / 64 + 2) va n

/-- n bytes at a VA, line by line: none when a line cannot be reached or is uncorrectable. -/
def State.vaRead (s : State) (asid : BitVec 16) : Nat → Nat → Nat → Option (List Byte)
  | 0, _, _ => some []
  | fuel + 1, va, n =>
    if n = 0 then some []
    else
      let m := Nat.min n (64 - va % 64)
      match s.placeOf asid (BitVec.ofNat 57 va) false with
      | none => none
      | some p =>
        if s.badPlace p || !s.mayRequest p (BitVec.ofNat 57 va) false then none
        else match s.vaRead asid fuel (va + m) (n - m) with
          | some bs => some (s.readPlace p m ++ bs)
          | none => none

/-- n bytes at a VA. -/
def State.bytesAt (s : State) (asid : BitVec 16) (va n : Nat) : Option (List Byte) := s.vaRead asid (n / 64 + 2) va n
/-- Their little-endian value. -/
def State.natAt (s : State) (asid : BitVec 16) (va n : Nat) : Option Nat := (s.bytesAt asid va n).map leNat

/-- Bytes written at a VA, line by line; none when a line cannot be reached. -/
def State.vaWrite (s : State) (asid : BitVec 16) : Nat → Nat → List Byte → Option State
  | 0, _, _ => some s
  | fuel + 1, va, bs =>
    if bs.isEmpty then some s
    else
      let m := 64 - va % 64
      match s.placeOf asid (BitVec.ofNat 57 va) true with
      | none => none
      | some p =>
        if !s.mayRequest p (BitVec.ofNat 57 va) true then none
        else ((s.countAccess asid (BitVec.ofNat 57 va) p).writePlace p (bs.take m)).vaWrite asid fuel (va + m) (bs.drop m)

/-- Bytes written at a VA. -/
def State.putAt (s : State) (asid : BitVec 16) (va : Nat) (bs : List Byte) : Option State :=
  s.vaWrite asid (bs.length / 64 + 2) va bs

/-- The value of 64 bytes. -/
def lineBits (bs : List Byte) : BitVec 512 := BitVec.ofNat 512 (leNat bs)
/-- The 64 bytes of a line. -/
def bitsLine (b : BitVec 512) : List Byte := leBytes 64 b.toNat

end Sys2Proof.Machine
end

