-- ==== Sys2Proof/Machine/Numbers.lean ====
section
/-! DEFINITION. Numbers (05 R84 to R97): the element formats, exact values, RoundTo, and the exact sum, product, fused
product, quotient and square root that a lane rounds once. -/

namespace Sys2Proof.Machine

/-! ### Values -/

/-- An exact value: NaN, an infinity, or ±m × 2^e; with `sticky` the magnitude lies strictly between m × 2^e and
(m + 1) × 2^e, which a quotient, a root or an elementary function leaves. A zero keeps its sign. -/
inductive ExactNum where
  | nan
  | inf (neg : Bool)
  | fin (neg : Bool) (m : Nat) (e : Int) (sticky : Bool)
deriving DecidableEq, Repr

/-- A zero. -/
def ExactNum.zero (neg : Bool) : ExactNum := .fin neg 0 0 false
/-- An integer's value. -/
def ExactNum.ofInt (v : Int) : ExactNum := .fin (v < 0) v.natAbs 0 false

/-- The value with its sign inverted. -/
def ExactNum.negate : ExactNum → ExactNum
  | .nan => .nan
  | .inf n => .inf (!n)
  | .fin n m e t => .fin (!n) m e t

/-- The sign. -/
def ExactNum.isNeg : ExactNum → Bool
  | .nan => false
  | .inf n => n
  | .fin n _ _ _ => n

/-- A zero of either sign. -/
def ExactNum.isZero : ExactNum → Bool
  | .fin _ 0 _ t => !t
  | _ => false

/-- The value times 2^k. -/
def ExactNum.scale (k : Int) : ExactNum → ExactNum
  | .fin n m e t => .fin n m (e + k) t
  | x => x

/-- The value of an element times its E8M0 scale byte (05 R90, R91). -/
def ExactNum.scaled (x : ExactNum) (s : Byte) : ExactNum := if s = 0xFF#8 then .nan else x.scale (s.toNat - 127)

/-- ⌊log2⌋ of a nonzero magnitude. -/
def ilog (m : Nat) (e : Int) : Int := Nat.log2 m + e

/-! ### Formats, 05 Table 5-1 -/

/-- A float format: precision, the exponent of MinNormal, width, the code of the largest magnitude, the code of an
infinity, the canonical NaN, whether it has a sign bit, and whether it is one of the three IEEE layouts, which keep the
sign of a zero and hold many NaNs. -/
structure FltFmt where
  p : Nat
  emin : Int
  width : Nat
  maxc : Nat
  inf : Option Nat
  nan : Option Nat
  signed : Bool
  ieee : Bool
deriving DecidableEq, Repr

/-- A format: a float, or an integer of w bits. -/
inductive Fmt where
  | flt (f : FltFmt)
  | int (signed : Bool) (w : Nat)
deriving DecidableEq, Repr

def f32 : FltFmt := ⟨24, -126, 32, 0x7F7FFFFF, some 0x7F800000, some 0x7FC00000, true, true⟩
def bf16 : FltFmt := ⟨8, -126, 16, 0x7F7F, some 0x7F80, some 0x7FC0, true, true⟩
def fp16 : FltFmt := ⟨11, -14, 16, 0x7BFF, some 0x7C00, some 0x7E00, true, true⟩
def e2m1 : FltFmt := ⟨2, 0, 4, 7, none, none, true, false⟩

/-- binary8pP in one of its four variants (05 R85, R86): `v` is 0 signed extended, 1 signed finite, 2 unsigned extended,
3 unsigned finite. -/
def binary8 (v p : Nat) : FltFmt :=
  match v with
  | 0 => ⟨p, 1 - (2 ^ (7 - p) : Nat), 8, 0x7E, some 0x7F, some 0x80, true, false⟩
  | 1 => ⟨p, 1 - (2 ^ (7 - p) : Nat), 8, 0x7F, none, some 0x80, true, false⟩
  | 2 => ⟨p, 1 - (2 ^ (8 - p) : Nat), 8, 0xFD, some 0xFE, some 0xFF, false, false⟩
  | _ => ⟨p, 1 - (2 ^ (8 - p) : Nat), 8, 0xFE, none, some 0xFF, false, false⟩

/-- The format of a code of Table 5-1, with 0x34 n32 (23 R339). -/
def Fmt.ofCode (c : Nat) : Option Fmt :=
  if c < 0x20 then (if c % 8 = 0 then none else some (.flt (binary8 (c / 8) (c % 8))))
  else match c with
  | 0x20 => some (.flt e2m1)
  | 0x21 => some (.int true 4)
  | 0x22 => some (.int true 8)
  | 0x23 => some (.int false 8)
  | 0x30 => some (.flt bf16)
  | 0x31 => some (.flt fp16)
  | 0x32 => some (.flt f32)
  | 0x33 => some (.int true 32)
  | 0x34 => some (.int false 32)
  | _ => none

/-- The width in bits. -/
def Fmt.width : Fmt → Nat
  | .flt f => f.width
  | .int _ w => w

/-- The magnitude code and the sign of a float element. -/
def FltFmt.split (f : FltFmt) (x : Nat) : Bool × Nat :=
  let h := 2 ^ (f.width - 1)
  if f.signed then (h ≤ x, x % h) else (false, x)

/-- Whether a code is a NaN. -/
def FltFmt.isNan (f : FltFmt) (x : Nat) : Bool :=
  if f.ieee then (match f.inf with | some i => i < (f.split x).2 | none => false) else f.nan == some x

/-- Whether a code is subnormal and not zero. -/
def FltFmt.isSubnormal (f : FltFmt) (x : Nat) : Bool :=
  !f.isNan x && (f.split x).2 != 0 && (f.split x).2 < 2 ^ (f.p - 1)

/-- The exact value of a float element, 05 R85 to R88. -/
def FltFmt.dec (f : FltFmt) (x : Nat) : ExactNum :=
  if f.isNan x then .nan
  else
    let (n, c) := f.split x
    let h := 2 ^ (f.p - 1)
    let e0 := f.emin - (f.p - 1 : Nat)
    if f.inf = some c then .inf n
    else if c < h then .fin n c e0 false
    else .fin n (c % h + h) (e0 + (c / h - 1 : Nat)) false

/-- The exact value of an element. -/
def Fmt.dec (f : Fmt) (x : Nat) : ExactNum :=
  match f with
  | .flt f => f.dec x
  | .int sg w => .ofInt (if sg && 2 ^ (w - 1) ≤ x then (x : Int) - 2 ^ w else x)

/-- The exact value with a subnormal float read as a zero of its sign when zi is set (05 R96). -/
def Fmt.decZi (f : Fmt) (zi : Bool) (x : Nat) : ExactNum :=
  match f with
  | .flt g => if zi && g.isSubnormal x then .zero (g.split x).1 else g.dec x
  | _ => f.dec x

/-! ### RoundTo, 05 R94 -/

/-- Rounds the magnitude m, with sh ≥ 1 bits below the grid, by rm 0 RNE, 1 RTZ, 2 RDN, 3 RUP, 4 stochastic with draw r. -/
def roundBits (rm r : Nat) (neg : Bool) (m sh : Nat) (sticky : Bool) : Nat × Bool :=
  let lo := m >>> sh
  let low := m % 2 ^ sh
  let inexact := low != 0 || sticky
  let up :=
    match rm with
    | 0 => 2 ^ sh < 2 * low || 2 * low == 2 ^ sh && (sticky || lo % 2 == 1)
    | 1 => false
    | 2 => neg && inexact
    | 3 => !neg && inexact
    | _ => 2 ^ (32 + sh) ≤ low * 2 ^ 32 + r * 2 ^ sh
  (if up then lo + 1 else lo, inexact)

/-- Grid(x, fmt, rm): the multiple of 2^q, and whether it differs from x. -/
def gridAt (rm r : Nat) (neg : Bool) (m : Nat) (e : Int) (sticky : Bool) (q : Int) : Nat × Bool :=
  if q ≤ e then (m <<< (e - q).toNat, sticky) else roundBits rm r neg m (q - e).toNat sticky

/-- The encoding of a magnitude code with a sign; a zero keeps its sign in the IEEE layouts only. -/
def FltFmt.enc (f : FltFmt) (neg : Bool) (c : Nat) : Nat :=
  if neg && f.signed && (c != 0 || f.ieee) then 2 ^ (f.width - 1) + c else c

/-- Over(x, rm, fmt) for a format with infinities. -/
def FltFmt.over (f : FltFmt) (rm : Nat) (neg : Bool) (i : Nat) : Nat :=
  match rm with
  | 1 => f.enc neg f.maxc
  | 2 => if neg then f.enc true i else f.enc false f.maxc
  | 3 => if neg then f.enc true f.maxc else f.enc false i
  | _ => f.enc neg i

/-- RoundTo into a float format. -/
def FltFmt.round (f : FltFmt) (x : ExactNum) (rm r : Nat) (sat zo : Bool) : Nat × Flags :=
  match x with
  | .nan =>
    match f.nan with
    | some n => (n, 0#5)
    | none => (0, fNV)
  | .inf neg =>
    match f.inf, f.signed || !neg with
    | some i, true => (f.enc neg i, 0#5)
    | _, _ =>
      if neg && !f.signed then (0, fNV)
      else
        match f.nan, sat with
        | some n, false => (n, fNV)
        | _, _ => (f.enc neg f.maxc, fNV)
  | .fin neg m e sticky =>
    if m = 0 && !sticky then (f.enc neg 0, 0#5)
    else
      let tiny := m = 0 || ilog m e < f.emin
      if zo && tiny then (f.enc neg 0, fUF ||| fNX)
      else
        let ex := if tiny then f.emin else ilog m e
        let (y, inexact) := gridAt rm r neg m e sticky (ex - (f.p - 1 : Nat))
        let c := (ex - f.emin).toNat * 2 ^ (f.p - 1) + y
        if neg && !f.signed && y != 0 then (0, fNV)
        else if f.maxc < c then
          (if sat then f.enc neg f.maxc
           else match f.inf, f.nan with
            | some i, _ => f.over rm neg i
            | none, some n => n
            | none, none => f.enc neg f.maxc, fOF ||| fNX)
        else (f.enc neg c, if inexact then (if tiny then fNX ||| fUF else fNX) else 0#5)

/-- The two's complement or unsigned encoding of an integer in w bits. -/
def encInt (w : Nat) (v : Int) : Nat := (v % 2 ^ w).toNat

/-- The least and greatest values of an integer format. -/
def intMin (sg : Bool) (w : Nat) : Int := if sg then -2 ^ (w - 1) else 0
def intMax (sg : Bool) (w : Nat) : Int := if sg then 2 ^ (w - 1) - 1 else 2 ^ w - 1

/-- RoundTo into an integer format. -/
def roundInt (sg : Bool) (w : Nat) (x : ExactNum) (rm r : Nat) : Nat × Flags :=
  match x with
  | .nan => (0, fNV)
  | .inf neg => (encInt w (if neg then intMin sg w else intMax sg w), fNV)
  | .fin neg m e sticky =>
    let (y, inexact) := gridAt rm r neg m e sticky 0
    let v : Int := if neg then -(y : Int) else y
    if v < intMin sg w then (encInt w (intMin sg w), fNV)
    else if intMax sg w < v then (encInt w (intMax sg w), fNV)
    else (encInt w v, if inexact then fNX else 0#5)

/-- RoundTo(x, fmt, rm, sat, zo) with draw r for rm 4, 05 R94. -/
def roundTo (x : ExactNum) (f : Fmt) (rm r : Nat) (sat zo : Bool) : Nat × Flags :=
  match f with
  | .flt f => f.round x rm r sat zo
  | .int sg w => roundInt sg w x rm r

/-! ### Exact arithmetic with the special cases of 05 R97 -/

/-- The signed integer m × 2^(e − k), for k ≤ e. -/
def signedAt (neg : Bool) (m : Nat) (e k : Int) : Int :=
  let v : Int := (m <<< (e - k).toNat : Nat)
  if neg then -v else v

/-- a + b; an exact zero sum is +0, and −0 in RDN. -/
def ExactNum.add (rm : Nat) (a b : ExactNum) : ExactNum × Flags :=
  match a, b with
  | .nan, _ | _, .nan => (.nan, 0#5)
  | .inf x, .inf y => if x = y then (.inf x, 0#5) else (.nan, fNV)
  | .inf x, _ => (.inf x, 0#5)
  | _, .inf y => (.inf y, 0#5)
  | .fin x m e _, .fin y n f _ =>
    let k := min e f
    let v := signedAt x m e k + signedAt y n f k
    if v = 0 then (.zero (if m = 0 && n = 0 && x = y then x else rm = 2), 0#5)
    else (.fin (v < 0) v.natAbs k false, 0#5)

/-- a × b. -/
def ExactNum.mul (a b : ExactNum) : ExactNum × Flags :=
  match a, b with
  | .nan, _ | _, .nan => (.nan, 0#5)
  | .inf x, y => if y.isZero then (.nan, fNV) else (.inf (x != y.isNeg), 0#5)
  | x, .inf y => if x.isZero then (.nan, fNV) else (.inf (x.isNeg != y), 0#5)
  | .fin x m e _, .fin y n f _ => (.fin (x != y) (m * n) (e + f) false, 0#5)

/-- a × b + c, exact. -/
def ExactNum.fma (rm : Nat) (a b c : ExactNum) : ExactNum × Flags :=
  let (p, g) := a.mul b
  let (r, h) := p.add rm c
  (r, g ||| h)

/-- a / b. -/
def ExactNum.div (a b : ExactNum) : ExactNum × Flags :=
  match a, b with
  | .nan, _ | _, .nan => (.nan, 0#5)
  | .inf _, .inf _ => (.nan, fNV)
  | .inf x, y => (.inf (x != y.isNeg), 0#5)
  | x, .inf y => (.zero (x.isNeg != y), 0#5)
  | .fin x m e _, .fin y n f _ =>
    if n = 0 then (if m = 0 then (.nan, fNV) else (.inf (x != y), fDZ))
    else if m = 0 then (.zero (x != y), 0#5)
    else
      let k := 100 + Nat.log2 n
      let v := m <<< k
      (.fin (x != y) (v / n) (e - f - k) (v % n != 0), 0#5)

/-- The integer square root, bit by bit from bit b − 1 down. -/
def isqrtFrom (n : Nat) : Nat → Nat → Nat
  | 0, r => r
  | b + 1, r => if (r + 2 ^ b) * (r + 2 ^ b) ≤ n then isqrtFrom n b (r + 2 ^ b) else isqrtFrom n b r

/-- ⌊√n⌋. -/
def isqrt (n : Nat) : Nat := isqrtFrom n (Nat.log2 n / 2 + 1) 0

/-- √a; −0 gives −0. -/
def ExactNum.sqrt (a : ExactNum) : ExactNum × Flags :=
  match a with
  | .nan => (.nan, 0#5)
  | .inf neg => if neg then (.nan, fNV) else (.inf false, 0#5)
  | .fin neg m e _ =>
    if m = 0 then (.zero neg, 0#5)
    else if neg then (.nan, fNV)
    else
      let k : Nat := if e % 2 = 0 then 200 else 201
      let v := m <<< k
      let r := isqrt v
      (.fin false r ((e - k) / 2) (r * r != v), 0#5)

/-- Mix(key, ctr) of 05 Table 5-5. -/
def mix (key ctr : Word) : Lane :=
  let f (z : Word) : Word := (z ^^^ (z >>> 32)) * 0x9A4C6F1D27E5B3C7#64
  let z := f (f (key ^^^ ctr))
  (z ^^^ (z >>> 32)).extractLsb' 32 32

/-! ### The correctly rounded functions, 05 R101 and Table 5-7 -/

/-- ln 2 × 2^200, rounded down. -/
def ln2Fixed : Nat := 0xB17217F7D1CF79ABC9E3B39803F2F6AF40F343267298B62D8A

/-- Σ y^k / k! from term t = y^k / k!, fixed point with 200 fraction bits. -/
def expSeries (y : Nat) : Nat → Nat → Nat → Nat
  | 0, _, _ => 0
  | n + 1, k, t => t + expSeries y n (k + 1) ((t * y) >>> 200 / (k + 1))

/-- 2^a. For an integer a the value is exact; otherwise it is irrational, and it is known to about 190 bits, far below the
distance at which a value could lie from a rounding boundary of f32. -/
def ExactNum.exp2 (a : ExactNum) : ExactNum :=
  match a with
  | .nan => .nan
  | .inf neg => if neg then .zero false else .inf false
  | .fin neg m e _ =>
    if m = 0 then .fin false 1 0 false
    else if 9 < ilog m e then .fin false 1 (if neg then -1024 else 1024) false
    else
      let v := signedAt neg m e (-160)
      let n := v.fdiv (2 ^ 160)
      let f := (v - n * 2 ^ 160).toNat
      if f = 0 then .fin false 1 n false
      else .fin false (expSeries (((f <<< 40) * ln2Fixed) >>> 200) 50 0 (2 ^ 200)) (n - 200) true

/-- The next n fraction bits of log2 of y × 2^−256, for 1 ≤ y × 2^−256 < 2, by repeated squaring. -/
def log2Bits : Nat → Nat → Nat → Nat
  | 0, _, r => r
  | n + 1, y, r =>
    let z := (y * y) >>> 256
    if 2 ^ 257 ≤ z then log2Bits n (z >>> 1) (2 * r + 1) else log2Bits n z (2 * r)

/-- log2 a. -/
def ExactNum.log2 (a : ExactNum) : ExactNum × Flags :=
  match a with
  | .nan => (.nan, 0#5)
  | .inf neg => if neg then (.nan, fNV) else (.inf false, 0#5)
  | .fin neg m e _ =>
    if m = 0 then (.inf true, fDZ)
    else if neg then (.nan, fNV)
    else
      let l := Nat.log2 m
      let ex := e + l
      if m = 2 ^ l then (.ofInt ex, 0#5)
      else
        let v := ex * 2 ^ 120 + log2Bits 120 (m <<< (256 - l)) 0
        (if v < 0 then .fin true (-v - 1).toNat (-120) true else .fin false v.toNat (-120) true, 0#5)

/-- 1 / a; the infinite result of ±0 raises DZ. -/
def ExactNum.recip (a : ExactNum) : ExactNum × Flags := (ExactNum.fin false 1 0 false).div a

/-! ### f32 lanes -/

/-- The value of an f32 lane. -/
def rd (zi : Bool) (x : Lane) : ExactNum := (Fmt.flt f32).decZi zi x.toNat

/-- An f32 lane from a value and the flags of its operation. -/
def wr (v : ExactNum × Flags) (rm r : Nat) (sat zo : Bool) : Lane × Flags :=
  let (y, g) := f32.round v.1 rm r sat zo
  (BitVec.ofNat 32 y, v.2 ||| g)

/-- The canonical NaN of f32. -/
def qnan : Lane := 0x7FC00000#32

/-- Whether an f32 lane is a NaN. -/
def isNan32 (x : Lane) : Bool := f32.isNan x.toNat

/-- The order of f32 lanes that are no NaN, with +0 above −0. -/
def totalKey (x : Lane) : Int :=
  let m : Int := ((x.extractLsb' 0 31).toNat : Int)
  if x.getLsbD 31 then -m - 1 else m

/-- The order by real value: −0 = +0. -/
def realKey (x : Lane) : Int :=
  let m : Int := ((x.extractLsb' 0 31).toNat : Int)
  if x.getLsbD 31 then -m else m

end Sys2Proof.Machine
end

