-- ==== Sys2Proof/Machine/Tape.lean ====
section
/-! DEFINITION. Tapes (07 R129 to R133): the descriptor, groups, tags and positions; the walk of a movement and the faults
that it meets (R132, R148); the elements of a block (05 R91, R93). -/

namespace Sys2Proof.Machine

/-! ### The descriptor -/

/-- The fields of a descriptor's 64 bytes, 07 Table 7-1. -/
def Desc.parse (b : BitVec 512) : Desc where
  base := (b.extractLsb' 0 64).toNat
  len := (b.extractLsb' 64 32).toNat
  kind := (b.extractLsb' 96 2).toNat
  sink := (b.extractLsb' 128 32).toNat
  rlen := (b.extractLsb' 160 32).toNat
  gelem := (b.extractLsb' 192 16).toNat

/-- ECOUNT and WCLAIM of a descriptor. -/
def descEcount (b : BitVec 512) : Nat := (b.extractLsb' 256 48).toNat
def descClaim (b : BitVec 512) : Word := b.extractLsb' 320 64

/-- Whether a descriptor is valid, 07 R130. -/
def descValid (va : Nat) (b : BitVec 512) : Bool :=
  let d := Desc.parse b
  va % 64 == 0 && d.base % 65536 == 0 && d.base < 2 ^ 57 && d.len != 0 && d.kind != 3
  && b.extractLsb' 98 30 == 0#30 && b.extractLsb' 208 48 == 0#48 && b.extractLsb' 304 16 == 0#16
  && b.extractLsb' 384 128 == 0#128
  && (let w := descClaim b; w &&& 0x0000000000F080FE#64 == 0#64)
  && (if d.kind = 2 then d.sink + d.rlen == d.len && d.rlen != 0 && d.gelem != 0 && d.gelem ≤ 3968
      else d.sink == 0 && d.rlen == 0 && d.gelem == 0)

/-- WCLAIM as a claiming head writes it, 07 Table 7-2. -/
def claimWord (core head job : Nat) : Word :=
  (BitVec.ofNat 40 job ++ 0#4 ++ BitVec.ofNat 4 head ++ 0#1 ++ BitVec.ofNat 7 core ++ 0#7 ++ 1#1 : BitVec 64)

/-! ### Tags -/

/-- The logical elements of a block of a format code, 05 Table 5-4. -/
def formatCount (c : Nat) : Nat :=
  if isBinary8 (BitVec.ofNat 8 c) && c < 256 || c == 0x22 || c == 0x23 || c == 0x51 then 64
  else if c == 0x20 || c == 0x21 || c == 0x50 then 128
  else if c == 0x30 || c == 0x31 then 32
  else if c == 0x32 || c == 0x33 then 16
  else 0

/-- Whether a code is listed in 05 Table 5-4. -/
def codeListed (c : Nat) : Bool := c == 0 || formatCount c != 0 || c == 0x60 || c == 0xFF

/-- The elements that a block with a tag contributes; a poisoned block, those of its former code (07 R131). -/
def tagCount (tag : Nat) : Nat := if tag % 256 = 0xFF then formatCount (tag / 256) else formatCount (tag % 256)

/-- The tag of payload block b in a tag block. -/
def tagOf (bs : List Byte) (b : Nat) : Nat := leNat ((bs.drop (2 * (b - 1))).take 2)

/-- The sum of the halfwords of a tag block modulo 2^16, which the group check makes 0. -/
def halfSum : List Byte → Nat
  | a :: b :: l => (a.toNat + 256 * b.toNat + halfSum l) % 65536
  | _ => 0

/-- A tag block with the tag of block b replaced and the group check made good. -/
def retag (bs : List Byte) (b tag : Nat) : List Byte :=
  let l := (bs.take (2 * (b - 1))) ++ leBytes 2 tag ++ ((bs.take 62).drop (2 * b))
  l ++ leBytes 2 ((65536 - halfSum l) % 65536)

/-- The VA of a block of a group. -/
def blockVa (d : Desc) (g b : Nat) : Nat := d.base + 2048 * g + 64 * b

/-- A line that a walk reads has no write parked before it (14 R237). -/
def State.mayWalk (s : State) (p : Place) (va : Nat) : Bool :=
  !p.held && match p.frame with
  | some f => !(s.mem.queue (fun n => (s.op n).isSome) f).any fun q => q.write && q.line == va % 65536 / 64
  | none => true

/-- The tag block of a group, whatever its error state; none when its page has no translation, or when it waits behind a
migration. -/
def State.tags (s : State) (t : BitVec 16) (d : Desc) (g : Nat) : Option (List Byte) :=
  match s.placeOf t (BitVec.ofNat 57 (blockVa d g 0)) false with
  | some p => if s.mayWalk p (blockVa d g 0) then some (s.readPlace p 64) else none
  | none => none

/-! ### Positions -/

/-- Why tags cannot be counted: a page has no translation, or a line waits behind a migration; or a tag line is
uncorrectable (14 R359). -/
inductive TagStop where
  | missing (va : Nat)
  | bad
deriving DecidableEq, Repr

/-- The tag block of a group, to be counted. -/
def State.readTags (s : State) (t : BitVec 16) (d : Desc) (g : Nat) : Except TagStop (List Byte) :=
  match s.placeOf t (BitVec.ofNat 57 (blockVa d g 0)) false, s.tags t d g with
  | some p, some bs => if s.badPlace p then .error .bad else .ok bs
  | _, _ => .error (.missing (blockVa d g 0))

/-- Where an element stands: group, block, offset in the block; or why its place cannot be counted; or nowhere. A head counts
from group 0, and does so again for each movement: DESIGN CHOICE (log 13), so an uncorrectable tag line before the
movement stops it too. -/
inductive Loc where
  | at_ (g b off : Nat)
  | stop (r : TagStop)
  | beyond
deriving DecidableEq, Repr

/-- Element r of the blocks of a list. -/
def locBlock (bs : List Byte) : List Nat → Nat → Option (Nat × Nat)
  | [], _ => none
  | b :: l, r => let c := tagCount (tagOf bs b); if r < c then some (b, r) else locBlock bs l (r - c)

/-- The payload blocks of a group. -/
def payload : List Nat := (upto 31).map (· + 1)

/-- The elements of a group. -/
def groupCount (bs : List Byte) : Nat := payload.foldl (fun n b => n + tagCount (tagOf bs b)) 0

/-- Element r counted from group g. -/
def State.locGroups (s : State) (t : BitVec 16) (d : Desc) : Nat → Nat → Nat → Loc
  | 0, _, _ => .beyond
  | n + 1, g, r =>
    match s.readTags t d g with
    | .error r => .stop r
    | .ok bs =>
      match locBlock bs payload r with
      | some (b, off) => .at_ g b off
      | none => s.locGroups t d n (g + 1) (r - groupCount bs)

/-- The elements of groups g to g + n − 1. -/
def State.countGroups (s : State) (t : BitVec 16) (d : Desc) : Nat → Nat → Except TagStop Nat
  | 0, _ => .ok 0
  | n + 1, g =>
    match s.readTags t d g with
    | .error r => .error r
    | .ok bs => (s.countGroups t d n (g + 1)).map (groupCount bs + ·)

/-- SE, the elements of a RING tape's sink (07 R133). -/
def State.sinkCount (s : State) (t : BitVec 16) (d : Desc) : Except TagStop Nat := s.countGroups t d d.sink 0

/-- The ring group of a position p ≥ SE, and its offset there. -/
def ringAt (d : Desc) (se p : Nat) : Nat × Nat := (d.sink + (p - se) / d.gelem % d.rlen, (p - se) % d.gelem)

/-- Where element p stands. -/
def State.locate (s : State) (t : BitVec 16) (d : Desc) (p : Nat) : Loc :=
  if d.kind = 2 then
    match s.sinkCount t d with
    | .error r => .stop r
    | .ok se =>
      if p < se then s.locGroups t d d.sink 0 p
      else
        let (g, r) := ringAt d se p
        match s.readTags t d g with
        | .error r => .stop r
        | .ok bs => match locBlock bs payload r with
          | some (b, off) => .at_ g b off
          | none => .beyond
  else s.locGroups t d d.len 0 p

/-- Elements p to p + n − 1 are live (07 R133). -/
def State.live (s : State) (t : BitVec 16) (d : Desc) (ecount p n : Nat) : Except TagStop Bool :=
  if n = 0 then .ok true
  else if d.kind = 2 then
    (s.sinkCount t d).map fun se =>
      let lo := Nat.max se (ecount - d.rlen * d.gelem)
      p + n ≤ ecount && (p + n ≤ se || lo ≤ p || lo = se)
  else .ok (p + n ≤ ecount)

/-! ### What a movement meets -/

/-- What a movement meets next: an element's block with the element's offset in it; a fault with its reason and block; or
a page that has no translation, or a line behind a migration. -/
inductive Meet where
  | elem (g b off tag : Nat)
  | fault (cause : BitVec 8) (reason block : Nat)
  | missing (va : Nat)
deriving DecidableEq, Repr

/-- What a movement meets where tags cannot be counted: an uncorrectable tag line is HEAD_UE reason 1 (07 R132). -/
def TagStop.meet : TagStop → Meet
  | .missing va => .missing va
  | .bad => .fault cHeadUe 1 0

/-- The fault of entering a group: its tag block is uncorrectable, or fails its check (07 R132). -/
def State.enterGroup (s : State) (t : BitVec 16) (d : Desc) (g : Nat) : Option Meet :=
  match s.placeOf t (BitVec.ofNat 57 (blockVa d g 0)) false with
  | none => some (.missing (blockVa d g 0))
  | some p =>
    if !s.mayWalk p (blockVa d g 0) then some (.missing (blockVa d g 0))
    else if s.badPlace p then some (.fault cHeadUe 1 0)
    else if halfSum (s.readPlace p 64) != 0 then some (.fault cHeadFormat 1 0)
    else none

/-- The block after a block. -/
def nextBlock (x : Nat × Nat) : Nat × Nat := if x.2 < 31 then (x.1, x.2 + 1) else (x.1 + 1, 1)

/-- The blocks from x up to y, y left out. -/
def blocksTo : Nat → Nat × Nat → Nat × Nat → List (Nat × Nat)
  | 0, _, _ => []
  | n + 1, x, y => if x = y then [] else x :: blocksTo n (nextBlock x) y

/-- The first fault that a walk over blocks meets: a blank block, a code that is not listed, or a 0x60 block when a KEEP
write walks (07 R132, R140). -/
def State.walkZero (s : State) (t : BitVec 16) (d : Desc) (keep : Bool) : List (Nat × Nat) → Option Meet
  | [] => none
  | (g, b) :: l =>
    match s.enterGroup t d g, s.tags t d g with
    | some f, _ => some f
    | none, none => some (.missing (blockVa d g 0))
    | none, some bs =>
      let code := tagOf bs b % 256
      if code = 0 then some (.fault cHeadBlank 0 b)
      else if !codeListed code then some (.fault cHeadFormat 0 b)
      else if keep && code = 0x60 then some (.fault cHeadFormat 4 b)
      else s.walkZero t d keep l

/-- The blocks without elements that stand at position p, before the block (g, b) of element p; those that a movement from
position a meets. On a RING tape they are those of the groups that hold elements of the movement (07 R132). -/
def State.zerosAt (s : State) (t : BitVec 16) (d : Desc) (a p g b : Nat) : List (Nat × Nat) :=
  let before := match if p = 0 then Loc.beyond else s.locate t d (p - 1) with
    | .at_ g' b' _ => some (g', b')
    | _ => none
  if d.kind = 2 then
    match before with
    | some (g', b') =>
      if g' = g && b' < b then blocksTo 31 (g, b' + 1) (g, b)
      else (if p = a || b' = 31 then [] else blocksTo 31 (g', b' + 1) (g' + 1, 1)) ++ blocksTo 31 (g, 1) (g, b)
    | none => blocksTo 31 (g, 1) (g, b)
  else
    let from_ := match before with | some y => nextBlock y | none => (0, 1)
    blocksTo (31 * (g - from_.1) + 31) from_ (g, b)

/-- The zero-element blocks that a movement forward from position a walks before the block (g, b) of element p, which stands at
`off` in it. -/
def State.walkAt (s : State) (t : BitVec 16) (d : Desc) (a p g b off : Nat) : List (Nat × Nat) :=
  if off = 0 then s.zerosAt t d a p g b else []

/-- The blocks that a movement forward from position a crosses beyond the last element, where no block holds element p: to the
tape's end, or to the end of the ring group that should hold it (07 R132, R133). -/
def State.walkEnd (s : State) (t : BitVec 16) (d : Desc) (a p : Nat) : List (Nat × Nat) :=
  let before := match if p = 0 then Loc.beyond else s.locate t d (p - 1) with
    | .at_ g b _ => some (g, b)
    | _ => none
  if d.kind = 2 then
    match s.sinkCount t d with
    | .error _ => []
    | .ok se =>
      let g := (ringAt d se p).1
      match if p = a then none else before with
      | some (g', b') =>
        if g' = g then blocksTo 31 (nextBlock (g', b')) (g + 1, 1)
        else blocksTo 31 (nextBlock (g', b')) (g' + 1, 1) ++ blocksTo 31 (g, 1) (g + 1, 1)
      | none => blocksTo 31 (g, 1) (g + 1, 1)
  else if p = 0 || before.isSome then s.zerosAt t d a p d.len 1
  else []

/-- A movement forward from position a meets element p; `keep` for a KEEP write, which is refused at a 0x60 block that it
crosses (07 R140). On a RING tape the first group of the movement is walked from its block 1 (R132). Where the tape holds no
element p, and nothing that is walked faults, it is HEAD_RANGE reason 0 (log 13). -/
def State.meetForward (s : State) (t : BitVec 16) (d : Desc) (keep : Bool) (a p : Nat) : Meet :=
  match s.locate t d p with
  | .stop r => r.meet
  | .beyond => (s.walkZero t d keep (s.walkEnd t d a p)).getD (.fault cHeadRange 0 0)
  | .at_ g b off =>
    let zeros := s.walkAt t d a p g b off
    match if d.kind = 2 && p = a then s.walkZero t d false (blocksTo 31 (g, 1) (zeros.headD (g, b))) else none,
      s.walkZero t d keep zeros with
    | some f, _ => f
    | none, some f => f
    | none, none =>
      match s.enterGroup t d g, s.tags t d g with
      | some f, _ => f
      | none, some bs => .elem g b off (tagOf bs b)
      | none, none => .missing (blockVa d g 0)

/-- The zero-element blocks that a movement backward from position a walks after the block (g, b) of element p − 1, which is its
last element when `last`: those that stand at p, but none at its start. -/
def State.walkBack (s : State) (t : BitVec 16) (d : Desc) (a p : Nat) (last : Bool) : List (Nat × Nat) :=
  match if p < a && last then s.locate t d p else .beyond with
  | .at_ g' b' _ => (s.zerosAt t d a p g' b').reverse
  | _ => []

/-- A movement backward from position a enters group g of a RING tape at block b, and walks it from its block 1 (07 R132). -/
def State.entersBack (s : State) (t : BitVec 16) (d : Desc) (a p g b : Nat) : Bool :=
  d.kind = 2 && (match if p < a then s.locate t d p else .beyond with
    | .at_ g' b' _ => g' != g || b' < b
    | _ => true)

/-- The blocks that a movement backward crosses where the tape holds no element p − 1: those after its last element, or the
ring group that should hold it. -/
def State.walkEndBack (s : State) (t : BitVec 16) (d : Desc) (a p : Nat) : List (Nat × Nat) :=
  if d.kind = 2 then
    match s.sinkCount t d with
    | .ok se => let g := (ringAt d se (p - 1)).1; blocksTo 31 (g, 1) (g + 1, 1)
    | .error _ => []
  else match s.countGroups t d d.len 0 with
    | .ok n => (s.zerosAt t d a n d.len 1).reverse
    | .error _ => []

/-- A movement backward that started at position a meets element p − 1. -/
def State.meetBackward (s : State) (t : BitVec 16) (d : Desc) (keep : Bool) (a p : Nat) : Meet :=
  match s.locate t d (p - 1) with
  | .stop r => r.meet
  | .beyond => (s.walkZero t d false (s.walkEndBack t d a p)).getD (.fault cHeadRange 0 0)
  | .at_ g b off =>
    match s.tags t d g with
    | none => .missing (blockVa d g 0)
    | some bs =>
      match s.walkZero t d keep (s.walkBack t d a p (off + 1 = tagCount (tagOf bs b))),
        if s.entersBack t d a p g b then s.walkZero t d false (blocksTo 31 (g, 1) (g, b)) else none with
      | some f, _ => f
      | none, some f => f
      | none, none =>
        match s.enterGroup t d g with
        | some f => f
        | none => .elem g b off (tagOf bs b)

/-! ### The elements of a block -/

/-- The w-bit field i of a block. -/
def fieldOf (bits : BitVec 512) (w i : Nat) : Nat := (bits.extractLsb' (w * i) w).toNat

/-- The set bits below bit n of a block. -/
def onesBelow (bits : BitVec 512) : Nat → Nat
  | 0 => 0
  | n + 1 => onesBelow bits n + if bits.getLsbD n then 1 else 0

/-- A bitmap block with more set bits than it has values (05 R93). -/
def bitmapOver (code : Nat) (bits : BitVec 512) : Bool :=
  code == 0x50 && 48 < onesBelow bits 128 || code == 0x51 && 28 < onesBelow bits 64

/-- The exact value of logical element i of a block with a tag, 05 R91 and R93. -/
def blockElem (tag : Nat) (bits : BitVec 512) (i : Nat) : ExactNum :=
  let code := tag % 256
  let x : ExactNum :=
    if code = 0x50 then
      (if bits.getLsbD i then (binary8 0 4).dec (fieldOf bits 8 (16 + onesBelow bits i)) else .zero false)
    else if code = 0x51 then
      (if bits.getLsbD i then bf16.dec (fieldOf bits 16 (4 + onesBelow bits i)) else .zero false)
    else match Fmt.ofCode code with
      | some f => f.dec (fieldOf bits f.width i)
      | none => .zero false
  x.scaled (BitVec.ofNat 8 (tag / 256))

/-- A block with w-bit field i replaced. -/
def putField (bits : BitVec 512) (w i x : Nat) : BitVec 512 :=
  let m := BitVec.ofNat 512 (2 ^ w - 1) <<< (w * i)
  (bits &&& ~~~m) ||| (BitVec.ofNat 512 (x % 2 ^ w) <<< (w * i))

/-- The largest finite value of a format. -/
def Fmt.maxVal : Fmt → ExactNum
  | .flt f => f.dec f.maxc
  | .int sg w => .ofInt (intMax sg w)

/-- a ≤ b × 2^k for finite magnitudes. -/
def magLe (a b : ExactNum) (k : Int) : Bool :=
  match a, b with
  | .fin _ m e _, .fin _ n f _ =>
    let g := f + k
    if e ≤ g then m ≤ n <<< (g - e).toNat else m <<< (e - g).toNat ≤ n
  | _, _ => false

/-- The largest magnitude of the finite values of a list. -/
def absMax (l : List ExactNum) : ExactNum :=
  l.foldl (fun a x => match x with
    | .fin _ m e _ => if magLe (.fin false m e false) a 0 then a else .fin false m e false
    | _ => a) (.zero false)

/-- The least k from a candidate upward, n tries, with a ≤ b × 2^k. -/
def leastPow (a b : ExactNum) : Nat → Int → Int
  | 0, k => k
  | n + 1, k => if magLe a b k then k else leastPow a b n (k + 1)

/-- The block scale of QNT and DQNT: 127 + ⌈log2(absmax / Max)⌉ clamped to 0 to 254; 127 with no nonzero finite element
(06 R127, 12 R212). DESIGN CHOICE for QNT (log 17): an infinity or a NaN does not count towards absmax, as R212 says for
DQNT. -/
def blockScale (f : Fmt) (l : List ExactNum) : Nat :=
  match absMax l, f.maxVal with
  | .fin _ m e t, .fin u n g v =>
    if m = 0 then 127
    else
      let k := leastPow (.fin false m e t) (.fin u n g v) 4 (ilog m e - ilog n g - 1)
      (max 0 (min 254 (127 + k))).toNat
  | _, _ => 127

end Sys2Proof.Machine
end

