-- ==== Sys2Proof/Machine/Planes.lean ====
section
/-! DEFINITION. The planes of the matrix engine (11 R182): where an element of a stage lies, which blocks a plane format
accepts (R187), what a delivery stores (R186, R188), and the cancellation of a load (R182). -/

namespace Sys2Proof.Machine

/-- The K positions of a slice (11 R192). -/
def sliceK (mode : Nat) : Nat := if mode = 1 then 1024 else 512

/-- The floors of a mask, from floor 0 up. -/
def floorsOf (m : BitVec 4) : List Nat := [0, 1, 2, 3].filter m.getLsbD

/-- The passes of a stage: P = ⌈nS / L⌉. -/
def Stage.passes (t : Stage) : Nat :=
  let l := (floorsOf t.live).length
  if l = 0 then 0 else (t.deal.length + l - 1) / l

/-- The pass of slice j. -/
def Stage.passOf (t : Stage) (j : Nat) : Nat := j / (floorsOf t.live).length

/-- The number of logical elements that MLDB delivers (11 R186). -/
def Stage.count (t : Stage) : Nat := if t.mode = 1 then 256 * t.ks else 512 * t.ks

/-- Whether a block of code x loads into a plane of format bfmt, 11 Table 11-4. -/
def planeAccepts (bfmt x : Nat) : Bool :=
  let b8 := x < 0x20 && x % 8 != 0
  x == bfmt
  || bfmt == 0x30 && (b8 || x == 0x20 || x == 0x51)
  || bfmt == 0x31 && (b8 && (if x < 0x10 then 3 ≤ x % 8 else 4 ≤ x % 8) || x == 0x20)
  || bfmt == 0x22 && x == 0x21
  || bfmt == 0x04 && x == 0x50

def cellKey (floor row col : Nat) : Nat := floor * 2 ^ 18 + row * 512 + col
def scaleKey (floor row run : Nat) : Nat := floor * 8192 + row * 16 + run
def metaKey (floor group col : Nat) : Nat := floor * 2 ^ 17 + group * 512 + col

/-- The value of a code in the plane format, stored exactly. -/
def toPlane (bfmt : Nat) (v : ExactNum) : BitVec 16 :=
  match Fmt.ofCode bfmt with
  | some f => BitVec.ofNat 16 (roundTo v f 0 0 false false).1
  | none => 0#16

/-- The planes with the values of one block stored from element e of the stage: its cells and the scales of its runs. -/
def Planes.storeBlock (p : Planes) (bfmt floor row col tag : Nat) (bits : BitVec 512) : Planes :=
  let n := tagCount tag
  let code := tag % 256
  { p with
    cell := mputRun 0#16 p.cell (cellKey floor row col)
      ((upto n).map fun i => toPlane bfmt (blockElem (code + 127 * 256) bits i))
    scale := mputRun 0#8 p.scale (scaleKey floor row (col / 32)) (List.replicate ((n + 31) / 32) (BitVec.ofNat 8 (tag / 256))) }

/-- The planes with a metadata block b of a group of four rows stored (11 R188). -/
def Planes.storeMeta (p : Planes) (floor group b : Nat) (bits : BitVec 512) : Planes :=
  { p with
    meta_ := mputRun 0#4 p.meta_ (metaKey floor group (128 * b)) ((upto 128).map fun i => BitVec.ofNat 4 (fieldOf bits 4 i)) }

/-- A metadata block whose columns all have i0 < i1. -/
def metaOk (bits : BitVec 512) : Bool := (upto 128).all fun i => fieldOf bits 4 i % 4 < fieldOf bits 4 i / 4

/-- The floor of slice j. -/
def Stage.floor (t : Stage) (j : Nat) : Nat := nth 0 t.deal j

/-- The planes of a core, by number. -/
def CoreSt.plane (c : CoreSt) (b : Bool) : Planes := if b then c.plane1 else c.plane0

/-- Which of the two holds slice j of a stage (11 R192). -/
def Stage.planeOf (t : Stage) (j : Nat) : Bool := t.phys != decide (t.passOf j = 1)

/-- Whether a stage occupies one of two planes of given floors. -/
def Stage.occupies (t : Stage) (phys : Bool) (floors : BitVec 4) : Bool :=
  (upto t.deal.length).any fun j => t.planeOf j == phys && floors.getLsbD (t.floor j)

/-- An MMAC accepted before operation o still reads one of two planes of given floors, which o therefore may not write yet
(11 R190, R192, R196). -/
def State.planeRead (s : State) (o : Op) (phys : Bool) (floors : BitVec 4) : Bool :=
  s.ops.any fun p => p.core == o.core && p.id < o.id && match p.kind with
    | .mmac m => m.stage.occupies phys floors
    | _ => false

/-- A core with the planes of slice j of a stage changed. -/
def CoreSt.modPlanes (c : CoreSt) (t : Stage) (j : Nat) (f : Planes → Planes) : CoreSt :=
  if t.planeOf j then { c with plane1 := f c.plane1 } else { c with plane0 := f c.plane0 }

/-- The core with a block of physical row e / 512 stored. -/
def CoreSt.storeBlock (c : CoreSt) (t : Stage) (e tag : Nat) (bits : BitVec 512) : CoreSt :=
  let j := e / 512 / 512
  c.modPlanes t j fun p => p.storeBlock t.bfmt (t.floor j) (e / 512 % 512) (e % 512) tag bits

/-- The core with metadata block b of the group of element e stored. -/
def CoreSt.storeMeta (c : CoreSt) (t : Stage) (e b : Nat) (bits : BitVec 512) : CoreSt :=
  let g := e / 1024
  c.modPlanes t (g / 256) fun p => p.storeMeta (t.floor (g / 256)) (g % 256) b bits

/-- The stage records with those of load n changed. -/
def CoreSt.modStage (c : CoreSt) (n : Nat) (f : Stage → Stage) : CoreSt :=
  { c with stageA := if c.stageA.id = n then f c.stageA else c.stageA
           stageS := if c.stageS.id = n then f c.stageS else c.stageS }

/-- A load is cancelled: its stage is invalid, and MMACs that wait on it are dropped (11 R182). -/
def State.cancelLoad (s : State) (k n : Nat) : State :=
  s.modCore k fun c => { c.modStage n (fun t => { t with valid := false, loading := false, failed := false }) with
    cancelled := c.cancelled ++ [n] }

/-- A load has completed: its stage is valid (11 R182). -/
def State.finishLoad (s : State) (k n : Nat) : State :=
  s.modCore k fun c => c.modStage n fun t => if t.loading then { t with valid := true, loading := false } else t

end Sys2Proof.Machine
end

