-- ==== Sys2Proof/Machine/Heads.lean ====
section
/-! DEFINITION. The head commands: their checks at issue (07 R136, 21 R303), what acceptance changes (07 R137) and the order
of the commands of a core on one tape (R146). -/

namespace Sys2Proof.Machine

/-! ### Checks at issue -/

/-- A bundle that names head h yields (21 R303): the head awaits its descriptor or a reread, holds a fault not yet taken,
is closing, or holds 8 accepted commands. -/
def State.headBusy (s : State) (k h : Nat) : Bool :=
  let x := s.head k h
  x.opening || x.reread != 0 || x.fault.isSome || x.closing || 8 ≤ (s.headOps k h).length

/-- XINFO of head faults, 07 Table 7-5. -/
def headInfo (h reason block : Nat) (cancel : Bool) (pos : Nat) : Word :=
  (BitVec.ofNat 48 pos ++ 0#2 ++ BitVec.ofBool cancel ++ BitVec.ofNat 5 block ++ BitVec.ofNat 4 reason ++ BitVec.ofNat 4 h :
    BitVec 64)

/-- A failed check: the fault at its slot, POS = P (07 R136). -/
def State.headTrap (s : State) (h : Nat) (cause : BitVec 8) (reason : Nat) : State :=
  s.trap cause (headInfo h reason 0 false (s.head s.curCore h).pos)

/-- The bundle yields, and its offer leaves something behind. -/
def State.yieldsWith (s : State) (r : Side) : State :=
  { s with issue := { s.issue with stop := .yields, recs := s.issue.recs ++ [r] } }

/-- A head command: it yields while the head is busy, and then reads its registers. -/
def State.headCommand (s : State) (head : BitVec 4) (srcs : List Source) (k : Nat → State → State) : State :=
  if s.headBusy s.curCore head.toNat then s.yields else s.reading srcs (k head.toNat)

/-- Check 1 of 07 R136. -/
def State.owned (s : State) (h : Nat) (k : Head → State → State) : State :=
  let x := s.head s.curCore h
  if x.mode = 0 || x.job != s.curStrand.seq then s.headTrap h cHeadRange 3 else k x s

/-- What check 5 finds. -/
inductive RangeCheck where
  | pass
  | fail (reason : Nat)
  /-- a page that the check needs has no translation, or a line of it waits behind a migration -/
  | missing (va : Nat)
  /-- a tag line that the check needs is uncorrectable: HEAD_UE reason 1, as a walk finds it (07 R132; log 13) -/
  | bad
  /-- the tags that the check needs are still to be written by an accepted APPEND, or an acquire of the strand comes first -/
  | pending
deriving DecidableEq, Repr

/-- What a check finds where tags cannot be counted. -/
def TagStop.check : TagStop → RangeCheck
  | .missing va => .missing va
  | .bad => .bad

/-- A check needs a page: it parks where the translation is missing, and yields while the line waits behind a migration. -/
def State.yieldsMissing (s : State) (h va : Nat) : State :=
  let a := BitVec.ofNat 57 va
  if (s.placeOf (s.tenantOf ⟨(s.head s.curCore h).job, 0⟩) a false).isSome then s.yields else s.yieldsWith (.fault a)

/-- Check 5 of 07 R136: a check that would fail is made again after a reread of ECOUNT, which belongs to the bundle that
asked for it. -/
def State.ranged (s : State) (h : Nat) (c : RangeCheck) (k : State → State) : State :=
  match c with
  | .pass => k s
  | .missing va => s.yieldsMissing h va
  | .bad => s.headTrap h cHeadUe 1
  | .pending => s.yields
  | .fail reason =>
    match mget 0 s.cur.rereads h with
    | 0 => s.yieldsWith (.reread h)
    | 1 => s.yields
    | 3 => s.headTrap h cHeadUe 2
    | _ => s.headTrap h cHeadRange reason

/-- The address space of a head's job. -/
def State.headTenant (s : State) (x : Head) : BitVec 16 := s.tenantOf ⟨x.job, 0⟩

/-- What a check finds by tags: its reads of them follow the acquires of the strand (08 R154 item 6). -/
def State.byTags (s : State) (c : RangeCheck) : RangeCheck := if (s.poWaits s.curStrand false).isEmpty then c else .pending

/-- The elements [a, a + n) are live for a head. -/
def State.liveCheck (s : State) (x : Head) (a n : Nat) : RangeCheck :=
  s.byTags <| match s.live (s.headTenant x) x.desc x.ecount a n with
  | .error r => r.check
  | .ok true => .pass
  | .ok false => .fail 0

/-- The elements that a command of n moves over from P, forward or backward: the first, or none when it would pass 0. -/
def lowest (bk : Bool) (p n : Nat) : Option Nat := if bk then (if n ≤ p then some (p - n) else none) else some p

/-- Table 7-4 for HREAD, and for HWRITE KEEP and RETAG. -/
def State.moveCheck (s : State) (x : Head) (bk : Bool) (n : Nat) : RangeCheck :=
  match lowest bk x.pos n with
  | none => .fail 0
  | some a => s.liveCheck x a n

/-! ### Accepted commands -/

/-- The span of a command in positions: whether it writes the tape, its first position and the one after its last. A RAW read
also covers what stands after its last element in its last group, at most a group's elements. -/
def OpKind.span : OpKind → Option (Bool × Nat × Nat)
  | .hread _ pos n e _ _ _ bk raw _ _ =>
    if raw then some (false, pos, pos + e + 3968) else if bk then some (false, pos - n, pos) else some (false, pos, pos + n)
  | .mldb _ pos n _ => some (false, pos, pos + n)
  | .hwrite _ pos n _ _ _ bk _ _ _ => if bk then some (true, pos - n, pos) else some (true, pos, pos + n)
  | _ => none

/-- The outstanding commands of core k on the tape of a descriptor. -/
def State.tapeOps (s : State) (k desc : Nat) : List Op :=
  s.ops.filter fun o => o.core == k && (match o.kind.headOf with
    | some h => (s.head k h).descVa == desc
    | none => false)

/-- The earlier commands on the tape that a command over positions [a, b) follows in tord (07 R146): a read follows
writes, and a write follows reads and writes. On a RING tape positions share blocks, and every pair is ordered. -/
def State.tordWaits (s : State) (k : Nat) (x : Head) (write : Bool) (a b : Nat) : List Nat :=
  ((s.tapeOps k x.descVa).filter fun o => match o.kind.span with
    | some (w, c, d) => (w || write) && (x.desc.kind = 2 || a < d && c < b)
    | none => false).map (·.id)

/-- An accepted APPEND. -/
def OpKind.isAppend : OpKind → Bool
  | .hwrite _ _ _ _ _ _ _ m _ _ => m == 2
  | _ => false

/-- The accepted APPENDs of the core on a tape that have not performed, as first position, count and format, oldest
first. -/
def State.appends (s : State) (k desc : Nat) : List (Nat × Nat × Nat) :=
  (s.tapeOps k desc).filterMap fun o => match o.kind with
    | .hwrite _ pos n _ tag _ _ 2 _ _ => some (pos, n, tag % 256)
    | _ => none

/-- The tags below position b are written. -/
def State.tagsWritten (s : State) (k : Nat) (x : Head) (b : Nat) : Bool :=
  (s.appends k x.descVa).all fun (a, n, _) => n = 0 || b ≤ a

/-- An accepted head command takes its place in the head's queue. -/
def State.headOp (s : State) (domains : BitVec 7) (reads writes : List Range) (waits : List Nat) (isWrite : Bool)
    (dest : Option (RegName × Nat)) (kind : OpKind) : State :=
  let i := s.curStrand
  s.addOp { id := 0, core := s.curCore, owner := i, tenant := s.tenantOf i, domains := domains, reads := reads,
            writes := writes, waits := waits ++ s.poWaits i isWrite, dest := dest, kind := kind }

/-- P of a head after a movement. -/
def State.moveTo (s : State) (h p : Nat) : State := s.modHead s.curCore h fun x => { x with pos := p }

/-- A command without a performed effect keeps its place in the queue while earlier commands are outstanding. -/
def State.headMove (s : State) (h : Nat) : State :=
  if (s.headOps s.curCore h).isEmpty then s else s.headOp 2#7 [] [] [] false none (.hmove h)

/-- The groups that hold elements [a, a + n); those of elements that an accepted APPEND has yet to write are scheduled by it. -/
def State.groupsOf (s : State) (t : BitVec 16) (d : Desc) (a n : Nat) : List Nat :=
  let last : Loc := match s.countGroups t d d.len 0 with
    | .ok n => s.locate t d (n - 1)
    | .error r => .stop r
  let span (p q : Nat) : List Nat :=
    match s.locate t d p, s.locate t d q, last with
    | .at_ g _ _, .at_ h _ _, _ | .at_ g _ _, .beyond, .at_ h _ _ => (upto (h + 1 - g)).map (g + ·)
    | _, _, _ => []
  if n = 0 then []
  else if d.kind = 2 then
    match s.sinkCount t d with
    | .error _ => []
    | .ok se =>
      let low := if a < se then span a (Nat.min (a + n) se - 1) else []
      let p := Nat.max a se
      let ring := if se < a + n then
          (upto (Nat.min d.rlen ((a + n - 1 - se) / d.gelem - (p - se) / d.gelem + 1))).map fun i =>
            d.sink + ((p - se) / d.gelem + i) % d.rlen
        else []
      low ++ ring
  else span a (a + n - 1)

/-- The scheduled frames of some groups start to move near when a command is accepted (14 R236). -/
def State.scheduleGroups (s : State) (x : Head) (gs : List Nat) : State :=
  (gs.map fun g => (x.desc.base + 2048 * g) / 65536 * 65536).eraseDups.foldl (fun s va => s.touch (s.headTenant x) va) s

/-- Those of the blocks that hold elements [a, a + n). -/
def State.schedule (s : State) (x : Head) (a n : Nat) : State := s.scheduleGroups x (s.groupsOf (s.headTenant x) x.desc a n)

/-- HBACK, 07 R136 and R137. -/
def execHback (head : BitVec 4) (n : Src) (s : State) : Out :=
  .next (s.headCommand head [srcOf n 1] fun h s => s.owned h fun x s =>
    let c := (s.sVal n).toNat
    if x.mode = 2 then s.headTrap h cTapeWriter 2
    else if 2 ^ 48 ≤ c then s.headTrap h cHeadRange 7
    else s.ranged h (if c ≤ x.pos && x.pos - c ≤ x.ecount then .pass else .fail 0) fun s =>
      (s.moveTo h (x.pos - c)).headMove h)

/-- HSKIP: its walk is made in its place in the queue (07 R132, 21 Table 21-3). -/
def execHskip (head : BitVec 4) (n : Src) (s : State) : Out :=
  .next (s.headCommand head [srcOf n 1] fun h s => s.owned h fun x s =>
    let c := (s.sVal n).toNat
    if 2 ^ 48 ≤ c then s.headTrap h cHeadRange 7
    else s.ranged h (if x.pos + c ≤ x.ecount then .pass else .fail 0) fun s =>
      ((s.schedule x x.pos c).moveTo h (x.pos + c)).headOp 2#7 [] [] (s.tordWaits s.curCore x false x.pos (x.pos + c)) false none
        (.hskip h x.pos c))

/-- HMARK: the mark is issue state (21 R303). -/
def execHmark (head : BitVec 4) (mark : Bool) (s : State) : Out :=
  .next (s.headCommand head [] fun h s => s.owned h fun x s =>
    (s.modHead s.curCore h fun y => if mark then { y with markB := (x.pos, true) } else { y with markA := (x.pos, true) }).headMove h)

/-- HREWIND. -/
def execHrewind (head : BitVec 4) (mark : Bool) (s : State) : Out :=
  .next (s.headCommand head [] fun h s => s.owned h fun x s =>
    let m := if mark then x.markB else x.markA
    if m.2 then (s.moveTo h m.1).headMove h else s.headTrap h cHeadRange 1)

/-- HPOS: its register is empty until the earlier commands of the head are done. -/
def execHpos (head : BitVec 4) (d : BitVec 6) (s : State) : Out :=
  .next (s.headCommand head [] fun h s => s.owned h fun x s =>
    let tag := s.nextOp
    (s.claim (sReg d)).headOp 2#7 [] [] [] false (some (sReg d, tag)) (.hpos h x.pos))

/-- HCLOSE, 07 R141. -/
def execHclose (head : BitVec 4) (s : State) : Out :=
  .next (s.headCommand head [] fun h s => s.owned h fun _ s =>
    (s.modHead s.curCore h fun x => { x with closing := true }).headOp 2#7 [] [] [] true none (.hclose h))

/-- HOPEN, 07 R137: until the descriptor is held the head counts as full. -/
def execHopen (head : BitVec 4) (desc pos : Src) (mode : BitVec 2) (s : State) : Out :=
  .next (s.headCommand head [srcOf desc 0, srcOf pos 1] fun h s =>
    if (s.head s.curCore h).mode != 0 then s.headTrap h cHeadRange 4
    else
      let va := (s.sVal desc).toNat % 2 ^ 57
      let p := (s.sVal pos).toNat
      (s.modHead s.curCore h fun x =>
        { x with mode := mode.toNat, opening := true, descVa := va, job := s.curStrand.seq, pos := p % 2 ^ 48, markA := (0, false)
                 markB := (0, false), ecount := 0, desc := {}, stage := [] }).headOp 2#7 [] [] [] (mode != 1#2) none
        (.hopen h va p mode.toNat))

/-! ### HREAD -/

/-- The rounding mode of an engine's conversions, FCTL[7:5]; 4 rounds as RNE (05 R100). -/
def State.engineRm (s : State) : Nat :=
  let r := (s.issue.sr.fctl.extractLsb' 5 3).toNat
  if r = 4 then 0 else r

/-- The width in bits of a format code that FMT and SFMT accept. -/
def codeWidth (c : Nat) : Nat := match Fmt.ofCode c with | some f => f.width | none => 8

/-- n elements of w bits in bytes. -/
def bytesFor (n w : Nat) : Nat := (n * w + 7) / 8

/-- Position p stands at the first element of a group: the group. -/
def State.groupStart (s : State) (t : BitVec 16) (d : Desc) (p : Nat) : Except TagStop (Option Nat) :=
  match s.locate t d p with
  | .stop r => .error r
  | .beyond => .ok none
  | .at_ g b off =>
    (s.readTags t d g).map fun bs => if off = 0 && (upto b).all (fun c => c = 0 || tagCount (tagOf bs c) = 0) then some g else none

/-- The group after group g in the order of positions. -/
def nextGroup (d : Desc) (g : Nat) : Nat := if d.kind = 2 && g + 1 = d.len then d.sink else g + 1

/-- The group n groups after group g. -/
def groupAfter (d : Desc) : Nat → Nat → Nat
  | 0, g => g
  | n + 1, g => groupAfter d n (nextGroup d g)

/-- The elements of n whole groups from group g. -/
def State.wholeGroups (s : State) (t : BitVec 16) (d : Desc) : Nat → Nat → Except TagStop Nat
  | 0, _ => .ok 0
  | n + 1, g =>
    match s.readTags t d g with
    | .error r => .error r
    | .ok bs => (s.wholeGroups t d n (nextGroup d g)).map (groupCount bs + ·)

/-- The check of a RAW read of n groups (Table 7-4), with the elements that it moves over. A group without elements lies below
ECOUNT where its position does. -/
def State.rawCheck (s : State) (x : Head) (n : Nat) : RangeCheck × Nat :=
  let t := s.headTenant x
  if n = 0 then (.pass, 0)
  else if !s.tagsWritten s.curCore x (x.pos + n * 3968) then (.pending, 0)
  else if !(s.poWaits s.curStrand false).isEmpty then (.pending, 0)
  else match s.groupStart t x.desc x.pos with
    | .error r => (r.check, 0)
    | .ok none => (.fail 6, 0)
    | .ok (some g) =>
      match s.wholeGroups t x.desc (n - 1) g, s.wholeGroups t x.desc n g with
      | .ok c, .ok e =>
        (if x.pos + c < x.ecount && x.pos + e ≤ x.ecount && (x.desc.kind = 2 || g + n ≤ x.desc.len) then .pass else .fail 6, e)
      | .error r, _ | _, .error r => (r.check, 0)

/-- HREAD, 07 R136 to R139. -/
def execHread (head : BitVec 4) (dst n tb : Src) (fmt : BitVec 8) (bk raw sat lur : Bool) (s : State) : Out :=
  let _ := lur
  .next (s.headCommand head ([srcOf dst 0, srcOf n 1] ++ if tb.reg = 0#6 then [] else [srcOf tb 2]) fun h s =>
    s.owned h fun x s =>
      let c := (s.sVal n).toNat
      let w := codeWidth fmt.toNat
      let bytes := if raw then c * 2048 else bytesFor c w
      let a := ((s.sVal dst).extractLsb' 0 22).toNat
      let obj := ((s.sVal tb).extractLsb' 0 26).toNat
      let check := if raw then s.rawCheck x c else (s.moveCheck x bk c, c)
      if x.mode = 2 then s.headTrap h cTapeWriter 2
      else if !raw && 2 ^ 22 < c || spSize < bytes then s.headTrap h cHeadRange 7
      else if !raw && a % Nat.max 1 (w / 8) != 0 then s.headTrap h cHeadRange 8
      else s.ranged h check.1 fun s =>
        if tb.reg != 0#6 && obj % 16 != 0 then s.trap cXferSize (xferInfo 7)
        else
          match if raw then (s.core s.curCore).markPacked ⟨a, bytes⟩ s.curStrand.seq else some (s.core s.curCore) with
          | none => s.trap cPackedRead (packedInfo 1 4 a)
          | some core =>
            let s := s.setCore s.curCore core
            let p := if bk then x.pos - c else x.pos + check.2
            let low := if bk then p else x.pos
            let s := if tb.reg != 0#6 && c = 0 then
                let t := tbTarget s.curCore obj
                s.addOp { id := 0, core := s.curCore, owner := s.curStrand, tenant := s.tenantOf s.curStrand,
                          waits := s.tbWaits t.1 t.2 true, kind := .credit obj 0 false }
              else s
            ((s.moveTo h p).headOp 66#7 [] [⟨a, bytes⟩] (s.tordWaits s.curCore x false low (low + check.2)) true none
              (.hread h x.pos c check.2 a (if tb.reg != 0#6 && c != 0 then some obj else none) fmt.toNat bk raw sat
                s.engineRm)).schedule x low check.2)

/-! ### HWRITE -/

/-- The number of blocks that an APPEND of n elements writes. -/
def blocksFor (n f : Nat) : Nat := let c := formatCount f; if c = 0 then 0 else (n + c - 1) / c

/-- The number, over 31 blocks a group, of the block at which an APPEND at P = ECOUNT on an APPEND tape starts: it follows the
block that holds the element before the oldest APPEND that has not performed, and that APPEND's blocks and its successors'. -/
def State.appendFirst (s : State) (x : Head) : Except TagStop Nat :=
  let l := s.appends s.curCore x.descVa
  let base := match l with | (p, _, _) :: _ => p | [] => x.pos
  let ahead := l.foldl (fun m (_, c, g) => m + blocksFor c g) 0
  let first : Except TagStop Nat :=
    if base = 0 then .ok 0
    else match s.locate (s.headTenant x) x.desc (base - 1) with
      | .at_ g b _ => .ok (31 * g + b)
      | .stop r => .error r
      | .beyond => .ok (31 * x.desc.len)
  first.map (· + ahead)

/-- The blocks of an APPEND of n elements lie within LEN groups. -/
def State.fits (s : State) (x : Head) (n f : Nat) : RangeCheck :=
  s.byTags <| match s.appendFirst x with
  | .error r => r.check
  | .ok i => if i + blocksFor n f ≤ 31 * x.desc.len then .pass else .fail 5

/-- The groups that an APPEND of n elements writes. -/
def State.appendGroups (s : State) (x : Head) (n f : Nat) : List Nat :=
  if x.desc.kind = 2 then s.groupsOf (s.headTenant x) x.desc x.pos n
  else match s.appendFirst x with
    | .ok i => if blocksFor n f = 0 then [] else (upto ((i + blocksFor n f - 1) / 31 + 1 - i / 31)).map (i / 31 + ·)
    | .error _ => []

/-- Table 7-4 for APPEND. -/
def State.appendCheck (s : State) (x : Head) (n f : Nat) : RangeCheck :=
  if x.desc.kind = 0 then .fail 5
  else if x.pos != x.ecount then .fail 0
  else if x.desc.kind = 1 && n != 0 then s.fits x n f
  else .pass

/-- Position p stands at a block boundary: before a block's first element, or after its last. -/
def State.blockEdge (s : State) (t : BitVec 16) (d : Desc) (p : Nat) : RangeCheck :=
  s.byTags <|
  let after : RangeCheck :=
    if p = 0 then .pass
    else match s.locate t d (p - 1) with
      | .stop r => r.check
      | .beyond => .fail 2
      | .at_ g b off =>
        match s.readTags t d g with
        | .error r => r.check
        | .ok bs => if off + 1 = tagCount (tagOf bs b) then .pass else .fail 2
  match s.locate t d p with
  | .at_ _ _ 0 => .pass
  | .stop .bad => .bad
  | _ => after

/-- RETAG and APPEND cover whole blocks (07 R140): HEAD_RANGE reason 2 otherwise. An APPEND on an APPEND tape starts where
the blocks of the APPENDs that have not performed start, or at a block's end; on a RING tape the head finds a start
inside a block (R133). -/
def State.wholeBlocks (s : State) (x : Head) (mode : Nat) (bk : Bool) (n f : Nat) : RangeCheck :=
  let t := s.headTenant x
  if mode = 0 || n = 0 then .pass
  else if mode = 2 then
    let c := formatCount f
    if c != 0 && n % c != 0 then .fail 2
    else if x.desc.kind != 1 then .pass
    else s.blockEdge t x.desc (match s.appends s.curCore x.descVa with | (p, _, _) :: _ => p | [] => x.pos)
  else
    let a := if bk then x.pos - n else x.pos
    if !s.tagsWritten s.curCore x (a + n) then .pending
    else match s.blockEdge t x.desc a with
      | .pass => s.blockEdge t x.desc (a + n)
      | r => r

/-- HWRITE, 07 R136, R137, R140, R146: acceptance invalidates the staged blocks of every head on the tape. The check of whole
blocks is made after check 5: DESIGN CHOICE (log 13), R140 gives it no place in the order of R136. -/
def execHwrite (head : BitVec 4) (src n tag : Src) (fmt : BitVec 8) (bk : Bool) (mode : BitVec 2) (lur sat : Bool)
    (s : State) : Out :=
  let _ := lur
  .next (s.headCommand head ([srcOf src 0, srcOf n 1] ++ if mode = 0#2 then [] else [srcOf tag 2]) fun h s =>
    s.owned h fun x s =>
      let c := (s.sVal n).toNat
      let bytes := bytesFor c (codeWidth fmt.toNat)
      let a := ((s.sVal src).extractLsb' 0 22).toNat
      let spec := ((s.sVal tag).extractLsb' 0 24).toNat
      let m := mode.toNat
      if x.mode = 1 then s.headTrap h cTapeWriter 1
      else if 2 ^ 48 ≤ c || spSize < bytes then s.headTrap h cHeadRange 7
      else s.ranged h (if m = 2 then s.appendCheck x c (spec % 256) else s.moveCheck x bk c) fun s =>
        match s.wholeBlocks x m bk c (spec % 256) with
        | .fail r => s.headTrap h cHeadRange r
        | .missing va => s.yieldsMissing h va
        | .bad => s.headTrap h cHeadUe 1
        | .pending => s.yields
        | .pass =>
          let p := if bk then x.pos - c else x.pos + c
          let low := if bk then p else x.pos
          let s := if m = 2 then s.scheduleGroups x (s.appendGroups x c (spec % 256)) else s.schedule x low c
          let t := (s.moveTo h p).headOp 66#7 [⟨a, bytes⟩] [] (s.tordWaits s.curCore x true low (low + c)) true none
            (.hwrite h x.pos c a spec fmt.toNat bk m sat s.engineRm)
          let t := t.modHead t.curCore h fun y => if m = 2 then { y with ecount := y.ecount + c } else y
          (upto 16).foldl (fun t g =>
            if (t.head t.curCore g).descVa = x.descVa then t.modHead t.curCore g fun y => { y with stage := [] } else t) t)

end Sys2Proof.Machine
end

