-- ==== Sys2Proof/Machine/HeadSteps.lean ====
section
/-! DEFINITION. The steps of the heads: the descriptor and its claim (07 R137, R141), the reread of ECOUNT (R136), prefetch
(R143), delivery (R138, R142), writes (R140), HPOS, closing, and the faults that a moving head finds (R148). -/

namespace Sys2Proof.Machine

/-! ### The queue of a head -/

/-- The commands without a performed effect that have come to the front of a head's queue are done. -/
def State.headNext (s : State) (k h : Nat) : State :=
  ((s.headOps k h).takeWhile fun o => match o.kind with | .hmove _ => true | _ => false).foldl (fun s o => s.endOp o.id) s

/-- A head command has performed. -/
def State.headDone (s : State) (k h n : Nat) : State := (s.endOp n).headNext k h

/-- The operation is the oldest of its head, and what it waits for has performed. -/
def State.headFront (s : State) (o : Op) (h : Nat) : Bool :=
  s.ready o && (match s.headOps o.core h with | p :: _ => p.id == o.id | [] => false)

/-! ### Faults, 07 R148 -/

/-- The granules of a range. -/
def granules (r : Range) : List Nat :=
  if r.len = 0 then [] else (upto ((r.start % 64 + r.len + 63) / 64)).map fun i => (r.start / 64 * 64 + 64 * i) % spSize

/-- Granules that operation n of core k leaves unwritten: the later commands that read one are held until another write
to it performs. -/
def State.addHoles (s : State) (k n : Nat) (rs : List Range) : State :=
  let gs := rs.flatMap granules
  let held := (s.ops.filter fun o => o.core == k && n < o.id).flatMap fun o =>
    (gs.filter fun g => meetsAny ⟨g, 64⟩ o.reads).map fun g => (o.id, g)
  s.modCore k fun c => { c with holes := c.holes ++ held }

/-- What the end of a cancelled command of a head leaves: a cancelled HPOS writes the position at which the head stands,
and a cancelled load its stage invalid. -/
def State.cancelOp (s : State) (o : Op) (pos : Nat) : State :=
  match o.kind with
  | .hpos _ _ => s.deliver o.owner o.dest (.word (BitVec.ofNat 64 pos))
  | .mldb .. => s.cancelLoad o.core o.id
  | _ => s

/-- The bytes that a read's first n slots take. -/
def slotBytes (raw : Bool) (fmt n : Nat) : Nat := if raw then n * 2048 else bytesFor n (codeWidth fmt)

/-- A read that a fault stops credits the bytes of the slots that it wrote (07 R139). The credit is in no SETTLE domain: DEDUCED
(log 23). -/
def State.partCredit (s : State) (o : Op) : State :=
  match o.kind with
  | .hread _ _ _ _ _ (some obj) fmt _ raw _ _ =>
    s.addOp { id := 0, core := o.core, owner := o.owner, tenant := o.tenant, waits := s.creditWaits o.owner o.core o.id obj
              kind := .credit obj (slotBytes raw fmt o.prog) false }
  | _ => s

/-- The elements that an APPEND would have written. -/
def OpKind.appended : OpKind → Nat
  | .hwrite _ _ n _ _ _ _ 2 _ _ => n
  | _ => 0

/-- A fault found by head h in operation o: it and every later command of the head are cancelled, the head stands at
`pos`, and the fault is owed to the strand that issued o. -/
def State.headFault (s : State) (o : Op) (h : Nat) (cause : BitVec 8) (reason block pos : Nat) : State :=
  let k := o.core
  let later := (s.headOps k h).filter fun p => o.id < p.id
  let gone := o :: later
  let opened := match o.kind with | .hopen .. => true | _ => false
  let back := gone.foldl (fun n p => n + p.kind.appended) 0
  let owed : Owed := ⟨cause, headInfo h reason block (!later.isEmpty) pos⟩
  let read := match o.kind with | .hread .. | .mldb .. => true | _ => false
  let s := gone.foldl (fun s p => s.cancelOp p pos) (s.partCredit o)
  let s := { s with ops := s.ops.filter fun p => !(gone.any fun q => q.id == p.id) }
  let s := gone.foldl (fun s p => s.addHoles k p.id p.writes) s
  let s := s.modHead k h fun x =>
    { x with pos := pos % 2 ^ 48, ecount := x.ecount - back, closing := false, opening := false
             mode := if opened then 0 else x.mode, wmk := if read then o.prog else x.wmk
             stage := x.stage.filter fun b => !b.poison
             fault := if s.hasExited o.owner then none else some (owed, o.owner) }
  if s.hasExited o.owner then s.faultExited o.owner cause else s

/-- Operation o needs the line of a VA: it parks where the translation is missing, and waits while the line waits behind a
migration. -/
def State.parkMissing (s : State) (o : Op) (va : Nat) : State :=
  if (s.placeOf o.tenant (BitVec.ofNat 57 va) false).isSome then s else s.park o (BitVec.ofNat 57 va) false

/-- A walk of operation o meets a fault, or a page without a translation, at position p. -/
def State.meetFault (s : State) (o : Op) (h p : Nat) (m : Meet) : State :=
  match m with
  | .fault cause reason block => s.headFault o h cause reason block p
  | .missing va => s.parkMissing o va
  | .elem .. => s

/-! ### The descriptor -/

/-- The line of a descriptor. -/
def descLine (va : Nat) : BitVec 57 := BitVec.ofNat 57 (va / 64 * 64)

/-- HEAD_DESCRIPTOR_READ, 07 R137: the claim is one atomic step with the read, and a head whose start position is beyond
ECOUNT claims nothing. -/
def execHeadDescriptorRead (op : Nat) (s : State) : Out :=
  .next (match s.op op with
    | some o =>
      match o.kind with
      | .hopen h va pos mode =>
        if !s.ready o then s
        else s.accessing o (descLine va) (mode != 1) fun p s =>
          let d := lineBits (s.readPlace p 64)
          let k := o.core
          if s.badPlace p then s.headFault o h cHeadUe 2 0 pos
          else if !descValid va d then s.headFault o h cHeadFormat 2 0 pos
          else if descEcount d < pos then s.headFault o h cHeadRange 0 0 pos
          else if mode != 1 && descClaim d != 0#64 then s.headFault o h cTapeWriter 0 0 pos
          else
            let s := if mode = 1 then s
              else s.writePlace { p with addr := p.addr + 40 } (leBytes 8 (claimWord k h o.owner.seq).toNat)
            (s.modHead k h fun x => { x with opening := false, desc := Desc.parse d, ecount := descEcount d }).headDone k h op
      | _ => s
    | none => s)

/-- The reread of ECOUNT that head h awaits finds no translation and parks (09 R171). -/
def State.parkReread (s : State) (k h : Nat) : State :=
  let x := s.head k h
  (({ s with parks := s.parks + 1 }).pageFault (s.headTenant x) (descLine x.descVa) false false k 0 (x.asker.getD ⟨x.job, 0⟩)).modHead
    k h fun x => { x with reread := 2, rereadAt := s.parks }

/-- The reread of head h may be made: it follows the acquires of the strand that asked for it (08 R154 item 6). -/
def State.mayReread (s : State) (k h : Nat) : Bool :=
  match (s.head k h).asker with
  | some i => (s.poWaits i false).isEmpty
  | none => true

/-- ECOUNT_REREAD, 07 R136: the head holds the larger of the two values. -/
def execEcountReread (core : BitVec 7) (head : BitVec 4) (s : State) : Out :=
  .next (
    let k := core.toNat
    let h := head.toNat
    let x := s.head k h
    let t := s.headTenant x
    let asks := (coreCtxs k).filter fun c => mget 0 (s.ctx c).rereads h == 1
    let done (n : Nat) (s : State) : State := asks.foldl (fun s c => s.modCtx c fun y => { y with rereads := mset 0 y.rereads h n }) s
    if x.reread != 1 || !s.mayReread k h then s
    else match s.placeOf t (descLine x.descVa) false with
      | none => s.parkReread k h
      | some p =>
        let d := lineBits (s.readPlace p 64)
        let bad := s.badPlace p
        if !s.hasCredit k p || !s.mayRequest p (descLine x.descVa) false then s
        else ((done (if bad then 3 else 2) (s.countAccess t (descLine x.descVa) p (dieOf k))).modHead k h fun x =>
          { x with reread := 0, ecount := if bad then x.ecount else Nat.max x.ecount (descEcount d) }))

/-! ### Prefetch -/

/-- The head holds a staged block. -/
def Head.staged (x : Head) (g b : Nat) : Option Staged := x.stage.find? fun y => y.group == g && y.block == b

/-- The next block that a read of n elements from position p needs and that is not staged; `bk` reads backward from its
start a. -/
def State.wanted (s : State) (t : BitVec 16) (x : Head) (a : Nat) (bk : Bool) : Nat → Nat → Nat → Option (Nat × Nat × Nat)
  | 0, _, _ => none
  | fuel + 1, p, n =>
    if n = 0 then none
    else match if bk then s.meetBackward t x.desc false a p else s.meetForward t x.desc false a p with
      | .elem g b off tag =>
        let c := Nat.min n (if bk then off + 1 else tagCount tag - off)
        if (x.staged g b).isSome then s.wanted t x a bk fuel (if bk then p - c else p + c) (n - c) else some (g, b, tag)
      | _ => none

/-- The elements of the first n groups of a RAW read from position p. -/
def State.rawDone (s : State) (t : BitVec 16) (d : Desc) (p n : Nat) : Nat :=
  match s.groupStart t d p with
  | .ok (some g) => (match s.wholeGroups t d n g with | .ok e => e | .error _ => 0)
  | _ => 0

/-- The reads of a head as position, direction, start and elements left, in the order in which they consume. -/
def State.wantedReads (s : State) (k h : Nat) : List (Nat × Bool × Nat × Nat) :=
  ((s.headOps k h).takeWhile s.ready).filterMap fun o => match o.kind with
    | .hread _ pos n e _ _ _ bk raw _ _ =>
      if raw then
        let d := s.rawDone (s.headTenant (s.head k h)) (s.head k h).desc pos o.prog
        some (pos + d, false, pos + d, e - d)
      else some (if bk then pos - o.prog else pos + o.prog, bk, pos, n - o.prog)
    | .mldb _ pos n _ => some (pos + o.prog, false, pos, n - o.prog)
    | _ => none

/-- The block that the prefetch of head h fetches next: at most DEPTH groups' worth are staged (07 R143). -/
def State.prefetch (s : State) (k h : Nat) : Option (Nat × Nat × Nat) :=
  let x := s.head k h
  if x.desc.len = 0 || 32 * x.depth ≤ x.stage.length then none
  else (s.wantedReads k h).findSome? fun (p, bk, a, n) => s.wanted (s.headTenant x) x a bk (x.stage.length + 1) p n

/-- A head of core k takes a block of a group from memory. Whether its tag block is fetched with it, or was kept, is open (log 22). -/
def State.countTags (s : State) (k : Nat) (t : BitVec 16) (d : Desc) (g : Nat) : State :=
  if Config.free s.tick (g + 1) % 2 = 1 then s.countRead t (blockVa d g 0) 64 (dieOf k) else s

/-- A head of core k has the credits to read the tag blocks of some groups (14 R225). -/
def State.tagCredits (s : State) (k : Nat) (t : BitVec 16) (d : Desc) (gs : List Nat) : Bool :=
  gs.all fun g => (s.placeOf t (BitVec.ofNat 57 (blockVa d g 0)) false).all (s.hasCredit k)

/-- The walk of an HSKIP, 07 R132: n elements from position p. -/
def State.skipWalk (s : State) (t : BitVec 16) (d : Desc) (a : Nat) : Nat → Nat → Nat → Option (Nat × Meet)
  | 0, _, _ => none
  | fuel + 1, p, n =>
    if n = 0 then none
    else match s.meetForward t d false a p with
      | .elem _ _ off tag =>
        let c := Nat.min n (tagCount tag - off)
        s.skipWalk t d a fuel (p + c) (n - c)
      | m => some (p, m)

/-- HEAD_BLOCK_FETCH: a prefetched block returns into the stage; or the walk of an HSKIP is made. -/
def execHeadBlockFetch (core : BitVec 7) (head : BitVec 4) (s : State) : Out :=
  .next (
    let k := core.toNat
    let h := head.toNat
    let x := s.head k h
    let t := s.headTenant x
    let fetch : State :=
      match s.prefetch k h with
      | none => s
      | some (g, b, tag) =>
        let va := BitVec.ofNat 57 (blockVa x.desc g b)
        match s.placeOf t va false with
        | none => s
        | some p =>
          let bad := s.badPlace p || tag % 256 == 0xFF
          let y : Staged := ⟨g, b, tag, lineBits (s.readPlace p 64), bad⟩
          if !s.hasCredit k p || !s.mayRequest p va false then s
          else ((s.countTags k t x.desc g).countAccess t va p (dieOf k)).modHead k h fun x => { x with stage := x.stage ++ [y], poison := x.poison || bad }
    match s.headOps k h with
    | o :: _ =>
      match o.kind with
      | .hskip _ pos n =>
        if !s.ready o then s
        else match if x.desc.kind = 2 then none else s.skipWalk t x.desc pos (n + 1) pos n with
          | some (p, m) => s.meetFault o h p m
          | none =>
            let gs := if x.desc.kind = 2 then [] else s.groupsOf t x.desc pos n
            if !s.tagCredits k t x.desc gs then s
            else (gs.foldl (fun s g => s.countTags k t x.desc g) s).headDone k h o.id
      | _ => fetch
    | [] => s)

/-! ### Delivery -/

/-- Block b of group g for operation o at position p: from the stage when it holds the block, otherwise from memory. -/
def State.withBlock (s : State) (o : Op) (h g b tag p : Nat) (k : BitVec 512 → Nat → State → State) : State :=
  let x := s.head o.core h
  let drop (s : State) := s.modHead o.core h fun x => { x with stage := x.stage.filter fun y => !(y.group == g && y.block == b) }
  if tag % 256 = 0xFF then s.headFault o h cHeadUe 0 b p
  else match (x.staged g b).filter fun y => tagCount y.tag = tagCount tag with
    | some y => if y.poison then s.headFault o h cHeadUe 0 b p else k y.bits y.tag (drop s)
    | none => s.accessing o (BitVec.ofNat 57 (blockVa x.desc g b)) false fun q s =>
      if s.badPlace q then (s.modHead o.core h fun x => { x with poison := true }).headFault o h cHeadUe 0 b p
      else k (lineBits (s.readPlace q 64)) tag (drop (s.countTags o.core o.tenant x.desc g))

/-- The bytes of slots i and up with values vs of w bits; a 4-bit slot shares its byte, whose low nibble `low` stands. -/
def packSlots (w : Nat) (low : Nat) (i : Nat) (vs : List Nat) : List Byte :=
  if w = 4 then
    let l := if i % 2 = 1 then low % 16 :: vs else vs
    leBytes ((l.length + 1) / 2) (l.foldr (fun v n => v % 16 + 16 * n) 0)
  else vs.flatMap fun v => leBytes (w / 8) v

/-- The core's L-slot view of a delivery: WMK, and the range still to be written. -/
def Op.delivered (o : Op) (dst total done prog : Nat) : Op :=
  { o with prog := prog, writes := if done = total then [] else [⟨(dst + done) % spSize, total - done⟩] }

/-- The last slot has been written: WMK keeps the count, and the barrier's credit follows (07 R139, R142). -/
def State.readDone (s : State) (o : Op) (h : Nat) : State :=
  (s.partCredit o).modHead o.core h (fun x => { x with wmk := o.prog }) |>.headDone o.core h o.id

/-- One block of an HREAD. -/
def State.readStep (s : State) (o : Op) (h pos n dst : Nat) (fmt : Nat) (bk sat : Bool) (rm : Nat) : State :=
  let x := s.head o.core h
  let t := s.headTenant x
  let p := if bk then pos - o.prog else pos + o.prog
  if o.prog = n then s.readDone o h
  else match if bk then s.meetBackward t x.desc false pos p else s.meetForward t x.desc false pos p with
    | .elem g b off tag => s.withBlock o h g b tag p fun bits tag s =>
      if bitmapOver (tag % 256) bits then s.headFault o h cHeadFormat 0 b p
      else
        let c := Nat.min (n - o.prog) (if bk then off + 1 else tagCount tag - off)
        let w := codeWidth fmt
        let vals := (upto c).map fun i =>
          match Fmt.ofCode fmt with
          | some f => (roundTo (blockElem tag bits (if bk then off - i else off + i)) f rm 0 sat false).1
          | none => 0
        let a := (dst + o.prog * w / 8) % spSize
        let bs := packSlots w ((s.core o.core).spByte a).toNat o.prog vals
        if s.writeBlocked o.core o.id ⟨a, bs.length⟩ then s
        else
          let prog := o.prog + c
          let total := bytesFor n w
          let o := o.delivered dst total (if prog = n then total else prog * w / 8) prog
          let s := (s.spWrite o.core a bs).setOp o
          if prog = n then s.readDone o h else s
    | m => s.meetFault o h p m

/-- What a RAW read meets in a group: its tag block, and its payload blocks in order (07 R132, R148). Blocks without
elements after the last element of the last group are not walked. Every line is delivered, so an uncorrectable one faults
whatever its code (14 R359). -/
def State.rawFault (s : State) (t : BitVec 16) (d : Desc) (g : Nat) (last : Bool) : Option Meet :=
  match s.enterGroup t d g, s.tags t d g with
  | some m, _ => some m
  | none, none => some (.missing (blockVa d g 0))
  | none, some bs =>
    payload.findSome? fun b =>
      let tag := tagOf bs b
      let code := tag % 256
      let bad := match s.placeOf t (BitVec.ofNat 57 (blockVa d g b)) false with
        | some q => s.badPlace q || bitmapOver code (lineBits (s.readPlace q 64))
        | none => false
      let ue := match s.placeOf t (BitVec.ofNat 57 (blockVa d g b)) false with
        | some q => s.badPlace q
        | none => false
      if code = 0xFF || ue then some (.fault cHeadUe 0 b)
      else if tagCount tag = 0 then
        (if last && (payload.filter (b < ·)).all fun c => tagCount (tagOf bs c) = 0 then none
         else if code = 0 then some (.fault cHeadBlank 0 b)
         else if !codeListed code then some (.fault cHeadFormat 0 b)
         else none)
      else if bad then some (.fault cHeadFormat 0 b)
      else none

/-- One group of a RAW read: its 2,048 bytes unchanged. The groups follow each other from that of position `pos`, those without
elements among them (07 R138). DESIGN CHOICE (log 13): where a payload block is at fault the head stands at the first position of
its group, none of which is delivered, and BLOCK names the block. -/
def State.rawStep (s : State) (o : Op) (h pos n dst : Nat) : State :=
  let x := s.head o.core h
  let t := s.headTenant x
  let p := pos + s.rawDone t x.desc pos o.prog
  if o.prog = n then s.readDone o h
  else match s.groupStart t x.desc pos with
    | .ok (some g₀) =>
      let g := groupAfter x.desc o.prog g₀
      if (upto 32).any fun b => match s.placeOf t (BitVec.ofNat 57 (blockVa x.desc g b)) false with
          | some q => !s.mayWalk q (blockVa x.desc g b)
          | none => false
      then s
      else match s.rawFault t x.desc g (o.prog + 1 = n) with
      | some m => s.meetFault o h p m
      | none =>
        let a := (dst + o.prog * 2048) % spSize
        if s.writeBlocked o.core o.id ⟨a, 2048⟩ then s
        else s.accessing o (BitVec.ofNat 57 (blockVa x.desc g 0)) false fun q s =>
          let prog := o.prog + 1
          let bs := if q.revoked then List.replicate 2048 0#8 else s.mem.read q.addr 2048
          let o := o.delivered dst (n * 2048) (prog * 2048) prog
          let s := ((s.countRead t (blockVa x.desc g 1) 1984 (dieOf o.core)).spWrite o.core a bs).setOp o
          if prog = n then s.readDone o h else s
    | .error r => s.meetFault o h p r.meet
    | .ok none => s.headFault o h cHeadRange 0 0 p

/-- One block of an MLDB, with the metadata blocks before it (11 R186 to R188). -/
def State.loadStep (s : State) (o : Op) (h pos n : Nat) (st : Stage) : State :=
  let x := s.head o.core h
  let t := s.headTenant x
  let e := o.prog
  let p := pos + e
  let j := e / 512 / 512
  if e = n || s.planeRead o (st.planeOf j) (BitVec.twoPow 4 (st.floor j)) then s
  else match s.meetForward t x.desc false pos p with
    | .elem g b off tag =>
      let zeros := if off = 0 then (s.zerosAt t x.desc pos p g b).filter fun y =>
          (match s.tags t x.desc y.1 with | some bs => tagOf bs y.2 % 256 == 0x60 | none => false) else []
      let due := if st.mode = 1 && e % 1024 = 0 then 4 else 0
      let line (y : Nat × Nat) : Option Place := s.placeOf t (BitVec.ofNat 57 (blockVa x.desc y.1 y.2)) false
      let metas := zeros.map fun y => (y.2, match line y with
        | some q => (s.badPlace q, lineBits (s.readPlace q 64))
        | none => (false, 0#512))
      if zeros.any fun y => match line y with | some q => !s.hasCredit o.core q || !s.mayWalk q (blockVa x.desc y.1 y.2) | none => false then s
      else if due < zeros.length then s.headFault o h cHeadFormat 3 (match zeros[due]? with | some y => y.2 | none => b) p
      else if zeros.length < due || off != 0 then
        s.headFault o h (if tag % 256 = 0xFF then cHeadUe else cHeadFormat) (if tag % 256 = 0xFF then 0 else 3) b p
      else match metas.find? fun y => y.2.1 || !metaOk y.2.2 with
        | some y => s.headFault o h (if y.2.1 then cHeadUe else cHeadFormat) (if y.2.1 then 0 else 3) y.1 p
        | none => s.withBlock o h g b tag p fun bits tag s =>
          if bitmapOver (tag % 256) bits then s.headFault o h cHeadFormat 0 b p
          else
            let c := tagCount tag
            if !planeAccepts st.bfmt (tag % 256) || 512 < e % 512 + c then s.headFault o h cHeadFormat 3 b p
            else
              let s := zeros.foldl (fun s y => s.countRead t (blockVa x.desc y.1 y.2) 64 (dieOf o.core)) s
              let s := s.modCore o.core fun k =>
                ((upto metas.length).zip metas).foldl (fun k y => k.storeMeta st e y.1 y.2.2.2) (k.storeBlock st e tag bits)
              s.setOp { o with prog := e + c }
    | m => s.meetFault o h p m

/-- HEAD_DELIVERY: one block, or one group of a RAW read. -/
def execHeadDelivery (op : Nat) (s : State) : Out :=
  .next (match s.op op with
    | some o =>
      match o.kind with
      | .hread h pos n _ dst _ fmt bk raw sat rm =>
        if !s.headFront o h then s
        else if raw then s.rawStep o h pos n dst
        else s.readStep o h pos n dst fmt bk sat rm
      | .mldb h pos n st => if s.headFront o h then s.loadStep o h pos n st else s
      | _ => s
    | none => s)

/-! ### Writes -/

/-- Source slot i of an HWRITE: its exact value. -/
def CoreSt.slotValue (c : CoreSt) (src fmt i : Nat) : ExactNum :=
  let w := codeWidth fmt
  let x := if w = 4 then (c.spByte (src + i / 2)).toNat / (if i % 2 = 1 then 16 else 1) % 16
    else c.spNat (src + i * (w / 8)) (w / 8)
  match Fmt.ofCode fmt with
  | some f => f.dec x
  | none => .zero false

/-- A block of format f from c values and its tag: the scale of the tag specification, or the QNT rule's (07 R140). -/
def newBlock (f : Fmt) (code spec rm : Nat) (sat : Bool) (vs : List ExactNum) : BitVec 512 × Nat :=
  let sc := if spec / 256 % 2 = 1 then spec / 65536 % 256 else blockScale f vs
  (((upto vs.length).zip vs).foldl (fun b (i, v) =>
      putField b f.width i (roundTo (v.scale (127 - (sc : Int))) f rm 0 sat false).1) 0#512, code + 256 * sc)

/-- A block and its tag written: the payload's line and the tag block's. -/
def State.putBlock (s : State) (o : Op) (h g b tag : Nat) (bits : BitVec 512) (k : State → State) : State :=
  let d := (s.head o.core h).desc
  s.accessing o (BitVec.ofNat 57 (blockVa d g b)) true fun q s =>
    let tp : Place := { q with addr := q.addr - 64 * b }
    k (((s.countAccess o.tenant (BitVec.ofNat 57 (blockVa d g 0)) tp (dieOf o.core)).writePlace q (bitsLine bits)).writePlace tp
      (retag (s.readPlace tp 64) b tag))

/-- A write has performed: the blocks that heads of the core staged of the tape are fetched again (07 R146). -/
def State.dropStages (s : State) (k desc : Nat) : State :=
  (upto 16).foldl (fun s g =>
    if (s.head k g).descVa = desc && !(s.head k g).stage.isEmpty then s.modHead k g fun y => { y with stage := [] } else s) s

/-- The block after the ones that hold offsets 0 to o − 1 of a ring group, found by a walk of the group's tags from block 1
(07 R133); or the walk's fault, or reason 4 when o falls inside a block. -/
def State.ringBlock (s : State) (t : BitVec 16) (d : Desc) (g o : Nat) (bs : List Byte) : Except Meet Nat :=
  if o = 0 then .ok 1
  else
    let found := locBlock bs payload (o - 1)
    match s.walkZero t d false (blocksTo 31 (g, 1) (g, match found with | some (b, _) => b | none => 32)), found with
    | some m, _ => .error m
    | none, some (b, r) => if r + 1 = tagCount (tagOf bs b) then .ok (b + 1) else .error (.fault cHeadFormat 4 0)
    | none, none => .error (.fault cHeadFormat 4 0)

/-- The block that an APPEND at position p writes: its group and number, or what its walk finds, the reason 4 faults among
them (07 R133, R140). Its group's tag block is read, to be written again with the new tag. A reason 4 that no block of the
group belongs to (a refused format, an offset inside a block, a position below the sink) has BLOCK 0: DESIGN CHOICE (log 13). -/
def State.appendAt (s : State) (t : BitVec 16) (d : Desc) (p c : Nat) : Except Meet (Nat × Nat) :=
  let entered (g : Nat) (k : List Byte → Except Meet (Nat × Nat)) : Except Meet (Nat × Nat) :=
    match s.enterGroup t d g, s.tags t d g with
    | some m, _ => .error m
    | none, some bs => k bs
    | none, none => .error (.missing (blockVa d g 0))
  if d.kind = 2 then
    match s.sinkCount t d with
    | .error r => .error r.meet
    | .ok se =>
      let (g, o) := ringAt d se p
      if p < se then .error (.fault cHeadFormat 4 0)
      else entered g fun bs =>
        match s.ringBlock t d g o bs with
        | .error m => .error m
        | .ok b => if 31 < b || d.gelem < o + c then .error (.fault cHeadFormat 4 (Nat.min b 31)) else .ok (g, b)
  else if p = 0 then entered 0 fun _ => .ok (0, 1)
  else match s.locate t d (p - 1) with
    | .at_ g b _ => let n := nextBlock (g, b); entered n.1 fun _ => .ok n
    | .stop r => .error r.meet
    | .beyond => .error (.fault cHeadRange 0 0)

/-- HEAD_WRITE_PERFORM: one block with its tag; an APPEND's ECOUNT last. -/
def State.writeStep (s : State) (o : Op) (h pos n src spec fmt : Nat) (bk : Bool) (mode : Nat) (sat : Bool) (rm : Nat) : State :=
  let k := o.core
  let x := s.head k h
  let t := s.headTenant x
  let p := if bk then pos - o.prog else pos + o.prog
  let w := codeWidth fmt
  let vals (c : Nat) : List ExactNum := (upto c).map fun i => (s.core k).slotValue src fmt (o.prog + i)
  let blocked (c : Nat) : Bool := s.readBlocked k o.id ⟨(src + o.prog * w / 8) % spSize, bytesFor c w⟩
  let advance (c : Nat) (s : State) : State :=
    let prog := o.prog + c
    let s := s.dropStages k x.descVa
    if prog = n && mode != 2 then s.headDone k h o.id
    else s.setOp { o with prog := prog
                          reads := if prog = n then [] else [⟨(src + prog * w / 8) % spSize, bytesFor n w - prog * w / 8⟩] }
  if o.prog = n then
    if mode != 2 || n = 0 then s.headDone k h o.id
    else s.accessing o (descLine x.descVa) true fun q s =>
      let at_ : Place := { q with addr := q.addr + 32 }
      (s.writePlace at_ (leBytes 6 (leNat (s.readPlace at_ 6) + n))).headDone k h o.id
  else if mode = 2 then
    match Fmt.ofCode (spec % 256) with
    | none => s.headFault o h cHeadFormat 4 0 p
    | some f =>
      let c := formatCount (spec % 256)
      match if 0x33 < spec % 256 then Except.error (.fault cHeadFormat 4 0) else s.appendAt t x.desc p c with
      | .error m => s.meetFault o h p m
      | .ok (g, b) =>
        if blocked c then s
        else
          let (bits, tag) := newBlock f (spec % 256) spec rm sat (vals c)
          s.putBlock o h g b tag bits (advance c)
  else match if bk then s.meetBackward t x.desc (mode = 0) pos p else s.meetForward t x.desc (mode = 0) pos p with
    | .elem g b off tag =>
      let code := tag % 256
      if mode = 1 then
        match Fmt.ofCode (spec % 256) with
        | none => s.headFault o h cHeadFormat 4 b p
        | some f =>
          let c := tagCount tag
          if 0x33 < spec % 256 || formatCount (spec % 256) != c then s.headFault o h cHeadFormat 4 b p
          else if blocked c then s
          else
            let (bits, tag') := newBlock f (spec % 256) spec rm sat (if bk then (vals c).reverse else vals c)
            s.putBlock o h g b tag' bits (advance c)
      else
        let c := Nat.min (n - o.prog) (if bk then off + 1 else tagCount tag - off)
        if code = 0xFF then s.headFault o h cHeadUe 0 b p
        else match Fmt.ofCode code with
          | none => s.headFault o h cHeadFormat 4 b p
          | some f =>
            if blocked c then s
            else s.accessing o (BitVec.ofNat 57 (blockVa x.desc g b)) true fun q s =>
              if s.badPlace q then (s.modHead k h fun x => { x with poison := true }).headFault o h cHeadUe 0 b p
              else
                let old := lineBits (s.readPlace q 64)
                let new := ((upto c).zip (vals c)).foldl (fun m (i, v) =>
                  putField m f.width (if bk then off - i else off + i)
                    (roundTo (v.scale (127 - (tag / 256 : Nat) : Int)) f rm 0 sat false).1) old
                advance c (s.writePlace q (bitsLine new))
    | m => s.meetFault o h p m

/-- The row of the table. -/
def execHeadWritePerform (op : Nat) (s : State) : Out :=
  .next (match s.op op with
    | some o =>
      match o.kind with
      | .hwrite h pos n src spec fmt bk mode sat rm =>
        if s.headFront o h then s.writeStep o h pos n src spec fmt bk mode sat rm else s
      | _ => s
    | none => s)

/-! ### HPOS and HCLOSE -/

/-- HPOS_COMPLETE, 21 R304. -/
def execHposComplete (op : Nat) (s : State) : Out :=
  .next (match s.op op with
    | some o =>
      match o.kind with
      | .hpos h pos =>
        if s.headFront o h then (s.deliver o.owner o.dest (.word (BitVec.ofNat 64 pos))).headDone o.core h op else s
      | _ => s
    | none => s)

/-- A head becomes free; its prefetch depth stays. -/
def Head.freed (x : Head) : Head := { depth := x.depth, wmk := x.wmk, poison := x.poison }

/-- HEAD_CLOSE_COMPLETE, 07 R141: WCLAIM ← 0 when the head holds the claim, and the head is free. -/
def execHeadCloseComplete (op : Nat) (s : State) : Out :=
  .next (match s.op op with
    | some o =>
      match o.kind with
      | .hclose h =>
        let x := s.head o.core h
        let free (s : State) : State := (s.modHead o.core h (·.freed)).endOp op
        if !s.headFront o h then s
        else if x.mode = 1 then free s
        else s.accessing o (descLine x.descVa) true fun p s =>
          free (s.writePlace { p with addr := p.addr + 40 } (List.replicate 8 0#8))
      | _ => s
    | none => s)

end Sys2Proof.Machine
end

