-- ==== Sys2Proof/Machine/Matrix.lean ====
section
/-! DEFINITION. The matrix engine: exact row arithmetic (05 R102 to R105, 11 R193), the commands of the M slot but DPLOAD
(11 R184 to R204, 21 R312, R313), floors and deals (R192), retirement (R203) and the steps of the engine. -/

namespace Sys2Proof.Machine

/-! ### The configuration word -/

def mcBfmt (w : Word) : Nat := (w.extractLsb' 0 8).toNat
def mcAfmt (w : Word) : Nat := (w.extractLsb' 8 8).toNat
def mcSparse (w : Word) : Nat := (w.extractLsb' 16 2).toNat
def mcFreq (w : Word) : BitVec 4 := w.extractLsb' 18 4
def mcStrict (w : Word) : Bool := w.getLsbD 22
def mcKunits (w : Word) : Nat := (w.extractLsb' 24 12).toNat

/-- The K positions of an MMAC. -/
def mcKs (w : Word) : Nat := 64 * mcKunits w

/-- The formats that the engine accepts, 11 Table 11-2. -/
def engineFormat (c : Nat) : Bool := c < 0x20 && c % 8 != 0 || 0x20 ≤ c && c ≤ 0x23 || c == 0x30 || c == 0x31

/-- p_A, the cycles of a row pass. -/
def passCycles (c : Nat) : Nat :=
  if c < 0x20 then Nat.max 2 (c % 8)
  else match c with
  | 0x20 => 2
  | 0x21 => 4
  | 0x31 => 11
  | _ => 8

/-- Whether an MCFG word is accepted, 11 Table 11-1. DESIGN CHOICE (log 21): a nonzero reserved bit, [23] or [63:36], breaks
the table too, and the word is refused. -/
def mcfgOk (w : Word) : Bool :=
  engineFormat (mcBfmt w) && engineFormat (mcAfmt w) && mcSparse w != 3 && mcFreq w != 0#4 && w.getLsbD 23 == false
  && w.extractLsb' 36 28 == 0#28 && 1 ≤ mcKunits w && mcKunits w ≤ (if mcSparse w = 1 then 64 else 32)

/-! ### Floors, 11 R192 -/

/-- A throttle of a floor die: tower, floor, and thermal or power. -/
def State.throttled (s : State) (tower floor : Nat) (power : Bool) : Bool :=
  s.throttles.getLsbD (tower * 8 + floor * 2 + if power then 1 else 0)

/-- The available slabs of a core. -/
def State.availFloors (s : State) (k : Nat) : BitVec 4 :=
  [0, 1, 2, 3].foldl (fun m f =>
    if (s.core k).failed.getLsbD f || s.throttled (k / 64) f false || s.throttled (k / 64) f true then m
    else m ||| BitVec.twoPow 4 f) 0#4

/-- Why floors take no part: [0] thermal, [1] power, [2] fault, [3] request. DESIGN CHOICE (log 21): a floor that FREQ leaves out
counts as request alone, failed or throttled too. -/
def State.skipReasons (s : State) (k : Nat) (freq : BitVec 4) : BitVec 4 :=
  [0, 1, 2, 3].foldl (fun m f =>
    m ||| (if !freq.getLsbD f then 8#4
      else (if s.throttled (k / 64) f false then 1#4 else 0#4) ||| (if s.throttled (k / 64) f true then 2#4 else 0#4)
        ||| (if (s.core k).failed.getLsbD f then 4#4 else 0#4))) 0#4

/-- The deal of n slices over live floors. -/
def dealOf (live : BitVec 4) (n : Nat) : List Nat :=
  let fs := floorsOf live
  (upto n).map fun j => nth 0 fs (j % fs.length)

/-- The floors that hold a slice. -/
def maskOfFloors (l : List Nat) : BitVec 4 := l.foldl (fun m f => m ||| BitVec.twoPow 4 f) 0#4

/-- The floors used by a stage (11 R193). -/
def Stage.used (t : Stage) : BitVec 4 := maskOfFloors t.deal

/-- XINFO of matrix faults, 11 Table 11-6. -/
def State.matrixInfo (s : State) (k reason : Nat) (set : Bool) (row : Nat) : Word :=
  (0#47 ++ BitVec.ofNat 8 row ++ BitVec.ofBool set ++ s.availFloors k ++ BitVec.ofNat 4 reason : BitVec 64)

/-! ### Row arithmetic -/

/-- What happened to an element: [0] overflow, [1] NaN, [2] flush, [3] scale-NaN, in the order of MXCNT. -/
abbrev Events := BitVec 4

/-- The class of one product, 05 R102. -/
def product (a b : ExactNum) (sa sb : Byte) : ExactNum × Events :=
  if sa = 0xFF#8 || sb = 0xFF#8 then (.nan, 8#4)
  else match (a.mul b).1 with
    | .nan => (.nan, 2#4)
    | .inf n => (.inf n, 0#4)
    | .fin n m e _ =>
      let e := e + (sa.toNat - 127) + (sb.toNat - 127)
      if m = 0 then (.zero n, 0#4)
      else if 128 ≤ ilog m e then (.inf n, 1#4)
      else if ilog m e < -149 then (.zero n, 4#4)
      else (.fin n m e false, 0#4)

/-- The f32 code of a value, rounded to nearest even, and whether the rounding overflowed. -/
def roundF32 (v : ExactNum) : Lane × Events :=
  let (y, g) := f32.round v 0 0 false false
  (BitVec.ofNat 32 y, if g &&& fOF != 0#5 then 1#4 else 0#4)

/-- The floor partial of one output element, 05 R103. -/
def partialOf (l : List (ExactNum × Events)) : Lane × Events :=
  let ev := l.foldl (fun e x => e ||| x.2) 0#4
  let vs := l.map (·.1)
  let pos := vs.contains (.inf false)
  let neg := vs.contains (.inf true)
  if vs.contains .nan then (qnan, ev)
  else if pos && neg then (qnan, ev ||| 2#4)
  else if pos then (0x7F800000#32, ev)
  else if neg then (0xFF800000#32, ev)
  else
    let nz := vs.filterMap fun v => match v with
      | .fin _ m e _ => if m = 0 then none else some (ilog m e, v)
      | _ => none
    match nz with
    | [] => (0#32, ev)
    | (k, _) :: _ =>
      let emax := nz.foldl (fun m x => max m x.1) k
      let sum := nz.foldl (fun a x => if emax - 60 ≤ x.1 then (a.add 0 x.2).1 else a) (ExactNum.zero false)
      let (y, o) := roundF32 sum
      (y, ev ||| o)

/-- An f32 addition of the engine, 05 R104: overflow from finite operands, and NaN from operands that are none, are
events. -/
def addF32 (a b : Lane) : Lane × Events :=
  let (v, _) := (rd false a).add 0 (rd false b)
  let (y, o) := roundF32 v
  (y, if isNan32 y && !isNan32 a && !isNan32 b then 2#4 else o)

/-- An element of an A row: its value and the scale of its chunk; none where mode S zeroes it. -/
def CoreSt.aElem (c : CoreSt) (m : Mmac) (row k : Nat) : Option (ExactNum × Byte) :=
  match Fmt.ofCode m.afmt with
  | none => none
  | some f =>
    let w := f.width
    let t := (m.stage.ks * w / 8 + 63) / 64 * 64
    let a := m.abase + row * t + k * w / 8
    let x := if w = 4 then (c.spByte a).toNat / (if k % 2 = 1 then 16 else 1) % 16 else c.spNat a (w / 8)
    if m.stage.mode = 2 && m.zeroed.getLsbD (k / 64) then none
    else some (f.dec x, c.spByte (m.ascale + row * (t / 64) + k * w / 8 / 64))

/-- What a plane holds for one physical row of a column: the cell, its scale, and the metadata of its group of four rows
(11 R186, R188). -/
structure PlaneCell where
  cell : BitVec 16 := 0
  scale : Byte := 0
  meta_ : BitVec 4 := 0

/-- One physical row of a floor, by column. -/
def Planes.row (p : Planes) (floor i : Nat) : List PlaneCell :=
  let scales := (mrun 0#8 p.scale (scaleKey floor i 0) 16).flatMap (List.replicate 32)
  let metas := mrun 0#4 p.meta_ (metaKey floor (i / 2) 0) 512
  List.zipWith (fun (x : BitVec 16) (y : Byte × BitVec 4) => ⟨x, y.1, y.2⟩) (mrun 0#16 p.cell (cellKey floor i 0) 512)
    (scales.zip metas)

/-- The columns of a list of rows of 512. -/
def columns : List (List PlaneCell) → List (List PlaneCell)
  | [] => List.replicate 512 []
  | r :: rs => List.zipWith (fun x c => x :: c) r (columns rs)

/-- The columns of slice j of a stage over the physical rows that hold positions. -/
def CoreSt.sliceColumns (c : CoreSt) (t : Stage) (j : Nat) : List (List PlaneCell) :=
  let rows := Nat.min 512 ((if t.mode = 1 then t.ks / 2 else t.ks) - 512 * j)
  columns ((upto rows).map ((c.plane (t.planeOf j)).row (t.floor j)))

/-- The A element that meets physical row i of slice j in mode W. -/
def pairPos (j i : Nat) (x : PlaneCell) : Nat :=
  1024 * j + 4 * (i / 2) + if i % 2 = 0 then x.meta_.toNat % 4 else x.meta_.toNat / 4

/-- The products of a column of slice j, over its physical rows. -/
def sliceProducts (t : Stage) (a : List (Option (ExactNum × Byte))) (j : Nat) (col : List PlaneCell) : List (ExactNum × Events) :=
  let dec (x : BitVec 16) : ExactNum := match Fmt.ofCode t.bfmt with
    | some g => g.dec x.toNat
    | none => .zero false
  let meet (x : PlaneCell) (y : Option (ExactNum × Byte)) : Option (ExactNum × Events) :=
    y.map fun (v, sa) => product v (dec x.cell) sa x.scale
  if t.mode = 1 then ((upto col.length).zip col).filterMap fun (i, x) => meet x (nth none a (pairPos j i x))
  else (col.zip (a.drop (512 * j))).filterMap fun (x, y) => meet x y

/-- The slices of a pass, from the highest floor down (11 R193). -/
def Stage.passSlices (t : Stage) (p : Nat) : List Nat :=
  let js := (upto t.deal.length).filter fun j => t.passOf j = p
  [3, 2, 1, 0].filterMap fun f => js.find? fun j => t.floor j = f

/-- PassSum(r, p, n) of 11 R200. -/
def passSum (t : Stage) (l : List (List PlaneCell)) (a : List (Option (ExactNum × Byte))) (p : Nat) : Lane × Events :=
  match (t.passSlices p).map fun j => partialOf (sliceProducts t a j (nth [] l j)) with
  | [] => (0#32, 0#4)
  | x :: xs => xs.foldl (fun s y => let (v, e) := addF32 s.1 y.1; (v, s.2 ||| y.2 ||| e)) x

/-- One element of a row, from its column of every slice: every pass added to the accumulator, with the events of the element. -/
def accElem (t : Stage) (a : List (Option (ExactNum × Byte))) (acc : Lane) (l : List (List PlaneCell)) : Lane × Events :=
  (upto t.passes).foldl (fun s p =>
    let (v, e) := passSum t l a p
    let (w, g) := addF32 s.1 v
    (w, s.2 ||| e ||| g)) (acc, 0#4)

/-- A 16-bit count that holds at 0xFFFF. -/
def satAdd16 (a : BitVec 16) (n : Nat) : BitVec 16 := if 0xFFFF < a.toNat + n then 0xFFFF#16 else a + BitVec.ofNat 16 n

/-- MXCNT's four counts with one added for each element in which an event of its kind occurred (05 R105). -/
def countEvents (w : Word) (l : List Events) : Word :=
  let n (i : Nat) : Nat := (l.filter fun e => e.getLsbD i).length
  satAdd16 (w.extractLsb' 48 16) (n 3) ++ satAdd16 (w.extractLsb' 32 16) (n 2) ++ satAdd16 (w.extractLsb' 16 16) (n 1)
    ++ satAdd16 (w.extractLsb' 0 16) (n 0)

/-- Two words of counts added. -/
def addCounts (a b : Word) : Word :=
  let n (i : Nat) : Nat := (b.extractLsb' i 16).toNat
  satAdd16 (a.extractLsb' 48 16) (n 48) ++ satAdd16 (a.extractLsb' 32 16) (n 32) ++ satAdd16 (a.extractLsb' 16 16) (n 16)
    ++ satAdd16 (a.extractLsb' 0 16) (n 0)

/-! ### Sets and reductions -/

/-- The number of a set. -/
def setNo (b : Bool) : Nat := if b then 1 else 0

/-- An accumulator set of a core. -/
def CoreSt.set (c : CoreSt) (b : Bool) : AccSet := mget {} c.sets (setNo b)
/-- The core with a set changed. -/
def CoreSt.modSet (c : CoreSt) (b : Bool) (f : AccSet → AccSet) : CoreSt := { c with sets := mset {} c.sets (setNo b) (f (c.set b)) }

/-- The open reduction of a strand on a set (11 R203: one whose Retire has been accepted counts as closed). -/
def AccSet.openBy (a : AccSet) (i : StrandId) : Option Reduction := a.reds.find? fun r => !r.closed && r.owner == i

/-- The set with a reduction changed. -/
def AccSet.modRed (a : AccSet) (n : Nat) (f : Reduction → Reduction) : AccSet :=
  { a with reds := a.reds.map fun r => if r.id = n then f r else r }

/-- A reduction of a set. -/
def AccSet.red (a : AccSet) (n : Nat) : Option Reduction := a.reds.find? fun r => r.id == n

/-- The drain that stands stopped on a set. -/
def State.stoppedDrain (s : State) (k : Nat) (b : Bool) : Option Op :=
  s.ops.find? fun o => o.core == k && (match o.kind with | .drain d => d.set == b && d.stopped | _ => false)

/-- An MMAC of a reduction is outstanding. -/
def State.mmacsOf (s : State) (k red : Nat) : List Op :=
  s.ops.filter fun o => o.core == k && (match o.kind with | .mmac m => m.red == red | _ => false)

/-- The engine is free when no reduction is left and no drain of its sets is outstanding (11 R202). -/
def State.releaseEngine (s : State) (k : Nat) : State :=
  let busy := !((s.core k).set false).reds.isEmpty || !((s.core k).set true).reds.isEmpty
    || s.ops.any fun o => o.core == k && (match o.kind with | .drain _ => true | _ => false)
  if busy then s else s.modCore k fun c => { c with engine := none, fetchEnd := 0 }

/-- The micro-operations of a program, before its first DEND. -/
def drainWords (p : DrainProg) : List Instr :=
  (p.code.map fun w => decodeDrain (w.setWidth 24)).foldr (fun r l => match r with
    | .ok .dend => []
    | .ok i => i :: l
    | .error _ => l) []

/-- A constant's low 22 bits. -/
def DrainProg.addr (p : DrainProg) (k : Nat) : Nat := (nth 0#32 p.consts k).toNat % spSize

/-- A format constant names a 16-bit format. -/
def DrainProg.wide (p : DrainProg) (k : Nat) : Bool := 0x30 ≤ (nth 0#32 p.consts k).toNat % 256

/-- The ranges that a drain of rmax rows still writes from a cursor on (06 Table 6-5, 12 R215): from the least byte that what
is left stores, in this row or in a later one, to the last row's end, below the end of scratchpad, beyond which no store
performs (12 R213). -/
def drainRanges (p : DrainProg) (rmax row group : Nat) : List Range :=
  if rmax ≤ row then []
  else (drainWords p).filterMap fun i => match i with
    | .dsto _ k skew sz =>
      let base := p.addr k.toNat
      let stride := p.addr (k.toNat + 1)
      let size := 2 ^ (2 - sz.toNat)
      let last := if skew then (rmax - 1) / 64 * stride + 8 * 16384 else (rmax - 1) * stride + 512 * size
      let here := if skew then row / 64 * stride + 256 * (row % 64) else row * stride + 64 * group * size
      let next := if skew then (row / 64 + 1) * stride else (row + 1) * stride
      let more := if skew then (row / 64 + 1) * 64 < rmax else row + 1 < rmax
      let done := if more then Nat.min here next else here
      some ⟨base + done, Nat.min (last - done) (spSize - (base + done))⟩
    | .dqnt o =>
      let nb := if p.wide o.k.toNat then 16 else 8
      let base := p.addr (o.k.toNat + 1) + row * nb
      some ⟨base, Nat.min ((rmax - row) * nb) (spSize - base)⟩
    | _ => none

/-- The write ranges of a drain of program `prog` that is to start after the commands accepted so far: all of scratchpad
while a DPLOAD of the program is outstanding. -/
def State.drainWrites (s : State) (k prog rmax : Nat) : List Range :=
  if s.ops.any fun o => o.core == k && (match o.kind with | .dpload p _ _ => p == prog | _ => false) then [⟨0, spSize⟩]
  else drainRanges (mget {} (s.core k).progs prog) rmax 0 0

/-- The outstanding DPLOADs of a program on a core. -/
def State.loadsOfProg (s : State) (k prog : Nat) : List Nat :=
  (s.ops.filter fun q => q.core == k && (match q.kind with | .dpload n _ _ => n == prog | _ => false)).map (·.id)

/-- The running drains of a core: those whose Retire has started, up to one that stands stopped (12 R209), or that an MRET behind
operation n resumes (log 22). -/
def State.runningOps (s : State) (k n : Nat) : List Op :=
  ((s.core k).drains.filterMap s.op).takeWhile fun o => !o.kind.standsStopped && !o.waits.contains n

/-- What they are. -/
def State.runningDrains (s : State) (k n : Nat) : List Drain :=
  (s.runningOps k n).filterMap fun o => match o.kind with
    | .drain d => some d
    | _ => none

/-- Ranges of outstanding drains that use a program as the program now gives them, but for those that follow another DPLOAD
of it. -/
def State.exactDrains (s : State) (k prog : Nat) : State :=
  let p := mget {} (s.core k).progs prog
  let loads := s.loadsOfProg k prog
  { s with ops := s.ops.map fun o =>
      if o.core != k || loads.any (· < o.id) then o
      else match o.kind with
        | .drain d => if d.prog = prog then { o with writes := drainRanges p d.rmax (o.prog / 8) (o.prog % 8) } else o
        | .mmac m => if m.last && m.prog = prog then { o with writes := drainRanges p 256 0 0 } else o
        | _ => o }

/-- An outstanding DPLOAD of its program may end before a drain runs: it does not wait for the drain, whose Retire has started
behind a drain that stands stopped (12 R209). -/
def State.mayReload (s : State) (k prog n : Nat) : Bool :=
  (s.core k).drains.contains n && (s.loadsOfProg k prog).any fun q => !(s.runningOps k q).any (·.id == n)

/-- The ranges of the drains that use a program (12 R215): what the program as it stands can reach, and all of scratchpad where a
DPLOAD may change it first. -/
def State.reviseDrains (s : State) (k prog : Nat) : State :=
  let t := s.exactDrains k prog
  { t with ops := t.ops.map fun o => match o.kind with
      | .drain d => if o.core == k && d.prog == prog && s.mayReload k prog o.id then { o with writes := [⟨0, spSize⟩] } else o
      | _ => o }

/-- Those of the drains whose programs have outstanding DPLOADs. -/
def State.reviseLoads (s : State) (k : Nat) : State :=
  (s.ops.filterMap fun q => match q.kind with
    | .dpload n _ _ => if q.core = k then some n else none
    | _ => none).eraseDups.foldl (fun s p => s.reviseDrains k p) s

/-- A stopped drain leaves, abandoned by an MMAC with FIRST on its set (12 R219). -/
def State.abandonDrain (s : State) (k n : Nat) : State :=
  ((s.endOp n).modCore k fun c => { c with drains := c.drains.filter (· != n) }).reviseLoads k

/-! ### Retirement, 11 R203 -/

/-- The report card, 11 Table 11-5. -/
def reportCard (r : Reduction) (seq : BitVec 16) : Word :=
  let reason : BitVec 3 :=
    if r.reasons.getLsbD 2 then 3#3 else if r.reasons.getLsbD 0 then 1#3 else if r.reasons.getLsbD 1 then 2#3
    else if r.reasons.getLsbD 3 then 4#3 else 0#3
  seq ++ BitVec.ofNat 16 r.rmax ++ reason ++ BitVec.ofBool r.skipped ++ 1#4 ++ BitVec.ofNat 12 r.kpass ++ BitVec.ofNat 4 r.passes
    ++ r.req ++ r.used

/-- A command of the matrix engine or a load of its drain store, which the engine takes in issue order (11 R183). -/
def OpKind.isMatrix : OpKind → Bool
  | .mldb .. | .mldh .. | .mmac _ | .mswap | .dpload .. | .drain _ => true
  | _ => false

/-- Steps 1, 2 and 4 of Retire for reduction n of a set, and its drain, operation `d`, comes to the end of the core's
drains; the engine's commands behind it wait for it no longer. -/
def State.retire (s : State) (k : Nat) (b : Bool) (n d : Nat) : State :=
  match ((s.core k).set b).red n with
  | none => s
  | some r =>
    let s := s.modCore k fun c =>
      { c.modSet b (fun a => { a with reds := a.reds.filter fun x => x.id != n }) with
        retires := c.retires + 1#16, drains := c.drains ++ [d] }
    let nan := match s.ctxOf r.owner with
      | some c => (s.ctx c).sr.fctl.getLsbD 0
      | none => false
    let s := match s.ctxOf r.owner with
      | some c => s.modCtx c fun x =>
        { x with sr := { x.sr with mxcnt := addCounts x.sr.mxcnt r.shadow, rcard := reportCard r (s.core k).retires } }
      | none => s
    match s.op d with
    | some o =>
      match o.kind with
      | .drain e => ((s.setOp { o with kind := .drain { e with rmax := r.rmax, nanStop := nan, clear := r.clear }
                                       writes := drainRanges (mget {} (s.core k).progs e.prog) r.rmax 0 0 }).unwait d
          (·.isMatrix)).reviseLoads k
      | _ => s
    | none => s

/-- A new drain operation of a strand. -/
def State.addDrain (s : State) (k : Nat) (i : StrandId) (waits : List Nat) (e : Drain) : State :=
  s.addOp { id := 0, core := k, owner := i, tenant := s.tenantOf i, domains := 64#7, waits := waits
            writes := s.drainWrites k e.prog e.rmax, kind := .drain e }

/-- The owner of an accepted MMAC lets it run: it is Resident and not stopped but for a pre-emption, or it has exited
(03 R58, 09 R168). -/
def State.engineRuns (s : State) (i : StrandId) : Bool :=
  match s.ctxOf i with
  | some c => (match (s.ctx c).stop with | some r => r.reason == 0 || r.reason == 3 | none => true)
  | none => s.hasExited i

/-- The drain of an accepted MRET whose Retire has not started. -/
def State.unretired (s : State) (o : Op) : Bool :=
  match o.kind with
  | .drain d => !d.stopped && !(s.core o.core).drains.contains o.id
  | _ => false

/-- The Retire of an accepted MRET may start: the engine's commands before it have been executed (11 R183), and its owner,
whose special registers it reads and writes (R203), is not saved (log 21). -/
def State.mayRetire (s : State) (o : Op) : Bool :=
  s.unretired o && s.engineRuns o.owner && !s.ops.any fun p => o.waits.contains p.id && p.kind.isMatrix

/-- The Retire of an accepted MRET starts. Where the MMAC that was to open the reduction has been dropped (R182) there is none:
the MRET leaves, and its issuer is owed reason 0 (log 21). -/
def State.startRetire (s : State) (o : Op) (d : Drain) : State :=
  match ((s.core o.core).set d.set).reds.find? fun r => r.retire == some o.id with
  | some r => s.retire o.core d.set r.id o.id
  | none => ((s.endOp o.id).owe o.owner ⟨cMatrixBusy, s.matrixInfo o.core 0 d.set 0⟩).releaseEngine o.core

/-! ### Commands -/

/-- Accepted M-slot commands that have not begun (11 R183). -/
def State.matrixQueued (s : State) (k : Nat) : Nat :=
  (s.ops.filter fun o => o.core == k && (match o.kind with
    | .mldb .. | .mldh .. | .mmac _ | .dpload .. => o.prog == 0
    | .mswap => !s.performed o.waits
    | .drain _ => s.unretired o || !s.performed o.waits
    | _ => false)).length

/-- An M-slot command: it yields while another strand owns the engine, and while four accepted commands have not begun
(11 R202, 21 R312). -/
def State.matrixCommand (s : State) (srcs : List Source) (k : State → State) : State :=
  match (s.core s.curCore).engine with
  | some i => if i != s.curStrand || 4 ≤ s.matrixQueued s.curCore then s.yields else s.reading srcs k
  | none => if 4 ≤ s.matrixQueued s.curCore then s.yields else s.reading srcs k

/-- A matrix fault at the slot that runs. -/
def State.matrixTrap (s : State) (cause : BitVec 8) (reason : Nat) (set : Bool) : State :=
  s.trap cause (s.matrixInfo s.curCore reason set 0)

/-- What a command of the engine accepted now follows in issue order (11 R183): the outstanding commands that a predicate
picks, an MRET whose Retire has not started, and what an MRET that resumes a drain follows itself. -/
def State.matrixOps (s : State) (k : Nat) (p : OpKind → Bool) : List Nat :=
  (s.ops.filter fun o => o.core == k && (p o.kind || s.unretired o)).map (·.id)
  ++ (s.ops.filter fun o => o.core == k && (match o.kind with | .drain _ => true | _ => false)).flatMap fun o =>
      o.waits.filter fun n => s.ops.any fun q => q.id == n && q.kind.isMatrix

/-- An accepted M-slot command. -/
def State.matrixOp (s : State) (reads : List Range) (waits : List Nat) (kind : OpKind) : State :=
  let i := s.curStrand
  s.addOp { id := 0, core := s.curCore, owner := i, tenant := s.tenantOf i, domains := 64#7, reads := reads,
            waits := waits ++ s.poWaits i true, kind := kind }

/-- MCFG, 11 R184. -/
def execMcfg (a : Src) (s : State) : Out :=
  .next (s.matrixCommand [srcOf a 0] fun s =>
    let w := s.sVal a
    if mcfgOk w then s.modCore s.curCore fun c => { c with mcfg := w, mcfgSet := true }
    else s.matrixTrap cMatrixBusy 2 false)

/-- MSPC, 11 R191. -/
def execMspc (a : Src) (s : State) : Out :=
  .next (s.matrixCommand [srcOf a 0] fun s =>
    let w := s.sVal a
    if w.toNat % 2 = 1 || s.cur.kernel.idxlen.toNat < w.toNat + 2 then s.matrixTrap cMatrixBusy 5 false
    else s.modCur fun x => { x with sr := { x.sr with mdpc := w } })

/-- The shadow stage's new record; its load makes the stages invalid whose planes it writes (11 R182, R192). -/
def CoreSt.beginLoad (c : CoreSt) (t : Stage) (zeroes : BitVec 4) : CoreSt :=
  let pass0 := maskOfFloors ((upto t.deal.length).filterMap fun j => if t.passOf j = 0 then some (t.floor j) else none) ||| zeroes
  let hit := t.passes = 2 || c.stageA.occupies t.phys pass0
  { c with stageS := t, stageA := if hit then { c.stageA with valid := false, loading := false, failed := false } else c.stageA }

/-- The deal of a load at issue and its checks (11 R192, R195): FLOOR_UNAVAIL 0 or 1, or the stage's record. -/
def State.dealing (s : State) (ks mode : Nat) (k : Stage → State → State) : State :=
  let c := s.core s.curCore
  let w := c.mcfg
  let avail := s.availFloors s.curCore
  let live := mcFreq w &&& avail
  let n := (ks + sliceK mode - 1) / sliceK mode
  let l := (floorsOf live).length
  if mcStrict w && live != mcFreq w then s.matrixTrap cFloorUnavail 0 false
  else if l = 0 || 2 * l < n then s.matrixTrap cFloorUnavail 1 false
  else k { id := s.nextOp, loading := true, bfmt := mcBfmt w, mode := mode, ks := ks, phys := !c.swapped, deal := dealOf live n
           live := live, freq := mcFreq w, reasons := s.skipReasons s.curCore (mcFreq w), job := s.curStrand.seq } s

/-- What a load waits for: the engine's earlier commands but its MMACs, beside which it runs where it shares no plane with them
(11 R183, R196). -/
def State.loadWaits (s : State) : List Nat :=
  s.matrixOps s.curCore fun k => match k with
    | .mldb .. | .mldh .. | .mswap | .dpload .. => true
    | _ => false

/-- MLDB, 11 R186, 21 Table 21-5. -/
def execMldb (head : BitVec 4) (lur : Bool) (s : State) : Out :=
  let _ := lur
  .next (s.matrixCommand [] fun s =>
    let w := (s.core s.curCore).mcfg
    if !(s.core s.curCore).mcfgSet then s.matrixTrap cMatrixBusy 2 false
    else s.headCommand head [] fun h s => s.owned h fun x s =>
      let n := if mcSparse w = 1 then 256 * mcKs w else 512 * mcKs w
      if x.mode = 2 then s.headTrap h cTapeWriter 2
      else s.ranged h (s.moveCheck x false n) fun s => s.dealing (mcKs w) (mcSparse w) fun t s =>
        let waits := s.tordWaits s.curCore x false x.pos (x.pos + n) ++ s.loadWaits
        (((s.modCore s.curCore fun c => c.beginLoad t 0#4).moveTo h (x.pos + n)).headOp 66#7 [] [] waits false none
          (.mldb h x.pos n t)).schedule x x.pos n)

/-- Whether a format holds −1. -/
def holdsMinusOne (c : Nat) : Bool :=
  match Fmt.ofCode c with
  | some f => f.dec (roundTo (.fin true 1 0 false) f 0 0 false false).1 == .fin true 1 0 false
      || (match f.dec (roundTo (.fin true 1 0 false) f 0 0 false false).1 with
          | .fin true m e _ => m == 2 ^ Nat.log2 m && ilog m e == 0
          | _ => false)
  | none => false

/-- MLDH, 11 R189. -/
def execMldh (a : Src) (s : State) : Out :=
  .next (s.matrixCommand [srcOf a 0] fun s =>
    let w := (s.core s.curCore).mcfg
    let n := (s.sVal a).toNat
    if !(s.core s.curCore).mcfgSet then s.matrixTrap cMatrixBusy 2 false
    else if mcSparse w != 0 || mcKunits w != 8 || !(n == 64 || n == 128 || n == 256 || n == 512)
        || !holdsMinusOne (mcBfmt w) then s.matrixTrap cMatrixBusy 5 false
    else s.dealing 512 0 fun t s =>
      (s.modCore s.curCore fun c => c.beginLoad t 15#4).matrixOp [] s.loadWaits (.mldh n t))

/-- MSWAP, 11 R190: the stages' records and the planes' names are exchanged; the operation keeps its place in the order. -/
def execMswap (s : State) : Out :=
  .next (s.matrixCommand [] fun s =>
    (s.modCore s.curCore fun c => { c with stageA := c.stageS, stageS := c.stageA, swapped := !c.swapped }).matrixOp []
      (s.matrixOps s.curCore fun k => match k with
        | .mldb .. | .mldh .. | .mmac _ | .mswap | .dpload .. => true
        | _ => false) .mswap)

/-- The row stride T of A in bytes (11 R198). -/
def rowStride (ks afmt : Nat) : Nat := (ks * codeWidth afmt / 8 + 63) / 64 * 64

/-- The ranges of A that an MMAC reads, row by row: the row and its scales. -/
def mmacReads (rows abase ascale ks afmt : Nat) : List Range :=
  let t := rowStride ks afmt
  (upto rows).flatMap fun r =>
    [⟨(abase + r * t) % spSize, ks * codeWidth afmt / 8⟩, ⟨(ascale + r * (t / 64)) % spSize, t / 64⟩]

/-- The fetch cycles that an outstanding MMAC has left (11 R201). -/
def mmacLeft (o : Op) : Nat :=
  match o.kind with
  | .mmac m => (m.rows - o.prog) * m.stage.passes * passCycles m.afmt
  | _ => 0

/-- The unfrozen cycle of the last accumulator write of an MMAC accepted now (11 R201): its fetches start after 40 cycles, or
after the fetches of the MMACs before it, whichever is later; those end at the cycle that R201 gives them, whenever their
rows perform, or later where rows that it has put behind this cycle are still to be fetched. -/
def State.fetchesEnd (s : State) (rows passes afmt : Nat) : Nat :=
  let c := s.core s.curCore
  let ahead := (s.ops.filter fun o => o.core == s.curCore).foldl (fun n o => n + mmacLeft o) 0
  Nat.max (Nat.max (c.ucycle + 40) c.fetchEnd) (c.ucycle + ahead) + rows * passes * passCycles afmt

/-- The estimate of 11 R204: the elapsed count at the last accumulator write of an MMAC accepted now. -/
def State.lastWriteAt (s : State) (elapsed rows passes afmt : Nat) : Nat :=
  elapsed + (s.fetchesEnd rows passes afmt - (s.core s.curCore).ucycle)

/-- MMAC, 11 R198 to R200: the checks in order, then acceptance. Above the watermark of a delivery into its first row, or the scales
of it, it yields (07 R142); one that reaches a later row so freezes the core (R201): DEDUCED (log 21). A stopped drain that FIRST abandons stays abandoned, also where
the MMAC is dropped later for a cancelled load (R182): DESIGN CHOICE (log 21). -/
def execMmac (o : MmacF) (s : State) : Out :=
  let src (r : BitVec 6) (f : Nat) : Source := ⟨sReg r, false, f⟩
  .next (s.matrixCommand [src o.rows 0, src o.abase 1, src o.ascale 2] fun s =>
    let k := s.curCore
    let c := s.core k
    let i := s.curStrand
    let w := c.mcfg
    let t := c.stageA
    let rows := (s.issue.regs.sGet o.rows).toNat
    let abase := ((s.issue.regs.sGet o.abase).extractLsb' 0 22).toNat
    let ascale := ((s.issue.regs.sGet o.ascale).extractLsb' 0 22).toNat
    let red := (c.set o.aset).openBy i
    let md := s.cur.sr.mdpc.toNat
    let at_ (n : Nat) : BitVec 16 := mget 0#16 c.index ((s.cur.kernel.idxbase.toNat + n) % 65536)
    let needed := maskOfFloors (dealOf t.freq t.deal.length)
    let reads := mmacReads rows abase ascale t.ks (mcAfmt w)
    let elapsed := match red with | some r => if o.first then 0 else r.elapsed | none => 0
    if !c.mcfgSet then s.matrixTrap cMatrixBusy 2 o.aset
    else if rows = 0 || 256 < rows || abase % 64 != 0 then s.matrixTrap cMatrixBusy 4 o.aset
    else if !(t.valid || t.loading || t.failed) || t.job != i.seq || t.bfmt != mcBfmt w || t.mode != mcSparse w || t.ks != mcKs w then
      s.matrixTrap cMatrixBusy 3 o.aset
    else if !o.first && red.isNone then s.matrixTrap cMatrixBusy 0 o.aset
    else if o.first && red.isSome then s.matrixTrap cMatrixBusy 1 o.aset
    else if t.mode = 2 && s.cur.kernel.idxlen.toNat ≤ md + 1 then s.matrixTrap cMatrixBusy 6 o.aset
    else if (mcStrict w || o.strict) && t.used != needed then s.matrixTrap cFloorUnavail 0 o.aset
    else if t.used &&& c.failed != 0#4 then s.matrixTrap cFloorUnavail 2 o.aset
    else if reads.any c.unsettled || (reads.take 2).any (s.aboveWatermark k) then s.yields
    else match reads.findSome? c.packedByte with
      | some p => s.trap cPackedRead (packedInfo 0 1 p)
      | none =>
        if s.issue.sr.redlim.toNat < s.lastWriteAt elapsed rows t.passes (mcAfmt w) then s.matrixTrap cReductionLimit 0 o.aset
        else
          let n := s.nextOp
          let m : Mmac :=
            { set := o.aset, first := o.first, last := o.last, rows := rows, abase := abase, ascale := ascale
              prog := o.dprog.toNat, rq := o.rq.toNat, afmt := mcAfmt w, stage := t
              zeroed := if t.mode = 2 then at_ (md + 1) ++ at_ md else 0#32
              red := match red with | some r => if o.first then n else r.id | none => n }
          let abandon := if o.first then s.stoppedDrain k o.aset else none
          let s := match abandon with
            | some d => s.abandonDrain k d.id
            | none => s
          let waits := s.matrixOps k fun x => match x with
            | .mmac _ | .mswap | .dpload .. => true
            | .mldb _ _ _ l | .mldh _ l => l.id == t.id
            | _ => false
          let fetched := s.fetchesEnd rows t.passes (mcAfmt w)
          let s := s.matrixOp reads waits (.mmac m)
          let s := s.modCore k fun c =>
            ({ c with fetchEnd := fetched, engine := some i } : CoreSt).modSet o.aset fun a =>
              let a := if o.first then { a with reds := a.reds ++ [{ id := n, owner := i }] } else a
              if o.last then a.modRed m.red fun r => { r with closed := true } else a
          let s := if o.last then
              match s.op n with
              | some p => s.setOp ({ p with writes := s.drainWrites k m.prog 256 } : Op)
              | none => s
            else s
          if t.mode = 2 then s.modCur fun x => { x with sr := { x.sr with mdpc := x.sr.mdpc + 2#64 } } else s)

/-- The commands that an MRET follows (11 R183, R203). -/
def State.earlierMatrix (s : State) (k : Nat) : List Nat :=
  s.matrixOps k fun x => match x with
    | .mldb .. | .mldh .. | .mmac _ | .mswap | .dpload .. => true
    | _ => false

/-- A stopped drain goes on as the drain of an MRET that issues now (12 R219): a new operation in its place. -/
def State.resumeDrain (s : State) (o : Op) (d : Drain) : State :=
  let n := s.nextOp
  let put (l : List Nat) : List Nat := l.map fun x => if x = o.id then n else x
  let writes :=
    if (s.drainWrites o.core d.prog d.rmax).any fun r => r.len = spSize then [⟨0, spSize⟩]
    else drainRanges (mget {} (s.core o.core).progs d.prog) d.rmax (o.prog / 8) (o.prog % 8)
  ((s.endOp o.id).modCore o.core fun c => { c with drains := put c.drains }).addOp
    { o with waits := s.earlierMatrix o.core ++ s.poWaits o.owner true, writes := writes, kind := .drain d }

/-- MRET, 21 R313. -/
def execMret (aset : Bool) (dprog : BitVec 6) (rq : BitVec 3) (s : State) : Out :=
  .next (s.matrixCommand [] fun s =>
    let k := s.curCore
    let i := s.curStrand
    match (s.stoppedDrain k aset).filter fun o => o.owner == i with
    | some o =>
      match o.kind with
      | .drain d =>
        s.resumeDrain o { d with prog := dprog.toNat, rq := rq.toNat, stopped := false, first := true }
      | _ => s
    | none =>
      match ((s.core k).set aset).openBy i with
      | none => s.matrixTrap cMatrixBusy 0 aset
      | some r =>
        let d := s.nextOp
        let e : Drain := { set := aset, prog := dprog.toNat, rq := rq.toNat, rmax := 256 }
        let s := s.addDrain k i (s.earlierMatrix k ++ s.poWaits i true) e
        let s := s.modCore k fun c => c.modSet aset fun a => a.modRed r.id fun r => { r with closed := true, retire := some d }
        match s.op d with
        | some o => if s.mayRetire o then s.startRetire o e else s
        | none => s)

/-! ### Steps of the engine -/

/-- MLDB_COMPLETE, 11 R182. -/
def execMldbComplete (op : Nat) (s : State) : Out :=
  .next (match s.op op with
    | some o =>
      match o.kind with
      | .mldb h _ n _ =>
        if s.headFront o h && o.prog == n then
          ((s.finishLoad o.core op).modHead o.core h fun x => { x with wmk := n }).headDone o.core h op
        else s
      | _ => s
    | none => s)

/-- The cell of MLDH's slice (11 R189): 1, −1 or 0. -/
def hadamard (m k j : Nat) : ExactNum :=
  if k / m = j / m then
    .fin ((upto 9).foldl (fun p i => p != ((k % m).testBit i && (j % m).testBit i)) false) 1 0 false
  else .zero false

/-- Planes with MLDH's slice on its floor, and zeros on the other floors. -/
def Planes.hadamard (p : Planes) (bfmt floor n : Nat) : Planes :=
  { p with
    cell := runEntries 0#16 (cellKey floor 0 0) ((upto 512).flatMap fun k => (upto 512).map fun j =>
      toPlane bfmt (Machine.hadamard n k j))
    scale := mputRun 0#8 p.scale (scaleKey floor 0 0) (List.replicate 8192 0x7F#8) }

/-- MLDH_COMPLETE, 11 R189. -/
def execMldhComplete (op : Nat) (s : State) : Out :=
  .next (match s.op op with
    | some o =>
      match o.kind with
      | .mldh n t =>
        if s.ready o && !s.planeRead o t.phys 15#4 then
          ((s.modCore o.core fun c => c.modPlanes t 0 fun p => p.hadamard t.bfmt (t.floor 0) n).finishLoad o.core op).endOp op
        else s
      | _ => s
    | none => s)

/-- A MMAC's stage was cancelled, or its reduction never opened (11 R182). -/
def State.mmacLost (s : State) (o : Op) (m : Mmac) : Bool :=
  o.prog == 0 && ((s.core o.core).cancelled.contains m.stage.id || (((s.core o.core).set m.set).red m.red).isNone)

/-- An MMAC clears its set before its first row: FIRST does (11 R200), and the MMAC that follows one that never began. -/
def State.clears (s : State) (o : Op) (m : Mmac) : Bool :=
  o.prog == 0 && (m.first || match ((s.core o.core).set m.set).red m.red with | some r => r.clear | none => false)

/-- An MMAC begins: its set is cleared, and the reduction takes in what the MMAC uses (11 R200). One that stops before it
begins leaves the set to be cleared, since an earlier drain may still read it. -/
def State.beginMmac (s : State) (o : Op) (m : Mmac) (runs : Bool) : State :=
  if o.prog != 0 then s
  else
    let clears := s.clears o m
    s.modCore o.core fun c => c.modSet m.set fun a =>
    let a := if clears && runs then { a with acc := [] } else a
    let t := m.stage
    a.modRed m.red fun r =>
      { r with
        clear := clears && !runs
        rmax := Nat.max r.rmax m.rows, used := r.used ||| t.used, passes := Nat.max r.passes t.passes, req := r.req ||| t.freq
        skipped := r.skipped || (floorsOf t.live).length < 4, reasons := r.reasons ||| t.reasons
        kpass := Nat.min t.ks ((floorsOf t.live).length * sliceK t.mode) / 64, dprog := m.prog, rq := m.rq }

/-- An MMAC has come to its next row: what it waits for has performed, and its set is no longer drained when it clears it. -/
def State.atRow (s : State) (o : Op) (m : Mmac) : Bool :=
  s.ready o && o.prog < m.rows && s.engineRuns o.owner && !s.mmacLost o m
  && !(s.clears o m && s.ops.any fun p => p.core == o.core && p.id < o.id
        && (match p.kind with | .drain d => d.set == m.set && !d.stopped | _ => false))

/-- Whether the next row of an MMAC may be fetched. -/
def State.mayFetchRow (s : State) (o : Op) (m : Mmac) : Bool :=
  s.atRow o m && (o.reads.take 2).all fun r => !s.readBlocked o.core o.id r

/-- MMAC_ROW_FETCH, 11 R201: a row, in every pass. -/
def execMmacRowFetch (op : Nat) (s : State) : Out :=
  .next (match s.op op with
    | some o =>
      match o.kind with
      | .mmac m =>
        if !s.mayFetchRow o m then s
        else
          let s := match if m.first && o.prog == 0 then s.stoppedDrain o.core m.set else none with
            | some d => s.abandonDrain o.core d.id
            | none => s
          let s := s.beginMmac o m true
          let c := s.core o.core
          let a := (upto m.stage.ks).map (c.aElem m o.prog)
          let cols := (upto m.stage.deal.length).foldr
            (fun j l => List.zipWith (fun x y => x :: y) (c.sliceColumns m.stage j) l) (List.replicate 512 [])
          let old := mrun 0#32 (c.set m.set).acc (o.prog * 512) 512
          let row := List.zipWith (accElem m.stage a) old cols
          let s := s.modCore o.core fun c => c.modSet m.set fun b =>
            { b with acc := mputRun 0#32 b.acc (o.prog * 512) (row.map (·.1)) }
          s.setOp { o with prog := o.prog + 1, reads := o.reads.drop 2
                           kind := .mmac { m with events := countEvents m.events (row.map (·.2)) } }
      | _ => s
    | none => s)

/-- MMAC_LAST_WRITE, 11 R201, R203: the events enter the reduction's shadow; with LAST the operation becomes the drain, which
keeps its place for the scoreboard and for SETTLE, and for which the engine's later commands do not wait. -/
def execMmacLastWrite (op : Nat) (s : State) : Out :=
  .next (match s.op op with
    | some o =>
      match o.kind with
      | .mmac m =>
        if o.prog != m.rows || !s.engineRuns o.owner then s
        else
          let s := s.modCore o.core fun c => c.modSet m.set fun a =>
            a.modRed m.red fun r => { r with shadow := addCounts r.shadow m.events }
          if m.last then
            (s.setOp { o with prog := 0, reads := [], waits := []
                              kind := .drain { set := m.set, prog := m.prog, rq := m.rq, rmax := m.rows } }).retire o.core m.set m.red op
          else s.endOp op
      | _ => s
    | none => s)

/-- An MMAC leaves with rows that it has not fetched, and with the cycles that they would have taken. -/
def State.leaveMmac (s : State) (o : Op) (m : Mmac) (f : AccSet → AccSet) : State :=
  (s.endOp o.id).modCore o.core fun c => ({ c with fetchEnd := c.fetchEnd - mmacLeft o } : CoreSt).modSet m.set fun a =>
    if m.last then (f a).modRed m.red fun r => { r with closed := false } else f a

/-- An MMAC leaves without its effect: the reduction it would have opened is gone, and the LAST it would have made
too. -/
def State.dropMmac (s : State) (o : Op) (m : Mmac) : State :=
  (s.leaveMmac o m fun a => if m.first then { a with reds := a.reds.filter fun r => r.id != m.red } else a).releaseEngine o.core

/-- MMAC_DROPPED, 11 R182. -/
def execMmacDropped (op : Nat) (s : State) : Out :=
  .next (match s.op op with
    | some o =>
      match o.kind with
      | .mmac m =>
        if s.mmacLost o m then
          (s.dropMmac o m).owe o.owner ⟨cMatrixBusy, s.matrixInfo o.core (if (s.core o.core).cancelled.contains m.stage.id then 3 else 0) m.set 0⟩
        else s
      | _ => s
    | none => s)

/-- FORCED_RETIREMENT, 11 R204. -/
def execForcedRetirement (core : BitVec 7) (set : Bool) (s : State) : Out :=
  .next (
    let k := core.toNat
    match ((s.core k).set set).reds.find? fun r => !r.closed with
    | none => s
    | some r =>
      match s.ctxOf r.owner with
      | none => s
      | some c =>
        if r.elapsed < (s.ctx c).sr.redlim.toNat || !(s.mmacsOf k r.id).isEmpty then s
        else
          let d := s.nextOp
          ((s.addDrain k r.owner [] { set := set, prog := r.dprog, rq := r.rq, rmax := r.rmax }).retire k set r.id d).owe
            r.owner ⟨cReductionLimit, s.matrixInfo k 1 set 0⟩)

/-- A stage that holds a slice on a floor becomes invalid, because its slab has failed (11 R182, R199). -/
def Stage.slabFailed (t : Stage) (f : Nat) : Stage :=
  if t.deal.contains f && (t.valid || t.loading) then { t with valid := false, loading := false, failed := true } else t

/-- An accepted MMAC that needs a failed slab stops at its first row that has not finished (11 R195 reason 3); its
reduction stays open. -/
def State.stopMmac (s : State) (o : Op) (m : Mmac) : State :=
  ((s.beginMmac o m false).leaveMmac o m id).owe o.owner ⟨cFloorUnavail, s.matrixInfo o.core 3 m.set o.prog⟩

/-- SLAB_FAILURE, 11 R192, R195. -/
def execSlabFailure (core : BitVec 7) (floor : BitVec 2) (s : State) : Out :=
  .next (
    let k := core.toNat
    let f := floor.toNat
    let s := s.modCore k fun c =>
      { c with failed := c.failed ||| BitVec.twoPow 4 f, stageA := c.stageA.slabFailed f, stageS := c.stageS.slabFailed f }
    s.ops.foldl (fun s o =>
      match o.kind with
      | .mmac m => if o.core = k && m.stage.deal.contains f && o.prog < m.rows then s.stopMmac o m else s
      | _ => s) s)

/-- A throttle set or lifted. -/
def State.setThrottle (s : State) (tower power : Bool) (floor : Nat) (on : Bool) : State :=
  { s with throttles := withBit s.throttles ((if tower then 8 else 0) + floor * 2 + if power then 1 else 0) on }

/-- FLOOR_THROTTLE, 11 R192. -/
def execFloorThrottle (tower : Bool) (floor : BitVec 2) (power : Bool) (s : State) : Out :=
  .next (s.setThrottle tower power floor.toNat true)

/-- THROTTLE_LIFTED. -/
def execThrottleLifted (tower : Bool) (floor : BitVec 2) (power : Bool) (s : State) : Out :=
  .next (s.setThrottle tower power floor.toNat false)

/-- THERMAL_SHUTDOWN, 15 R254. -/
def execThermalShutdown (s : State) : Out := .next { s with power := .off, signals := s.signals ++ [.fatal] }

end Sys2Proof.Machine
end

