-- ==== Sys2Proof/Machine/Drain.lean ====
section
/-! DEFINITION. Drain programs (chapter 12): DPLOAD and its image check (R208, R209), the micro-operations, which act on the
unit in the drain pipe of core State.drainCore (R211 to R214), and the units of a drain (R215 to R220). -/

namespace Sys2Proof.Machine

/-- XINFO of DRAIN_FAULT and of a drain's QUEUE_OVF, 12 Table 12-4. -/
def drainInfo (reason : Nat) (set : Bool) (row group stage prog : Nat) : Word :=
  (0#38 ++ BitVec.ofNat 6 prog ++ BitVec.ofNat 4 stage ++ BitVec.ofNat 3 group ++ BitVec.ofNat 8 row ++ BitVec.ofBool set
    ++ BitVec.ofNat 4 reason : BitVec 64)

/-! ### DPLOAD -/

/-- The bytes of an image: part 1 code, 2 kcol, 3 all (12 Table 12-1). -/
def imageSize (part : Nat) : Nat := match part with | 1 => 192 | 2 => 2048 | _ => 2240

/-- DPLOAD, 12 R208, R209: an M-slot access above a watermark yields (07 R142), and one that may turn out packed
yields until that is known (log 17). -/
def execDpload (a : Src) (prog : BitVec 6) (part : BitVec 2) (s : State) : Out :=
  .next (s.matrixCommand [srcOf a 0] fun s =>
    let x := ((s.sVal a).extractLsb' 0 22).toNat
    let r : Range := ⟨x, imageSize part.toNat⟩
    if x % 64 != 0 then s.trap cDrainFault (drainInfo 10 false 0 0 0 prog.toNat)
    else if (s.core s.curCore).unsettled r then s.yields
    else match (s.core s.curCore).packedByte r with
      | some p => s.trap cPackedRead (packedInfo 0 3 p)
      | none =>
        if s.aboveWatermark s.curCore r then s.yields
        else (s.matrixOp [r]
          (s.matrixOps s.curCore fun k => match k with
            | .mldb .. | .mldh .. | .mmac _ | .mswap | .dpload .. => true
            | _ => false)
          (.dpload prog.toNat x part.toNat)).reviseLoads s.curCore)

/-- A format constant that DCVT or DQNT accepts, 12 Table 12-3. -/
def drainFormat (quant : Bool) (c : Lane) : Bool :=
  let x := c.toNat
  x < 0x20 && x % 8 != 0 || x == 0x22 || x == 0x23 || x == 0x30 || x == 0x31 || !quant && (x == 0x32 || x == 0x33)

/-- Why a code word fails, 12 R209; `consts` are the image's constants. -/
def wordFault (consts : List Lane) (w : BitVec 32) : Except Nat Instr :=
  match decodeDrain (w.setWidth 24) with
  | .error e => if e.code < 8 then .error e.code else if w.extractLsb' 24 8 != 0#8 then .error 8 else .error e.code
  | .ok i =>
    if w.extractLsb' 24 8 != 0#8 then .error 8
    else match i with
      | .dcvt o => if drainFormat false (nth 0#32 consts o.k.toNat) then .ok i else .error 9
      | .dqnt o => if o.k != 31#5 && drainFormat true (nth 0#32 consts o.k.toNat) then .ok i else .error 9
      | _ => .ok i

/-- The first failure of a program from word n: the reason and the word; none when a DEND comes first. DESIGN CHOICE (log 22): a
word 15 that fails by itself, with no DEND before it, gives its own reason and not 8. -/
def codeFault (consts : List Lane) : Nat → List (BitVec 32) → Option (Nat × Nat)
  | _, [] => some (8, 15)
  | n, w :: ws =>
    match wordFault consts w with
    | .error r => some (r, n)
    | .ok .dend => none
    | .ok _ => codeFault consts (n + 1) ws

/-- DPLOAD_IMAGE_CHECK, 12 R209, 20 R297. Its read of the image follows the drains' stores as their programs stand. -/
def execDploadImageCheck (op : Nat) (s : State) : Out :=
  .next (match s.op op with
    | some o =>
      match o.kind with
      | .dpload prog x part =>
        let k := o.core
        if !s.ready o || (s.runningDrains k op).any (·.prog == prog) || (s.exactDrains k prog).readBlocked k op ⟨x, imageSize part⟩ then s
        else
          let c := s.core k
          let word (a : Nat) : Lane := c.spWord a
          let code := (upto 16).map fun i => word (x + 4 * i)
          let consts := (upto 32).map fun i => word (x + 64 + 4 * i)
          let kcol (a : Nat) : SMap Lane := (upto 512).foldl (fun m i => mset 0#32 m i (word (a + 4 * i))) []
          let old := mget {} c.progs prog
          let put (p : DrainProg) : State :=
            ((s.modCore k fun c => { c with progs := mset {} c.progs prog p }).endOp op).reviseDrains k prog
          if part = 2 then put { old with kcol := kcol x }
          else match codeFault consts 0 code with
            | some (r, n) => (s.endOp op).reviseDrains k prog |>.owe o.owner ⟨cDrainFault, drainInfo r false 0 0 n prog⟩
            | none => put { loaded := true, job := o.owner.seq, code := code, consts := consts
                            kcol := if part = 3 then kcol (x + 192) else old.kcol }
      | _ => s
    | none => s)

/-! ### Micro-operations, 12 R211 -/

/-- A micro-operation on the unit in the pipe of core State.drainCore; the next one follows. -/
def State.micro (s : State) (f : CoreSt → Drain → DrainProg → Pipe → Pipe) : State :=
  let c := s.core s.drainCore
  match c.pipe with
  | none => s
  | some p =>
    match s.op p.op with
    | some { kind := .drain d, .. } =>
      let q := f c d (mget {} c.progs d.prog) p
      s.setCore s.drainCore { c with pipe := some { q with step := p.step + 1 } }
    | _ => s

/-- The elements of a unit. -/
def Pipe.elems (p : Pipe) : List Nat := upto (64 * p.width)

/-- The column of an element. -/
def Pipe.col (p : Pipe) (e : Nat) : Nat := 64 * p.group + e

/-- An integer as an fp32 lane. -/
def natF32 (n : Nat) : Lane := BitVec.ofNat 32 (f32.round (.ofInt n) 0 0 false false).1

/-- An operand of an element, 04 Table 4-9. DESIGN CHOICE (log 22): ROW and COL are their fp32 integers for DSTO and DPUSH too. -/
def Pipe.operand (p : Pipe) (c : CoreSt) (d : Drain) (g : DrainProg) (sel : BitVec 4) (e : Nat) : Lane :=
  match sel.toNat with
  | 8 => mget 0#32 (c.set d.set).acc (p.row * 512 + p.col e)
  | 9 => natF32 p.row
  | 10 => natF32 (p.col e)
  | 11 => mget 0#32 g.kcol (p.col e)
  | n => mget 0#32 p.x (e * 8 + n)

/-- The results of a micro-operation written to temporary d; `nan` says which are NaNs of their format. -/
def Pipe.put (p : Pipe) (d : BitVec 3) (vs : List (Lane × Bool)) : Pipe :=
  { p with
    x := ((upto vs.length).zip vs).foldl (fun m (e, v) => mset 0#32 m (e * 8 + d.toNat) v.1) p.x
    nan := if p.nan.isNone && vs.any (·.2) then some p.step else p.nan }

/-- A micro-operation that computes an fp32 lane of each element from A and B. -/
def State.microF (s : State) (o : DrainF) (ksel : Bool) (f : DrainProg → Lane → Lane → Lane) : State :=
  s.micro fun c d g p =>
    p.put o.d (p.elems.map fun e =>
      let b := if ksel && o.f.getLsbD 3 then nth 0#32 g.consts o.k.toNat else p.operand c d g o.b e
      let v := f g (p.operand c d g o.a e) b
      (v, isNan32 v))

/-- Rnd of 12 R211. -/
def rnd (o : DrainF) (v : ExactNum) : Lane := (wr (v, 0#5) 0 0 (o.f.getLsbD 2) (o.f.getLsbD 1)).1
/-- An operand's value: ZI reads a subnormal as a zero. -/
def dval (o : DrainF) (x : Lane) : ExactNum := rd (o.f.getLsbD 0) x

/-- DADD. -/
def execDadd (o : DrainF) (s : State) : Out := .next (s.microF o true fun _ a b => rnd o ((dval o a).add 0 (dval o b)).1)
/-- DMUL. -/
def execDmul (o : DrainF) (s : State) : Out := .next (s.microF o true fun _ a b => rnd o ((dval o a).mul (dval o b)).1)
/-- DFMA: one rounding. -/
def execDfma (o : DrainF) (s : State) : Out :=
  .next (s.microF o false fun g a b => rnd o ((dval o a).fma 0 (dval o b) (dval o (nth 0#32 g.consts o.k.toNat))).1)
/-- DEXP2. -/
def execDexp2 (o : DrainF) (s : State) : Out := .next (s.microF o false fun _ a _ => rnd o (dval o a).exp2)
/-- DRCP. -/
def execDrcp (o : DrainF) (s : State) : Out := .next (s.microF o false fun _ a _ => rnd o (dval o a).recip.1)

/-- The larger or smaller of two lanes: NaN when either is one, and +0 above −0; a subnormal operand counts as a zero
with ZI. -/
def pickF32 (o : DrainF) (larger : Bool) (a b : Lane) : Lane :=
  let fl (x : Lane) : Lane := if o.f.getLsbD 0 && f32.isSubnormal x.toNat then x &&& 0x80000000#32 else x
  if isNan32 a || isNan32 b then qnan
  else if (totalKey (fl a) < totalKey (fl b)) == larger then fl b else fl a

/-- DMAX. -/
def execDmax (o : DrainF) (s : State) : Out := .next (s.microF o true fun _ a b => pickF32 o true a b)
/-- DMIN. -/
def execDmin (o : DrainF) (s : State) : Out := .next (s.microF o true fun _ a b => pickF32 o false a b)

/-- The encoding of a value in a format constant's format, zero-extended, and whether it is the format's NaN. -/
def encConst (o : DrainF) (c : Lane) (v : ExactNum) : Lane × Bool :=
  match Fmt.ofCode (c.toNat % 256) with
  | some f =>
    let y := (roundTo v f 0 0 (o.f.getLsbD 2) (o.f.getLsbD 1)).1
    (BitVec.ofNat 32 y, match f with | .flt g => g.isNan y | _ => false)
  | none => (0#32, false)

/-- DCVT. -/
def execDcvt (o : DrainF) (s : State) : Out :=
  .next (s.micro fun c d g p =>
    p.put o.d (p.elems.map fun e => encConst o (nth 0#32 g.consts o.k.toNat) (dval o (p.operand c d g o.a e))))

/-- A store joins the unit's stores, or is refused (12 R213). Whether it meets the output of an earlier XFORM that is not done is
found when the unit performs (log 17). -/
def Pipe.store (p : Pipe) (c : CoreSt) (group addr size : Nat) (aligned : Bool) (v : Lane) : Pipe :=
  let refuse (r : Nat) : Pipe := { p with refused := p.refused ++ [(group, p.step, r)] }
  if spSize < addr + size then refuse 1
  else if !aligned then refuse 4
  else if c.isPacked ⟨addr, size⟩ then refuse 2
  else { p with stores := p.stores ++ [⟨group, p.step, addr, size, v⟩] }

/-- DQNT, 12 R212: blocks of 64 bytes, and a scale byte for each. -/
def execDqnt (o : DrainF) (s : State) : Out :=
  .next (s.micro fun c d g p =>
    let k := nth 0#32 g.consts o.k.toNat
    let n := if g.wide o.k.toNat then 32 else 64
    let nb := 512 / n
    let blocks := (upto (64 * p.width / n)).map fun b =>
      let vs := (upto n).map fun e => dval o (p.operand c d g o.a (b * n + e))
      let sc : Nat := match Fmt.ofCode (k.toNat % 256) with
        | some f => blockScale f vs
        | none => 127
      (b, sc, vs.map fun v => encConst o k (v.scale (127 - Int.ofNat sc)))
    let p := blocks.foldl (fun p (b, sc, _) =>
      p.store c (p.group + b * n / 64) (g.addr (o.k.toNat + 1) + p.row * nb + (p.col (b * n)) / n) 1 true (BitVec.ofNat 32 sc)) p
    p.put o.d (blocks.flatMap (·.2.2)))

/-- The address of a DSTO and whether it is aligned, 12 R213. -/
def dstoAddr (g : DrainProg) (k : BitVec 5) (skew : Bool) (size row col : Nat) : Nat × Bool :=
  let base := g.addr k.toNat
  let stride := g.addr (k.toNat + 1)
  if skew then
    (base + row / 64 * stride + col / 64 * 16384 + 256 * (row % 64) + 4 * ((row + col) % 64), base % 16384 = 0 && stride % 16384 = 0)
  else
    let a := base + row * stride + col * size
    (a, a % size = 0)

/-- DSTO. -/
def execDsto (a : BitVec 4) (k : BitVec 5) (skew : Bool) (sz : BitVec 2) (s : State) : Out :=
  .next (s.micro fun c d g p =>
    let size := 2 ^ (2 - sz.toNat)
    p.elems.foldl (fun q e =>
      let (x, ok) := dstoAddr g k skew size p.row (p.col e)
      q.store c (p.group + e / 64) x size ok (p.operand c d g a e)) p)

/-- An entry of 64 lanes from n values of 2^(5 − sz) bits each. -/
def packEntry (sz : Nat) (vs : List Lane) : Vec :=
  let per := 2 ^ sz
  let w := 32 / per
  (upto 64).map fun i => BitVec.ofNat 32 ((upto per).foldl (fun n j =>
    n + ((nth 0#32 vs (i * per + j)).toNat % 2 ^ w) * 2 ^ (w * j)) 0)

/-- DPUSH, 12 R214: entry h packs lane groups h × per to h × per + per − 1. After a resumption inside them, what lies before
the cursor has been pushed already, and its place in the entry holds a free value (12 R220, log 22). -/
def execDpush (a : BitVec 4) (sz : BitVec 2) (s : State) : Out :=
  .next (s.micro fun c d g p =>
    let per := 2 ^ sz.toNat
    let first := p.group / per
    { p with pushes := p.pushes ++ (upto ((p.group + p.width) / per - first)).map fun q =>
        let h := first + q
        (h * per + per - 1, p.step,
          packEntry sz.toNat ((upto (64 * per)).map fun e =>
            let col := h * 64 * per + e
            if col < 64 * p.group then BitVec.ofNat 32 (Config.free s.tick col) else p.operand c d g a (col - 64 * p.group))) })

/-- DEND: the unit has passed the program. -/
def execDend (s : State) : Out := .next (s.micro fun _ _ _ p => { p with done := true })

/-! ### Units, 12 R216 and R217 -/

/-- The lane groups of a unit: 4 with a b8 DPUSH, 2 with a b16 one. -/
def unitWidth (g : DrainProg) : Nat :=
  (drainWords g).foldl (fun n i => match i with
    | .dpush _ sz => Nat.max n (2 ^ sz.toNat)
    | _ => n) 1

/-- The unit fails: the drain stops at its cursor, and the fault is owed to the owner of the set (12 R217, R218). An MMAC with
FIRST on the set that its owner has had accepted abandons it at once (06 R125, 12 R219). Nothing waits for a stopped drain. -/
def State.unitFails (s : State) (o : Op) (d : Drain) (reason stage : Nat) : State :=
  let k := o.core
  let s := ((s.setOp { o with kind := .drain { d with stopped := true } }).modCore k fun c => { c with pipe := none }).unwait o.id
    fun _ => true
  let next := s.ops.any fun p => p.core == k && p.owner == o.owner && (match p.kind with
    | .mmac m => m.first && m.set == d.set && p.prog == 0
    | _ => false)
  let s := if next then s.abandonDrain k o.id else s.reviseLoads k
  s.owe o.owner
    ⟨if reason = 0 then cQueueOvf else cDrainFault, drainInfo reason d.set (o.prog / 8) (o.prog % 8) stage d.prog⟩

/-- The entry of a list of refused stores, or of pushes, that comes first in the order of lane groups and
micro-operations. DESIGN CHOICE (log 22): of several refused stores of a unit that one gives REASON and STAGE. -/
def firstInOrder {α : Type} : List (Nat × Nat × α) → Option (Nat × Nat × α)
  | [] => none
  | x :: xs =>
    match firstInOrder xs with
    | some y => if y.1 < x.1 || y.1 = x.1 && y.2.1 < x.2.1 then some y else some x
    | none => some x

/-- A list of things of a unit in the order in which they perform. -/
def inUnitOrder {α : Type} (key : α → Nat × Nat) (width group : Nat) (l : List α) : List α :=
  (upto width).flatMap fun g => (upto 16).flatMap fun m => l.filter fun x => key x = (group + g, m)

/-- The pushes of a unit in order. -/
def Pipe.inOrder (p : Pipe) : List (Nat × Nat × Vec) := inUnitOrder (fun x => (x.1, x.2.1)) p.width p.group p.pushes

/-- Free entries of a queue. -/
def CoreSt.queueFree (c : CoreSt) (q : Nat) : Nat := 64 - (mget [] c.queues q).length

/-- The stores and pushes of a unit perform, and the cursor moves on. -/
def State.performUnit (s : State) (o : Op) (d : Drain) (p : Pipe) : State :=
  let k := o.core
  let next := o.prog + p.width
  let s := (inUnitOrder (fun x => (x.group, x.stage)) p.width p.group p.stores).foldl
    (fun s x => s.spWrite k x.addr (leBytes x.size (x.val.toNat % 2 ^ (8 * x.size)))) s
  let s := s.modCore k fun c =>
    { c with pipe := none
             queues := mset [] c.queues d.rq ((mget [] c.queues d.rq) ++ p.inOrder.map (·.2.2)) }
  s.setOp { o with prog := next, kind := .drain { d with first := false }
                   writes := drainRanges (mget {} (s.core k).progs d.prog) d.rmax (next / 8) (next % 8) }

/-- The unit of a drain at its cursor, for units of `width` lane groups (12 R216): after a resumption inside a unit, what is
left of it. -/
def Op.unit (o : Op) (d : Drain) (width : Nat) : Pipe :=
  let g := o.prog % 8
  { op := o.id, row := o.prog / 8, group := g, width := (g / width + 1) * width - g, rq := d.rq }

/-- The core's oldest drain whose Retire has started. -/
def State.drainTurn (s : State) (o : Op) : Bool := (s.core o.core).drains.head? == some o.id

/-- The stores of a unit that are refused: those that its micro-operations refused, and those that an XFORM has marked packed since
(06 R115). -/
def Pipe.refusedNow (p : Pipe) (c : CoreSt) : List (Nat × Nat × Nat) :=
  p.refused ++ (p.stores.filter fun x => c.isPacked ⟨x.addr, x.size⟩).map fun x => (x.group, x.stage, 2)

/-- DRAIN_UNIT: the Retire of an accepted MRET starts; or a unit enters the pipe; when it has passed the program, the part
checks it whole, and performs it. -/
def execDrainUnit (op : Nat) (s : State) : Out :=
  .next (match s.op op with
    | some o =>
      match o.kind with
      | .drain d =>
        let c := s.core o.core
        let g := mget {} c.progs d.prog
        if s.unretired o then (if s.mayRetire o then s.startRetire o d else s)
        else if !s.ready o || d.stopped || !s.drainTurn o || 8 * d.rmax ≤ o.prog then s
        else match c.pipe with
          | none =>
            if d.first && (!g.loaded || g.job != o.owner.seq) then s.unitFails o d 5 0
            else
              let t := s.setCore o.core { (if d.clear then c.modSet d.set fun a => { a with acc := [] } else c) with
                pipe := some (o.unit d (unitWidth g)) }
              if d.clear then t.setOp { o with kind := .drain { d with clear := false } } else t
          | some p =>
            if !p.done || p.op != op || p.stores.any (fun x => c.unsettledBefore op ⟨x.addr, x.size⟩) then s
            else match if d.nanStop then p.nan else none, firstInOrder (p.refusedNow c) with
              | some m, _ => s.unitFails o d 3 m
              | none, some (_, m, r) => s.unitFails o d r m
              | none, none =>
                if c.queueFree d.rq < p.pushes.length then s
                else if p.stores.any fun x => s.writeBlocked o.core op ⟨x.addr, x.size⟩ then s
                else s.performUnit o d p
      | _ => s
    | none => s)

/-- DRAIN_QUEUE_TIMEOUT, 12 R217. DESIGN CHOICE (log 22): of several pushes of a unit, STAGE names the first that lacks an entry. -/
def execDrainQueueTimeout (op : Nat) (s : State) : Out :=
  .next (match s.op op with
    | some o =>
      match o.kind with
      | .drain d =>
        match (s.core o.core).pipe with
        | some p =>
          if p.op = op && p.done && 1024 ≤ p.waited && (s.core o.core).queueFree d.rq < p.pushes.length then
            s.unitFails o d 0 (match p.inOrder[(s.core o.core).queueFree d.rq]? with | some x => x.2.1 | none => 0)
          else s
        | none => s
      | _ => s
    | none => s)

/-- DRAIN_COMPLETE, 12 R215: the set is free, and the next drain may start. -/
def execDrainComplete (op : Nat) (s : State) : Out :=
  .next (match s.op op with
    | some o =>
      match o.kind with
      | .drain d =>
        if s.ready o && s.drainTurn o && 8 * d.rmax ≤ o.prog then
          ((s.endOp op).modCore o.core fun c => { c with drains := c.drains.filter (· != op) }).releaseEngine o.core
        else s
      | _ => s
    | none => s)

end Sys2Proof.Machine
end

