-- ==== Sys2Proof/Machine/Fabric.lean ====
section
/-! DEFINITION. Collectives (15 R243, R244, 20 R292 to R295): COLL, its beginning, completion and abort. An outstanding COLL
is the k-th of its member on its group, k in the operation's `prog`. A group of scope FAB has members on other chips: what
they contribute, and the ranks that they take, are free values (log 14). -/

namespace Sys2Proof.Machine

/-- The size in bytes of an element (20 R293). -/
def collSize (ty : Nat) : Nat := if ty = 1 then 2 else 4

/-- The position of a value in a list. -/
def posIn (a : Nat) : List Nat → Nat
  | [] => 0
  | b :: l => if a = b then 0 else posIn a l + 1

/-- The rank of the first member of this chip in a session: 0 when no chip of its set comes before this one, and a free
value otherwise. -/
def State.rankBase (s : State) (tenant : BitVec 16) (g : Nat) (x : Group) : Nat :=
  match s.session tenant g with
  | none => 0
  | some e =>
    let c := s.fab.chip.toNat
    let rest := e.total.toNat - x.members.length
    if (upto c).all fun d => !e.chips.getLsbD d then 0
    else if (upto (63 - c)).all fun d => !e.chips.getLsbD (c + 1 + d) then rest
    else Config.free 0x10000 (tenant.toNat * 256 + g) % (rest + 1)

/-- The rank of a member (15 R242, 20 R293). -/
def State.rankOf (s : State) (tenant : BitVec 16) (g : Nat) (x : Group) (m : Nat) : Nat :=
  if x.scope = 7 then s.rankBase tenant g x + (x.members.filter (· < m)).length else posIn m x.members

/-- The group of a job. -/
def State.jobGroup (s : State) (seq g : Nat) : Option Group := (findJob seq s.jobs).bind fun j => j.groups[g]?

/-- The outstanding COLLs of the k-th collective of a job's group. -/
def State.collective (s : State) (seq g k : Nat) : List Op :=
  s.ops.filter fun o => o.owner.seq == seq && o.prog == k && (match o.kind with | .coll h .. => h == g | _ => false)

/-- The barrier object that an operation accesses, or will credit (06 R121). -/
def OpKind.tbObject : OpKind → Option Nat
  | .tbarrive a | .tbexpect a _ | .credit a .. | .qsend _ a _ => some a
  | .xfer _ _ _ _ tb .. | .hread _ _ _ _ _ tb .. => tb
  | _ => none

/-- The bytes of the cluster that an operation writes by an address of R111. -/
def OpKind.farWrites : OpKind → Option (Nat × Nat)
  | .rstore a bs => some (a, bs.length)
  | .qsend a .. => some (a, 256)
  | _ => none

/-- COLL, 20 R293: the checks in order, a transfer record, and the ranges of R295. It follows the strand's accesses to its buffers,
and orders no other memory (R295, 08 R156). -/
def execColl (o : CollF) (s : State) : Out :=
  .next (s.reading [srcOf o.a 0, srcOf o.b 1, srcOf o.c 2] fun s =>
    let g := o.group.toNat
    let i := s.curStrand
    let tenant := s.tenantOf i
    match s.groupOf i g with
    | none => s.badGroup g
    | some x =>
      let e := collSize o.ty.toNat
      let op := o.op.toNat
      let n := (s.sVal o.b).toNat
      let src := ((s.sVal o.a).extractLsb' 0 22).toNat
      let dst := if op = 3 || op = 4 then ((s.sVal o.c).extractLsb' 0 22).toNat else src
      let root := if op = 5 then (s.sVal o.c).toNat else 0
      let total := s.total tenant g x
      let size := n * e
      let out := if op = 3 then total * size else if op = 4 then size / total else size
      if n = 0 then s.trap cXferSize (xferInfo 1)
      else if src % e != 0 || dst % e != 0 then s.trap cXferSize (xferInfo 2)
      else if spSize < size || spSize < out then s.trap cXferSize (xferInfo 3)
      else if op = 4 && n % total != 0 then s.trap cXferSize (xferInfo 4)
      else if op = 5 && total ≤ root then s.trap cXferSize (xferInfo 5)
      else if 64 ≤ s.recordsUsed s.curCore then s.yields
      else
        let key := i.idx * 256 + g
        let k := match findJob i.seq s.jobs with
          | some j => mget 0 j.colls key
          | none => 0
        let inBuffer (p : Op) (a m : Nat) : Bool :=
          let t := tbTarget p.core a
          t.1 == s.curCore && meetsAny ⟨t.2, m⟩ [⟨src, size⟩, ⟨dst, out⟩]
        let before := (s.ops.filter fun p => p.owner == i && (p.kind.farWrites.any (fun x => inBuffer p x.1 x.2)
          || p.kind.tbObject.any (inBuffer p · 16))).map (·.id)
        (s.modJob i.seq fun j => { j with colls := mset 0 j.colls key (k + 1) }).addOp
          { id := 0, core := s.curCore, owner := i, tenant := tenant, domains := 96#7, record := true, prog := k
            waits := before ++ s.poWaits i true
            reads := [⟨src, size⟩], writes := [⟨dst, out⟩]
            kind := .coll g src n dst op o.ty.toNat root s.dtime.toNat none })

/-! ### Results, 15 R243, 20 R294 -/

/-- Element i of a contribution. -/
def collElem (e : Nat) (data : List Byte) (i : Nat) : Nat := leNat ((data.drop (i * e)).take e)

/-- The reduction of a list of elements in rank order: 0 sum, 1 max, 2 min. -/
def reduceElems (op ty : Nat) (l : List Nat) : Nat :=
  let f (x : Nat) : Lane := BitVec.ofNat 32 (if ty = 1 then x * 65536 else x)
  let add (a b : Lane) : Lane := (wr ((rd false a).add 0 (rd false b)) 0 0 false false).1
  match l with
  | [] => 0
  | x :: xs =>
    if ty = 2 then
      let big (a b : Nat) (larger : Bool) : Nat :=
        if ((BitVec.ofNat 32 a).toInt < (BitVec.ofNat 32 b).toInt) == larger then b else a
      xs.foldl (fun a b => match op with
        | 0 => (a + b) % 2 ^ 32
        | 1 => big a b true
        | _ => big a b false) x
    else
      let pick (larger : Bool) : Lane := xs.foldl (fun a b => pickF32 ⟨0, 0, 0, 0, 0⟩ larger a (f b)) (f x)
      match op with
      | 0 =>
        let v := xs.foldl (fun a b => add a (f b)) (f x)
        if ty = 1 then (bf16.round (rd false v) 0 0 false false).1 else v.toNat
      | 1 => (pick true).toNat / (if ty = 1 then 65536 else 1)
      | _ => (pick false).toNat / (if ty = 1 then 65536 else 1)

/-- The contributions of the ranks of a list to element i. -/
def contributions (e : Nat) (data : List (List Byte)) (ranks : List Nat) (i : Nat) : List Nat :=
  ranks.map fun r => collElem e (nth [] data r) i

/-- Element i of the destination of rank r, reduced over the ranks of a list. -/
def collResult (op ty root n : Nat) (data : List (List Byte)) (ranks : List Nat) (r i : Nat) : Nat :=
  let e := collSize ty
  match op with
  | 3 => collElem e (nth [] data (i / n)) (i % n)
  | 4 => reduceElems 0 ty (contributions e data ranks (r * (n / data.length) + i))
  | 5 => collElem e (nth [] data root) i
  | _ => reduceElems op ty (contributions e data ranks i)

/-- The number of elements of a destination. -/
def collOut (op n total : Nat) : Nat := match op with | 3 => total * n | 4 => n / total | _ => n

/-! ### Beginning and completion -/

/-- A contribution of a member on another chip: free. -/
def freeBytes (t r n : Nat) : List Byte := (upto n).map fun j => BitVec.ofNat 8 (Config.free t (r * 2 ^ 23 + j))

/-- Info of COLL_ABORT, 15 Table 15-1. -/
def collInfo (reason rank : Nat) : Word := (0#45 ++ BitVec.ofNat 15 rank ++ BitVec.ofNat 4 reason : BitVec 64)

/-- An element of an aborted participant's destination: the old one, the final one, or a reduction over some ranks with
its own (15 R244); which is a free choice. -/
def State.abortElem (s : State) (core dst op ty root n : Nat) (rank : Nat) (data : List (List Byte)) (i : Nat) : List Byte :=
  let e := collSize ty
  let key := core * 2 ^ 40 + (dst + i * e)
  let all := upto data.length
  let some_ := all.filter fun r => r = rank || (Config.free s.tick (key * 2 ^ 15 + r)) % 2 = 1
  match Config.free s.tick key % 3 with
  | 0 => (s.core core).spBytes (dst + i * e) e
  | 1 => leBytes e (collResult op ty root n data all rank i)
  | _ => if op = 3 || op = 5 then (s.core core).spBytes (dst + i * e) e else leBytes e (collResult op ty root n data some_ rank i)

/-- One participant's COLL ends with COLL_ABORT, owed to its strand. -/
def State.abortOne (s : State) (reason rank : Nat) (o : Op) : State :=
  let s := match o.kind with
    | .coll _ _ n dst op ty root _ (some (r, data)) =>
      if op = 5 && r = root then s
      else s.spWrite o.core dst ((upto (collOut op n data.length)).flatMap (s.abortElem o.core dst op ty root n r data))
    | _ => s
  (s.endOp o.id).owe o.owner ⟨cCollAbort, collInfo reason rank⟩

/-- The abort of the k-th collective of a job's group, once it has ended: REASON and RANK. -/
def State.collEnded (s : State) (seq g k : Nat) : Option (Nat × Nat) :=
  (findJob seq s.jobs).bind fun j => (j.aborted.find? fun e => e.1 == g && e.2.1 == k).map (·.2.2)

/-- The k-th collective of a job's group is aborted for every participant that has issued; one that issues later does not
wait beyond the abort. -/
def State.abortColl (s : State) (seq g k reason rank : Nat) : State :=
  let t := if (s.collEnded seq g k).isSome then s
    else s.modJob seq fun j => { j with aborted := j.aborted ++ [(g, k, reason, rank)] }
  (t.collective seq g k).foldl (fun s o => s.abortOne reason rank o) t

/-- The context of strand i ends (15 R244 reason 0): its own COLLs end, and every other participant's COLL that counts on
it is aborted. -/
def State.abortOf (s : State) (i : StrandId) : State :=
  match findJob i.seq s.jobs with
  | none => s
  | some j =>
    let open_ := s.ops.filterMap fun o => match o.kind with
      | .coll g .. => if o.owner.seq = i.seq then some (g, o.prog) else none
      | _ => none
    open_.eraseDups.foldl (fun s (g, k) => match j.groups[g]? with
      | none => s
      | some x =>
        let own := (s.collective i.seq g k).filter fun o => o.owner == i
        if !x.members.contains i.idx || own.isEmpty && k < mget 0 j.colls (i.idx * 256 + g) then s
        else
          let s := own.foldl (fun s o => s.endOp o.id) s
          s.abortColl i.seq g k 0 (s.rankOf j.tenant g x i.idx)) s

/-- The lowest rank whose parameters differ from those of the lowest rank. -/
def collDiffers (l : List (Nat × (Nat × Nat × Nat × Nat))) : Option Nat :=
  match l with
  | [] => none
  | (_, p) :: l => (l.find? fun x => x.2 != p).map (·.1)

/-- The participants of a list by ascending rank. -/
def sortRanks {α : Type} : List (Nat × α) → List (Nat × α)
  | [] => []
  | x :: l => let r := sortRanks l; (r.takeWhile fun y => y.1 < x.1) ++ x :: (r.dropWhile fun y => y.1 < x.1)

/-- Every member of the group on this chip has issued the collective, the sources can be read, and the group's earlier
collectives have completed (20 R294). -/
def State.collReady (s : State) (x : Group) (l : List Op) : Bool :=
  (l.all fun o => !s.ops.any fun p => p.owner.seq == o.owner.seq && p.prog < o.prog
    && (match p.kind, o.kind with | .coll g .., .coll h .. => g == h | _, _ => false))
  && (x.members.all fun m => l.any fun o => o.owner.idx == m)
  && (l.all fun o => match o.kind with | .coll g .. => s.allHere o.tenant g x | _ => false)
  && l.all fun o => s.ready o && (match o.kind with
      | .coll _ _ _ _ _ _ _ _ b => b.isNone && o.reads.all fun r => !s.readBlocked o.core o.id r
      | _ => false)

/-- COLL_BEGIN: every participant's source is read in full; or the collective ends with reason 3 (20 R294). For a group of
scope FAB the step comes from the fabric, once the members on the other chips have issued (State.inputs). -/
def execCollBegin (op : Nat) (s : State) : Out :=
  .next (match s.op op with
    | some o =>
      match o.kind, s.jobGroup o.owner.seq (match o.kind with | .coll g .. => g | _ => 0) with
      | .coll g .., some x =>
        let seq := o.owner.seq
        let l := s.collective seq g o.prog
        if !s.collReady x l then s
        else
          let ranked := sortRanks (l.map fun p => (s.rankOf p.tenant g x p.owner.idx, p))
          let params := ranked.map fun (r, p) => (r, match p.kind with
            | .coll _ _ n _ op ty root _ _ => (ty, op, n, root)
            | _ => (0, 0, 0, 0))
          match collDiffers params with
          | some r => s.abortColl seq g o.prog 3 r
          | none =>
            let data := (upto (s.total o.tenant g x)).map fun r =>
              match ranked.find? fun y => y.1 == r, o.kind with
              | some (_, p), .coll _ _ n _ _ ty _ _ _ =>
                (match p.kind with | .coll _ src .. => (s.core p.core).spBytes src (n * collSize ty) | _ => [])
              | none, .coll _ _ n _ _ ty _ _ _ => freeBytes s.tick r (n * collSize ty)
              | _, _ => []
            ranked.foldl (fun s (r, p) => match p.kind with
              | .coll g src n dst op ty root since _ =>
                let isRoot := op = 5 && r = root
                s.setOp { p with kind := .coll g src n dst op ty root since (some (r, data))
                                 reads := if isRoot then p.reads else [], writes := if isRoot then [] else p.writes }
              | _ => s) s
      | _, _ => s
    | none => s)

/-- COLL_COMPLETE, 20 R294: one participant's destination is written, the root's buffer of a broadcast unchanged. A
completed COLL of scope FAB is irrevocable (15 R249). -/
def execCollComplete (op : Nat) (s : State) : Out :=
  .next (match s.op op with
    | some o =>
      match o.kind with
      | .coll g _ n dst cop ty root _ (some (r, data)) =>
        if o.writes.any fun w => s.writeBlocked o.core op w then s
        else
          let s := if cop = 5 && r = root then s
            else s.spWrite o.core dst ((upto (collOut cop n data.length)).flatMap fun i =>
              leBytes (collSize ty) (collResult cop ty root n data (upto data.length) r i))
          let fab := match s.jobGroup o.owner.seq g with | some x => x.scope == 7 | none => false
          (if fab then s.modJob o.owner.seq fun j => { j with irrevocable := true } else s).endOp op
      | _ => s
    | none => s)

/-- COLL_ABORT: the fabric ends the collective of a COLL with a reason and a rank (15 R244). -/
def execCollAbort (op : Nat) (reason : BitVec 4) (rank : BitVec 15) (s : State) : Out :=
  .next (match s.op op with
    | some o =>
      match o.kind with
      | .coll g .. => s.abortColl o.owner.seq g o.prog reason.toNat rank.toNat
      | _ => s
    | none => s)

/-- The lowest rank that has not issued (15 Table 15-1). In a session it may be a member of another chip, which is a free choice
among the ranks that it can be; where every member of this chip has issued and no other chip is of the set, the spec
names no rank and any is free. -/
def State.missingRank (s : State) (seq g k : Nat) (x : Group) (tenant : BitVec 16) : Nat :=
  let issued (m : Nat) : Nat := match findJob seq s.jobs with
    | some j => mget 0 j.colls (m * 256 + g)
    | none => 0
  let missing := x.members.filter fun m => issued m ≤ k
  let ranks := missing.map fun m => s.rankOf tenant g x m
  let total := s.total tenant g x
  let base := if x.scope = 7 then s.rankBase tenant g x else 0
  let last := base + x.members.length
  let free := Config.free s.tick g
  let n := base + if ranks.isEmpty then total - last else 1
  let r := free % n
  if n = 0 then free % total
  else if r < base then r
  else if ranks.isEmpty then last + (r - base)
  else ranks.foldl Nat.min total

/-- A rank of another chip: a free choice. -/
def State.otherRank (s : State) (tenant : BitVec 16) (g : Nat) (x : Group) : Nat :=
  let base := s.rankBase tenant g x
  let r := Config.free s.tick g % (s.total tenant g x - x.members.length)
  if r < base then r else r + x.members.length

/-- A COLL has waited longer than COLLTO from its issue, and its collective has not begun (15 R243). -/
def State.collExpired (s : State) (o : Op) : Bool :=
  match o.kind with
  | .coll _ _ _ _ _ _ _ since none => s.fab.collto.toNat * 1000 < s.dtime.toNat - since
  | _ => false

/-- COLLTO_EXPIRY. -/
def execColltoExpiry (op : Nat) (s : State) : Out :=
  .next (match s.op op with
    | some o =>
      match o.kind, s.jobGroup o.owner.seq (match o.kind with | .coll g .. => g | _ => 0) with
      | .coll g .., some x =>
        if s.collExpired o then s.abortColl o.owner.seq g o.prog 2 (s.missingRank o.owner.seq g o.prog x o.tenant) else s
      | _, _ => s
    | none => s)

/-- A group of a job whose traffic needs the path through port p (15 R241). -/
def State.needsPath (s : State) (p : Nat) (j : Job) (g : Nat) (x : Group) : Bool :=
  match s.otherChips j.tenant g x with
  | some c => Config.onPath p c.toNat
  | none => false

/-- Every collective whose traffic needs the path through port p ends with reason 1, and a strand that waits at a barrier of
such a group is owed the same (15 R241). -/
def State.abortPaths (s : State) (p : Nat) : State :=
  let rank (seq g : Nat) : Option Nat := (findJob seq s.jobs).bind fun j => (j.groups[g]?).bind fun x =>
    if s.needsPath p j g x then some (s.otherRank j.tenant g x) else none
  let open_ := (s.ops.filterMap fun o => match o.kind with
    | .coll g .. => (rank o.owner.seq g).map fun r => (o.owner.seq, g, o.prog, r)
    | _ => none).eraseDups
  let s := open_.foldl (fun s (q, g, k, r) => s.abortColl q g k 1 r) s
  s.nets.foldl (fun s n =>
    match rank n.job n.group with
    | none => s
    | some r => n.arrivals.foldl (fun s (m, a) => if n.phc < a then s.owe ⟨n.job, m⟩ ⟨cCollAbort, collInfo 1 r⟩ else s) s) s

/-- PORT_UP, 15 R252: an enabled port comes up. -/
def execPortUp (port : BitVec 4) (s : State) : Out :=
  .next (if s.fab.porten.getLsbD port.toNat then
      { s with fab := { s.fab with portup := withBit s.fab.portup port.toNat true, retries := mset 0 s.fab.retries port.toNat 0 } }
    else s)

end Sys2Proof.Machine
end

