-- ==== Sys2Proof/Machine/Recovery.lean ====
section
/-! DEFINITION. The guarantee on accepted work (15 R247 to R250): what the command processor reads, how strands are removed
from their contexts (R249), the interruption of a job, a Lost strand (09 R174), the re-run, the declared write set (R248),
and the ports whose loss interrupts jobs (R241). -/

namespace Sys2Proof.Machine

/-! ### The packet, 03 Table 3-2 -/

/-- A field of a packet. -/
def Job.field (j : Job) (lo n : Nat) : Nat := (j.packet.extractLsb' lo n).toNat
/-- The VA in a field of bits [56:6]. -/
def Job.va (j : Job) (lo : Nat) : Nat := j.field lo 51 * 64
def Job.image (j : Job) : Nat := j.va 0
def Job.nstrand (j : Job) : Nat := j.field 51 13
def Job.repl (j : Job) : Bool := j.packet.getLsbD 357
def Job.logat (j : Job) : Bool := j.packet.getLsbD 358

/-- The ranges that a kernel image header names, 03 Table 3-3. -/
def headerRanges (h : BitVec 512) : Ranges where
  idxbase := h.extractLsb' 32 16
  idxlen := h.extractLsb' 48 16
  dictbase := h.extractLsb' 0 12
  dictlen := h.extractLsb' 16 13

/-- NPARAM of a header. -/
def headerParams (h : BitVec 512) : Nat := (h.extractLsb' 64 6).toNat

/-- The offset of the index stream in an image, and the image's size (03 R40). -/
def indexOffset (r : Ranges) : Nat := (64 + 48 * r.dictlen.toNat + 63) / 64 * 64
def imageBytes (r : Ranges) : Nat := indexOffset r + 2 * r.idxlen.toNat

/-! ### Requests of the command processor, 09 R171 -/

/-- A request of the command processor parks at a VA for job `seq`, or for the packet of a queue. -/
def State.cpPark (s : State) (asid : BitVec 16) (va : Nat) (write : Bool) (seq queue : Nat) : State :=
  let e : CpPark := ⟨asid, va / 65536, write, seq, queue, s.parks⟩
  let s := if s.cpParked.any (fun x => { x with arrival := s.parks } == e) then s
    else { s with cpParked := s.cpParked ++ [e], parks := s.parks + 1 }
  s.pageFault asid (BitVec.ofNat 57 va) write false 0 5 ⟨seq, 0⟩

/-- What blocks a request of the command processor: it parks where a translation is missing, and behind a migration it
waits. -/
def State.cpBlocked (s : State) (asid : BitVec 16) (write : Bool) (seq queue : Nat) : Blocked → State
  | .missing va => s.cpPark asid va write seq queue
  | .waits => s

/-- The command processor's requests for a job, or for a queue's packet, are no longer parked. -/
def State.cpUnpark (s : State) (seq queue : Nat) : State :=
  { s with cpParked := s.cpParked.filter fun e => !(e.seq == seq && e.queue == queue) }

/-- Reads n bytes at a VA for the command processor; `bad` follows an uncorrectable error. -/
def State.cpRead (s : State) (asid : BitVec 16) (va n seq queue : Nat) (bad : State → State)
    (k : List Byte → State → State) : State :=
  match s.blocked asid false va n with
  | some b => s.cpBlocked asid false seq queue b
  | none =>
    let t := (s.cpUnpark seq queue).countRead asid va n
    match s.bytesAt asid va n with
    | some bs => k bs t
    | none => bad t

/-- Writes bytes at a VA for the command processor. -/
def State.cpWrite (s : State) (asid : BitVec 16) (va : Nat) (bs : List Byte) (seq queue : Nat) (k : State → State) : State :=
  match s.blocked asid true va bs.length with
  | some b => s.cpBlocked asid true seq queue b
  | none => let t := s.cpUnpark seq queue; k ((t.putAt asid va bs).getD t)

/-! ### Removing strands -/

/-- What strand i has in the matrix engine of core k is dropped without a drain: its commands not yet executed, its
reductions, and its drains that have not started or that stand stopped (09 R174, 15 R249). -/
def State.dropMatrix (s : State) (i : StrandId) (k : Nat) : State :=
  let running := (s.core k).drains
  let s := { s with ops := s.ops.filter fun o => !(o.core == k && o.owner == i && (match o.kind with
    | .mmac _ => true
    | .drain d => d.stopped || !running.contains o.id
    | _ => false)) }
  let s := s.modCore k fun c => { c with
    sets := c.sets.map fun (n, a) => (n, { a with reds := a.reds.filter fun r => r.owner != i })
    fetchEnd := if c.engine == some i then 0 else c.fetchEnd
    drains := c.drains.filter fun d => (s.op d).isSome }
  if (s.core k).engine == some i then s.releaseEngine k else s

/-- The core that a strand is on or is saved for. -/
def State.coreOfStrand (s : State) (i : StrandId) : Option Nat :=
  match s.strand i with
  | some { st := .resident c, .. } => some (coreOf c)
  | some { saved := some w, .. } => some w.core
  | some x => x.core
  | none => none

/-- The results that a strand still awaits go nowhere. -/
def State.dropResults (s : State) (i : StrandId) : State :=
  { s with ops := (s.ops.filter fun o => !(o.owner == i && (match o.kind with | .result _ | .noResult => true | _ => false))).map fun o =>
      if o.owner == i then { o with dest := none } else o }

/-- The faults that heads hold for a strand are dropped. -/
def State.dropFaults (s : State) (i : StrandId) : State :=
  match s.coreOfStrand i with
  | none => s
  | some k => (upto 16).foldl (fun s h => match (s.head k h).fault with
    | some (_, j) => if j = i then s.modHead k h fun x => { x with fault := none } else s
    | none => s) s

/-- A strand leaves its context, or its save, with no drain, for state `st`. -/
def State.takeOff (s : State) (i : StrandId) (st : StrandSt) : State :=
  let s := ((s.abortOf i).dropResults i).dropDebug i
  let s := match s.coreOfStrand i with
    | some k => (s.dropFaults i).dropMatrix i k
    | none => s
  let s := match s.ctxOf i with
    | some c => s.setCtx c {}
    | none => s
  s.modStrand i fun x => { x with st := st, saved := none }

/-- The strands of a job that stand in a context or in a save come off it and are Pending again (15 R249 step 1). -/
def State.removeStrands (s : State) (seq : Nat) : State :=
  match findJob seq s.jobs with
  | none => s
  | some j => (upto j.strands.length).foldl (fun s n => match j.strands[n]? with
    | some x => if x.live then s.takeOff ⟨seq, n⟩ .pending else s
    | none => s) s

/-! ### The write set, 15 R248 -/

/-- A write-set entry from its 16 bytes: first line, lines, kind. -/
def wsetEntry (bs : List Byte) : Option (Nat × Nat × Nat) :=
  let w := BitVec.ofNat 128 (leNat bs)
  let va := (w.extractLsb' 0 57).toNat
  let len := (w.extractLsb' 64 32).toNat
  let kind := (w.extractLsb' 96 2).toNat
  if w.extractLsb' 57 7 != 0#7 || w.extractLsb' 98 30 != 0#30 || va % 64 != 0 || len = 0 || kind = 0 || kind = 3 then none
  else some (va, len, kind)

/-- The entries of a write set; none when it is not valid. -/
def wsetEntries : Nat → List Byte → Option (List (Nat × Nat × Nat))
  | 0, _ => some []
  | n + 1, bs =>
    match wsetEntry (bs.take 16), wsetEntries n (bs.drop 16) with
    | some e, some l => some (e :: l)
    | _, _ => none

/-- The lines of the INPLACE regions. -/
def inplaceLines (l : List (Nat × Nat × Nat)) : List Nat :=
  (l.filter fun e => e.2.2 = 2).flatMap fun e => (upto e.2.1).map fun i => e.1 + 64 * i

/-- The snapshot store's bytes in use: the regions of the jobs that hold one (log 15). -/
def State.snapshotUsed (s : State) : Nat :=
  (s.jobs.filter fun j => !j.completed).foldl (fun n j => n + 64 * j.wset.length) 0

/-- The lines of a job's INPLACE regions; none when its write set is not valid or cannot be read (15 R248). -/
def State.wsetLines (s : State) (j : Job) : Except Blocked (Option (List Nat)) :=
  let w := j.va 256
  let entries (n : Nat) : Except Blocked (Option (List Nat)) :=
    match s.blocked j.tenant false (w + 16) (16 * n) with
    | some b => .error b
    | none => .ok (((s.bytesAt j.tenant (w + 16) (16 * n)).bind (wsetEntries n)).map inplaceLines)
  if !j.repl || j.field 256 51 = 0 then .ok none
  else match s.blocked j.tenant false w 16, s.bytesAt j.tenant w 16 with
    | some b, _ => .error b
    | none, none => .ok none
    | none, some h =>
      let head := BitVec.ofNat 128 (leNat h)
      if head.extractLsb' 8 120 != 0#120 then .ok none else entries (head.extractLsb' 0 8).toNat

/-- The requests of the read of a job's write set (14 R228, R236). -/
def State.countWset (s : State) (j : Job) : State :=
  let t := s.countRead j.tenant (j.va 256) 16
  if !j.repl || j.field 256 51 = 0 then s
  else match s.bytesAt j.tenant (j.va 256) 16 with
    | some h => if leNat h < 256 then t.countRead j.tenant (j.va 256 + 16) (16 * leNat h) else t
    | none => t

/-- The copies of the INPLACE regions, when the write set is valid and they fit; none makes the job not replayable. -/
def State.snapshot (s : State) (j : Job) : Except Blocked (Option (List (Nat × BitVec 512))) :=
  match s.wsetLines j with
  | .error b => .error b
  | .ok none => .ok none
  | .ok (some lines) =>
    if s.fab.recsize.toNat * 65536 < s.snapshotUsed + 64 * lines.length then .ok none
    else match lines.findSome? (s.lineBlocked j.tenant false) with
      | some b => .error b
      | none =>
        let got := lines.map fun va => (va, s.bytesAt j.tenant va 64)
        .ok (if got.any fun x => x.2.isNone then none else some (got.map fun x => (x.1, lineBits (x.2.getD []))))

/-- Restores every INPLACE region of a job (15 R249 step 2). -/
def State.restoreInplace (s : State) (j : Job) : State :=
  j.wset.foldl (fun s (va, b) => (s.putAt j.tenant va (bitsLine b)).getD s) s

/-! ### Interruption -/

/-- The stack that homes a recovery region. -/
def recStack (base : BitVec 57) : Nat := homeOf (base.toNat / 65536)

/-- A copy of the launch record, the snapshots and the journal survives. -/
def State.copySurvives (s : State) : Bool :=
  !(s.mem.offline.getLsbD (recStack s.fab.recbase0)) || !(s.mem.offline.getLsbD (recStack s.fab.recbase1))

/-- The line of a VA is lost: uncorrectable, or in a stack that is offline. One whose translation is missing is not. -/
def State.lineLost (s : State) (asid : BitVec 16) (va : Nat) : Bool :=
  match s.placeOf asid (BitVec.ofNat 57 va) false, s.xlate asid (BitVec.ofNat 57 va) with
  | some p, _ => !p.held && s.badPlace p
  | none, some w => !w.getLsbD 4 && s.mem.tierOf (pteAddr w) != 0 && s.mem.offline.getLsbD (homeOf (pteAddr w))
  | none, none => false

/-- A line of n bytes at a VA is lost. -/
def State.lost (s : State) (asid : BitVec 16) (va n : Nat) : Bool :=
  (upto ((va % 64 + n + 63) / 64)).any fun i => s.lineLost asid (va / 64 * 64 + 64 * i)

/-- The member list of the group table's entry at a VA is lost. -/
def State.membersLost (s : State) (asid : BitVec 16) (va : Nat) : Bool :=
  match s.bytesAt asid va 16 with
  | some bs => let e := BitVec.ofNat 128 (leNat bs); s.lost asid (e.extractLsb' 0 57).toNat (2 * (e.extractLsb' 64 13).toNat)
  | none => false

/-- The job's image, group table with its member lists, parameter block and unwritten inputs survive. DESIGN CHOICE (log 15): the
part is not told what a job's inputs are, so whether they all survive the loss of a stack or of a line is open. -/
def State.inputsSurvive (s : State) (j : Job) : Bool :=
  !s.lost j.tenant j.image (imageBytes (headerRanges j.header))
  && !s.lost j.tenant (j.va 64) (16 * j.groups.length)
  && !((upto j.groups.length).any fun i => s.membersLost j.tenant (j.va 64 + 16 * i))
  && !s.lost j.tenant (j.va 128) (8 * headerParams j.header)
  && (s.mem.offline = 0#16 && s.mem.bad.isEmpty || Config.free (2 ^ 60 + s.mem.offline.toNat) j.seq % 2 = 1)

/-- A job is replayable, 15 R249. -/
def State.replayable (s : State) (j : Job) : Bool :=
  j.repl && j.wsetOk && s.copySurvives && s.inputsSurvive j && decide (j.reruns < 3) && !j.irrevocable

/-- A job that has not started starts as it would have: it will be replayable (15 R249), as far as its write set can be read. -/
def State.startable (s : State) (j : Job) : Bool :=
  j.repl && (match s.snapshot j with | .ok none => false | _ => true) && s.copySurvives && s.inputsSurvive j

/-- A job's status becomes `code` unless a status of 0x20 or above applies already. -/
def Job.fail (j : Job) (code : Nat) : Job := { j with status := if 0x20 ≤ j.status then j.status else code }

/-- A job ends without running on: its strands are removed, its Pending strands are not placed, and it completes with
`code` once its children and its operations have (15 R247). -/
def State.endJob (s : State) (seq code : Nat) : State :=
  (s.removeStrands seq).modJob seq fun j => { j.fail code with removed := true, rerun := false }

/-- The children of a job that have not completed, and their children, to a depth. -/
def State.descendants (s : State) : Nat → Nat → List Nat
  | 0, _ => []
  | d + 1, seq =>
    match findJob seq s.jobs with
    | none => []
    | some j => (j.children.filter fun c => match findJob c s.jobs with | some x => !x.completed | none => false).flatMap
        fun c => c :: s.descendants d c

/-- A job's strands come off, and a re-run follows (15 R249). -/
def State.again (s : State) (seq : Nat) : State := (s.removeStrands seq).modJob seq fun x => { x with rerun := true }

/-- The re-run of its parent takes a job's strands, if it has some in contexts or saves: the job is re-run too, or ends
(15 R247, R249). -/
def State.againBelow (s : State) (seq : Nat) : State :=
  match findJob seq s.jobs with
  | none => s
  | some j =>
    if !j.started || j.removed || !j.strands.any (·.live) then s
    else if s.replayable j then s.again seq
    else s.endJob seq 0x21

/-- An interruption of a job, 15 R247: a replayable job's strands and its children's strands come off and a re-run
follows, or it starts as it would have; any other job ends with `code`. -/
def State.interrupt (s : State) (seq code : Nat) : State :=
  match findJob seq s.jobs with
  | none => s
  | some j =>
    if j.completed || j.removed || j.rerun then s
    else if !j.started then (if s.startable j then s else (s.modJob seq fun x => { x with started := true }).endJob seq code)
    else if s.replayable j then
      (s.descendants 16 seq).foldl (fun s q => s.againBelow q) (s.again seq)
    else s.endJob seq code

/-- A strand is Lost (09 R174): an event record of kind 3; its context is free; its job is re-run or completes with
LOST_AT_SAVE. DESIGN CHOICE (log 28): the record's CAUSE is 0x3F, MACHINE_CHECK; Table 9-4 names none for the kind. -/
def State.loseStrand (s : State) (i : StrandId) (slot : Nat) : State :=
  let k := (s.coreOfStrand i).getD 0
  ((s.takeOff i .lost).record { va := BitVec.ofNat 57 slot, kind := 3#4, asid := s.tenantOf i, core := BitVec.ofNat 7 k
                                engine := 6#4, cause := cMachineCheck, strand := BitVec.ofNat 13 i.idx
                                seq := BitVec.ofNat 56 i.seq }).interrupt i.seq 0x20

/-- The jobs with a strand on a core. -/
def State.jobsOn (s : State) (k : Nat) : List Nat :=
  (s.jobs.filter fun j => (upto j.strands.length).any fun n => match j.strands[n]? with
    | some x => x.live && s.coreOfStrand ⟨j.seq, n⟩ == some k
    | none => false).map (·.seq)

/-- A core goes offline (15 R247). -/
def State.coreOffline (s : State) (k : Nat) : State :=
  (s.jobsOn k).foldl (fun s q => s.interrupt q 0x21) (s.modCore k fun c => { c with offline := true })

/-- STATE_MACHINE_CHECK, 09 R175: the Resident strand is Lost without a save. Whether the core goes offline then is open. -/
def execStateMachineCheck (ctx : BitVec 9) (s : State) : Out :=
  let c := ctx.toNat
  .next (match (s.ctx c).strand with
    | none => s
    | some i =>
      if s.ctxOf i != some c then s else
      let t := s.loseStrand i (s.ctx c).sr.xsave.toNat
      if Config.free s.tick 1 % 2 = 1 then t.coreOffline (coreOf c) else t)

/-! ### The re-run -/

/-- WCLAIM at a VA becomes 0; the write parks behind a migration (14 R237). -/
def State.releaseClaim (s : State) (t : BitVec 16) (va : Nat) : State :=
  let a := BitVec.ofNat 57 va
  match s.putAt t va (List.replicate 8 0#8), s.placeOf t a true with
  | some u, _ => u
  | none, some p =>
    if p.held then s
    else (s.enterReq t a p).parkRequest
      { frame := p.frame.getD 0, line := va % 65536 / 64, op := 0, write := true, key := tlbKey t a
        act := some (129, .write (255#64 <<< (va % 64)) 0#512) }
  | none, none => s

/-- Closes, as HCLOSE would, the heads that a job left open, releasing its claims (03 R62). -/
def State.closeHeads (s : State) (seq : Nat) (tenant : BitVec 16) : State :=
  s.cores.foldl (fun s (k, _) => (upto 16).foldl (fun s h =>
    let x := s.head k h
    if x.mode = 0 || x.job != seq then s
    else
      let s := if x.mode = 1 || x.opening then s else s.releaseClaim tenant (x.descVa / 64 * 64 + 40)
      s.modHead k h (·.freed)) s) s

/-- What blocks the release of a claim that a job left open. -/
def State.claimsBlocked (s : State) (seq : Nat) (tenant : BitVec 16) : Option Blocked :=
  s.cores.findSome? fun (k, _) => (upto 16).findSome? fun h =>
    let x := s.head k h
    if x.mode = 0 || x.mode = 1 || x.opening || x.job != seq then none
    else s.lineBlocked tenant true (x.descVa / 64 * 64 + 40)

/-- An ABORT has ended the release of a job's claims on a page: their heads are free without it (09 R171). -/
def State.dropClaims (s : State) (seq page : Nat) : State :=
  s.cores.foldl (fun s (k, _) => (upto 16).foldl (fun s h =>
    let x := s.head k h
    if x.mode != 0 && x.job = seq && x.descVa / 65536 = page then s.modHead k h (·.freed) else s) s) s

/-- Unbinds the named barriers of a job (06 R118). -/
def State.unbindAll (s : State) (seq : Nat) : State :=
  let t := s.cores.foldl (fun s (k, _) => s.modCore k fun c => { c with bars := c.bars.filter fun x => x.2.1 != seq }) s
  { t with nets := t.nets.filter fun n => n.job != seq }

/-- The operations of a job go, and with them what held others back for them. -/
def State.dropOps (s : State) (seq : Nat) : State :=
  let t := { s with ops := s.ops.filter fun o => o.owner.seq != seq }
  t.cores.foldl (fun t (k, _) => t.modCore k fun c => { c with
    holes := c.holes.filter fun h => (t.op h.1).isSome
    packed := c.packed.filter fun p => p.open_.all fun x => (t.op x.1).isSome }) t

/-- A job starts again, its parameter words read anew (15 R249). -/
def Job.restarted (j : Job) (params : List Word) : Job :=
  { j with rerun := false, reruns := j.reruns + 1, issued := [], colls := [], aborted := [], params := params
           strands := j.strands.map fun y => { triggered := y.triggered } }

/-- The parameter words of a job from their bytes. -/
def Job.paramWords (j : Job) (bs : List Byte) : List Word :=
  (upto (headerParams j.header)).map fun p => BitVec.ofNat 64 (leNat ((bs.drop (8 * p)).take 8))

/-- JOB_RERUN, 15 R249: once what the removed strands had started has performed; the strands start again as R37 gives. A job
that is no longer replayable ends with NON_REPLAYABLE_PARTIAL (R247). -/
def execJobRerun (seq : Nat) (s : State) : Out :=
  .next (match findJob seq s.jobs with
    | none => s
    | some j =>
      if !j.rerun || s.working seq then s
      else if !s.replayable j then s.endJob seq 0x21
      else match s.claimsBlocked seq j.tenant, (j.wset.map (·.1)).findSome? (s.lineBlocked j.tenant true) with
        | some b, _ | none, some b => s.cpBlocked j.tenant true seq 0 b
        | none, none =>
          s.cpRead j.tenant (j.va 128) (8 * headerParams j.header) seq 0 (fun s => s.endJob seq 0x21) fun bs s =>
            let s := (((s.dropOps seq).closeHeads seq j.tenant).unbindAll seq).restoreInplace j
            s.modJob seq (·.restarted (j.paramWords bs)))

/-! ### Ports, 15 R241 -/

/-- The started jobs with a group whose traffic needs the path through port p. -/
def State.fabJobs (s : State) (p : Nat) : List Nat :=
  (s.jobs.filter fun j => j.started && !j.completed
    && ((upto j.groups.length).zip j.groups).any fun (g, x) => s.needsPath p j g x).map (·.seq)

/-- A port goes down: its flits go over another up port of its tower, when one reaches the same neighbour, which is open;
otherwise what needs the path ends with reason 1, and the jobs of its groups are interrupted. -/
def State.portDown (s : State) (p : Nat) : State :=
  let up := withBit s.fab.portup p false
  let s := { s with fab := { s.fab with portup := up, retries := mset 0 s.fab.retries p 0 } }
  let others := (upto 8).any fun q => up.getLsbD (p / 8 * 8 + q)
  if others && Config.free s.tick p % 2 = 1 then s
  else
    let s := s.abortPaths p
    (s.fabJobs p).foldl (fun s q => s.interrupt q 0x21) s

/-- PORT_DOWN. -/
def execPortDown (port : BitVec 4) (s : State) : Out :=
  .next (if s.fab.portup.getLsbD port.toNat then s.portDown port.toNat else s)

/-- LINK_RETRY: a resent flit passes or fails its check; the 16th failure in a row takes the port down. -/
def execLinkRetry (port : BitVec 4) (s : State) : Out :=
  .next (
    let p := port.toNat
    let n := mget 0 s.fab.retries p + 1
    if !s.fab.portup.getLsbD p then s
    else if Config.free s.tick (100 + p) % 2 = 0 then { s with fab := { s.fab with retries := mset 0 s.fab.retries p 0 } }
    else if 16 ≤ n then s.portDown p
    else { s with fab := { s.fab with retries := mset 0 s.fab.retries p n } })

end Sys2Proof.Machine
end

