-- ==== Sys2Proof/Machine/Jobs.lean ====
section
/-! DEFINITION. The command processor: the checks of a packet (03 R38 to R44), admission (R47 to R49), the start of a job
(R50, 15 R248), placement (03 R35, R37, R42, R51, R52), and completion (R48, R60, R62, 17 R260). -/

namespace Sys2Proof.Machine

/-! ### Rings and completion records -/

/-- The entries of a ring of LOG2N. -/
def ringSize (log2n : Nat) : Nat := 2 ^ (log2n + 4)

/-- A queue's registers: 0 to 255 host queues, 256 to 319 device-side queues. -/
def State.queueRegs (s : State) (q : Nat) : QueueRegs := mget {} s.queues q
/-- The state with a queue's registers changed. -/
def State.modQueue (s : State) (q : Nat) (f : QueueRegs → QueueRegs) : State :=
  { s with queues := mset {} s.queues q (f (s.queueRegs q)) }

/-- N of a queue. -/
def QueueRegs.n (r : QueueRegs) : Nat := ringSize r.log2n.toNat

/-- A completion record, 03 R48. -/
def completionRecord (seq status slot : Nat) (dtime : Word) : List Byte :=
  leBytes 16 (seq + status * 2 ^ 56 + slot * 2 ^ 64 + dtime.toNat % 2 ^ 48 * 2 ^ 80)

/-- A completion: the record, then CQWR, then the interrupt; without a completion ring, no record. It parks where the
ring's page has no translation. -/
def State.complete (s : State) (q slot seq status : Nat) (k : State → State) : State :=
  let r := s.queueRegs q
  let next (s : State) : State :=
    let s := s.modQueue q fun r => { r with
      cqwr := BitVec.ofNat 16 ((r.cqwr.toNat + 1) % r.n), unread := if r.cqbase = 0#57 then 0 else r.unread + 1 }
    k (if r.ien then { s with signals := s.signals ++ [.msix r.vector.toNat] } else s)
  if r.cqbase = 0#57 then next s
  else
    s.cpWrite r.tenant (r.cqbase.toNat + 16 * r.cqwr.toNat) (completionRecord seq status slot s.dtime) seq q next

/-! ### The checks of a packet -/

/-- What a packet comes from: its queue's tenant and function, its parent for LAUNCH, its priority cap and its depth. -/
structure Source39 where
  tenant : BitVec 16
  cap : Nat
  pf : Bool
  depth : Nat := 0
  parent : Option StrandId := none

/-- BAD_PACKET, 03 Table 3-5, but for ENTRY. -/
def badPacket (p : BitVec 512) (src : Source39) (relative : Bool) : Bool :=
  let f (lo n : Nat) : Nat := (p.extractLsb' lo n).toNat
  f 179 13 != 0 || f 243 13 != 0 || f 307 13 != 0 || f 444 4 != 0 || f 508 4 != 0
  || f 51 13 = 0 || 4096 < f 51 13 || 256 < f 115 9 || 23 < f 352 5
  || f 124 4 < 4 || 8 < f 124 4 || 2 < f 440 4 || 2 < f 504 4 || f 368 16 = 0 || f 360 8 = 0
  || 15 < src.depth || p.getLsbD 359 && !src.pf && !relative

/-- BAD_IMAGE, 03 R40. -/
def badImage (h : BitVec 512) : Bool :=
  let f (lo n : Nat) : Nat := (h.extractLsb' lo n).toNat
  let np := f 64 6
  let pregs := (upto (Nat.min np 48)).map fun j => f (128 + 8 * j) 6
  4096 < f 0 12 + f 16 13 || f 16 13 = 0 || f 48 16 = 0 || 48 < np || 32768 < f 32 16 % 32768 + f 48 16
  || pregs.contains 0 || pregs.eraseDups.length != pregs.length
  || f 12 4 != 0 || f 29 3 != 0 || f 70 58 != 0 || (upto 48).any fun j => f (128 + 8 * j + 6) 2 != 0

/-- A group of a table entry and its member list; none for BAD_GROUP (03 R43, R44). -/
def parseGroup (e : BitVec 128) (members : List Nat) (nstrand : Nat) : Option Group :=
  let count := (e.extractLsb' 64 13).toNat
  let scope := (e.extractLsb' 80 4).toNat
  let gang := e.getLsbD 84
  let unit : Nat := match scope with | 1 => 4 | 2 => 32 | 3 => 256 | 4 | 7 => 512 | _ => 4096
  if e.extractLsb' 57 7 != 0#7 || e.extractLsb' 77 3 != 0#3 || e.extractLsb' 85 43 != 0#43
    || count = 0 || nstrand < count || (members.any fun m => nstrand ≤ m) || members.eraseDups.length != members.length
    || !([0, 1, 2, 3, 4, 7].contains scope) || scope = 0 && count != 1 || gang && unit < count
  then none else some ⟨scope, gang, members⟩

/-- The group table of a packet: n entries from a VA on. -/
def State.groupTable (s : State) (t : BitVec 16) (nstrand : Nat) : Nat → Nat → Option (List Group)
  | 0, _ => some []
  | n + 1, va =>
    match s.bytesAt t va 16 with
    | none => none
    | some bs =>
      let e := BitVec.ofNat 128 (leNat bs)
      let count := (e.extractLsb' 64 13).toNat
      match s.bytesAt t (e.extractLsb' 0 57).toNat (2 * count) with
      | none => none
      | some ms =>
        match parseGroup e ((upto count).map fun i => leNat ((ms.drop (2 * i)).take 2)) nstrand, s.groupTable t nstrand n (va + 16) with
        | some g, some l => some (g :: l)
        | _, _ => none

/-- What blocks the read of a group table. -/
def State.groupsBlocked (s : State) (t : BitVec 16) : Nat → Nat → Option Blocked
  | 0, _ => none
  | n + 1, va =>
    match s.blocked t false va 16 with
    | some b => some b
    | none =>
      let e := BitVec.ofNat 128 (leNat ((s.bytesAt t va 16).getD []))
      match s.blocked t false (e.extractLsb' 0 57).toNat (2 * (e.extractLsb' 64 13).toNat) with
      | some b => some b
      | none => s.groupsBlocked t n (va + 16)

/-- A page of the save area is mapped, writable and pinned; a host page is pinned by its host (log 16). -/
def State.pinned (s : State) (t : BitVec 16) (va : Nat) : Bool :=
  match s.placeOf t (BitVec.ofNat 57 va) true with
  | none => false
  | some p => match p.frame with
    | some f => chPin (s.mem.entry f)
    | none => true

/-- The pages of the save area of n strands. -/
def savePages (va n : Nat) : List Nat :=
  (upto ((va % 65536 + 24576 * n + 65535) / 65536)).map fun i => (va / 65536 + i) * 65536

/-- The gang union of a strand: the closure of its gang groups (03 R52), by `fuel` rounds. -/
def gangUnion (gs : List Group) : Nat → List Nat → List Nat
  | 0, l => l
  | fuel + 1, l =>
    let l' := (l ++ (gs.filter fun g => g.gang && g.members.any l.contains).flatMap (·.members)).eraseDups
    if l'.length = l.length then l else gangUnion gs fuel l'

/-- The unit of a scope that holds a core (03 R44): all cores for CTX, PKG and FAB. -/
def unitOf (scope core : Nat) : Nat :=
  match scope with | 1 => core | 2 => core / 8 | 3 => core / 64 | _ => 0

/-- CLUSEL and CORESEL allow a core. -/
def allowedCore (p : BitVec 512) (k : Nat) : Bool := p.getLsbD (368 + k / 8) && p.getLsbD (360 + k % 8)

/-- The cores that a packet allows. -/
def allowedCores (p : BitVec 512) : List Nat := (upto 128).filter (allowedCore p)

/-- PLACE_NEVER, 03 Table 3-5. -/
def placeNever (p : BitVec 512) (gs : List Group) : Bool :=
  let cores := allowedCores p
  (gs.filter (·.gang)).any fun g =>
    let u := gangUnion gs gs.length g.members
    4 * cores.length < u.length
    || gs.any fun x => x.gang && x.members.any u.contains && (x.scope == 1 || x.scope == 2 || x.scope == 3)
      && !(cores.any fun k => x.members.length ≤ 4 * (cores.filter fun c => unitOf x.scope c == unitOf x.scope k).length)

/-- What the checks of a packet find: accepted with its header and groups, rejected with a status, or a line of the tenant's
space that cannot be reached now. -/
inductive Checked where
  | ok (header : BitVec 512) (groups : List Group)
  | bad (status : Nat)
  | blocked (b : Blocked)

/-- The checks of 03 R39 in the order of Table 3-5. `relative`: the dependence fields are those of a schedule packet
(17 R260), and the Timetable is the source. DESIGN CHOICE (log 16): an image header that an uncorrectable error hides is
BAD_IMAGE, and such a group table or member list BAD_GROUP; the spec gives no status for them. -/
def State.checkPacket (s : State) (p : BitVec 512) (src : Source39) (relative : Bool) : Checked :=
  let f (lo n : Nat) : Nat := (p.extractLsb' lo n).toNat
  let t := src.tenant
  let image := f 0 51 * 64
  let dep (lo kind : Nat) : Bool := f kind 4 != 0 && s.nextSeq ≤ f lo 56
  if badPacket p src relative then .bad 1
  else match s.blocked t false image 64 with
    | some b => .blocked b
    | none =>
      match s.bytesAt t image 64 with
      | none => .bad 2
      | some hb =>
        let h := lineBits hb
        if (h.extractLsb' 48 16).toNat ≤ f 320 16 then .bad 1
        else if badImage h then .bad 2
        else match s.groupsBlocked t (f 115 9) (f 64 51 * 64) with
          | some b => .blocked b
          | none =>
            match s.groupTable t (f 51 13) (f 115 9) (f 64 51 * 64) with
            | none => .bad 3
            | some gs =>
              if (upto (f 51 13)).any fun i => 4 < (gs.filter fun g => g.members.contains i).length then .bad 4
              else if (savePages (f 192 51 * 64) (f 51 13)).any fun va => !s.pinned t va then .bad 5
              else if !relative && (dep 384 440 || dep 448 504) then .bad 6
              else if placeNever p gs then .bad 7
              else .ok h gs

/-- The regions that the checks of a group table read: the entries, and their member lists. -/
def State.groupReads (s : State) (t : BitVec 16) (n va : Nat) : List (Nat × Nat) :=
  (va, 16 * n) :: (upto n).filterMap fun i => (s.bytesAt t (va + 16 * i) 16).map fun bs =>
    let e := BitVec.ofNat 128 (leNat bs)
    ((e.extractLsb' 0 57).toNat, 2 * (e.extractLsb' 64 13).toNat)

/-- The requests of the checks of a packet (14 R228, R236): the image's header, and once that stands the group table. -/
def State.countPacket (s : State) (p : BitVec 512) (src : Source39) (relative : Bool) : State :=
  let f (lo n : Nat) : Nat := (p.extractLsb' lo n).toNat
  let t := src.tenant
  let image := f 0 51 * 64
  let u := s.countRead t image 64
  if badPacket p src relative then s
  else match s.bytesAt t image 64 with
    | some hb =>
      let h := lineBits hb
      if (h.extractLsb' 48 16).toNat ≤ f 320 16 || badImage h then u
      else (s.groupReads t (f 115 9) (f 64 51 * 64)).foldl (fun u x => u.countRead t x.1 x.2) u
    | none => u

/-! ### Admission -/

/-- An accepted packet in the launch record; the host learns when it takes the last sequence number (03 R49). -/
def State.accept (s : State) (p : BitVec 512) (src : Source39) (queue : Option Nat) (slot : Nat) (h : BitVec 512)
    (gs : List Group) : State :=
  let prio := Nat.min (p.extractLsb' 352 5).toNat src.cap
  let j : Job := { seq := s.nextSeq, written := s.dtime, packet := p, queue := queue, slot := slot, tenant := src.tenant, prio := prio
                   depth := src.depth, parent := src.parent, groups := gs, header := h
                   strands := List.replicate (p.extractLsb' 51 13).toNat {} }
  let s := { s with
    jobs := s.jobs ++ [j], nextSeq := s.nextSeq + 1
    signals := if s.nextSeq + 1 = 2 ^ 56 then s.signals ++ [.event] else s.signals }
  match src.parent with
  | some i => s.modJob i.seq fun x => { x with children := x.children ++ [j.seq] }
  | none => s

/-- LAUNCH's operation whose packet stands in a slot of a queue. -/
def State.launchAt (s : State) (q slot : Nat) : Option Op :=
  s.ops.find? fun o => match o.kind with
    | .launch _ n _ _ _ (some k) => 256 + n == q && k == slot
    | _ => false

/-- The source of a packet in a slot of a queue. The tenant of a queue with TENANT 0xFFFF is the packet's (03 R46). -/
def State.source (s : State) (q slot : Nat) (p : BitVec 512) : Source39 :=
  let r := s.queueRegs q
  match s.launchAt q slot with
  | some o =>
    match findJob o.owner.seq s.jobs, o.kind with
    | some j, .launch _ _ pl _ _ _ => { tenant := j.tenant, cap := j.prio, pf := pl == 1#2, depth := j.depth + 1, parent := some o.owner }
    | _, _ => { tenant := r.tenant, cap := r.priocap.toNat, pf := false }
  | none =>
    let pf := 256 ≤ q || mget 0#6 s.assign q = 0#6
    { tenant := if pf && r.tenant = 0xFFFF#16 then p.extractLsb' 336 16 else r.tenant, cap := r.priocap.toNat, pf := pf && q < 256 }

/-- The result of a LAUNCH is journalled, while the job's journal has room (15 R250). -/
def Job.logLaunch (j : Job) (now : Word) (strand : Nat) (entry : Option Nat) (va queue : Nat) (v : Word) : Job :=
  match entry with
  | some k => if j.journal.length < 65536 then { j with journal := j.journal ++ [⟨strand, true, k, va, queue, v, now⟩] } else j
  | none => j

/-- LAUNCH's result reaches its strand, and is journalled in a replayable job (15 R250, 21 R309). -/
def State.launched (s : State) (q slot : Nat) (v : Word) : State :=
  match s.launchAt q slot with
  | none => s
  | some o =>
    let s := (s.deliver o.owner o.dest (.word v)).endOp o.id
    match o.kind with
    | .launch va n _ entry _ _ => s.modJob o.owner.seq (·.logLaunch s.dtime o.owner.idx entry va n v)
    | _ => s

/-- A queue's turn may take a packet: enabled, a packet pending, and room for its completion (03 R49). -/
def State.admits (s : State) (q : Nat) : Bool :=
  let r := s.queueRegs q
  let open_ := (s.jobs.filter fun j => j.queue == some q && !j.completed).length
  r.enable && !r.stopped && r.sqwr != r.sqrd && (r.cqbase == 0#57 || open_ + r.unread < r.n)

/-- The queue whose turn it is: the first from the rotation's place on that may take one (03 R49). -/
def State.turnOf (s : State) : Option Nat :=
  ((s.queues.map (·.1)).filter (s.rot ≤ ·) ++ (s.queues.map (·.1)).filter (· < s.rot)).find? s.admits

/-- Admission may go on: the launch record is in use (15 R252) and sequence numbers are left (03 R49). -/
def State.admitting (s : State) : Bool := s.fab.recen && decide (s.nextSeq < 2 ^ 56) && !s.tt.full

/-- A packet read for queue q is held no longer. -/
def State.dropPacket (s : State) (q : Nat) : State := { s with packets := s.packets.filter (·.1 != q) }

/-- The packet in slot SQRD of a queue, read once (03 R38): as it was read, where an earlier try at its admission had to wait.
DESIGN CHOICE (log 16): one that an uncorrectable error hides is taken for zeros, which are BAD_PACKET. -/
def State.withPacket (s : State) (q : Nat) (k : BitVec 512 → State → State) : State :=
  let r := s.queueRegs q
  match s.packets.find? (·.1 == q) with
  | some (_, p) => k p (s.cpUnpark 0 q)
  | none =>
    let got (p : BitVec 512) (s : State) : State := k p { s with packets := s.packets ++ [(q, p)] }
    s.cpRead r.tenant (r.sqbase.toNat + 64 * r.sqrd.toNat) 64 0 q (got 0#512) fun bs => got (lineBits bs)

/-- The packet of a queue leaves its ring, and the next queue has its turn. -/
def State.passSlot (s : State) (q : Nat) : State :=
  { (s.dropPacket q).modQueue q (fun r => { r with sqrd := BitVec.ofNat 16 ((r.sqrd.toNat + 1) % r.n) }) with rot := (q + 1) % 320 }

/-- The packet in slot SQRD of a queue is rejected with a status; `k` counts what its checks have read. -/
def State.reject (s : State) (q status : Nat) (k : State → State := id) : State :=
  let slot := (s.queueRegs q).sqrd.toNat
  s.complete q slot 0 status fun s =>
    ((k s).launched q slot (0x8000000000000000#64 ||| BitVec.ofNat 64 status)).passSlot q

/-- JOB_ADMISSION, 03 R49. -/
def execJobAdmission (s : State) : Out :=
  .next (if !s.admitting then s
    else match s.turnOf with
      | none => s
      | some q => s.withPacket q fun p s =>
          let slot := (s.queueRegs q).sqrd.toNat
          let src := s.source q slot p
          match s.checkPacket p src false with
          | .blocked b => s.cpBlocked src.tenant false 0 q b
          | .bad status => s.reject q status fun s => s.countPacket p src false
          | .ok h gs =>
            (((s.countPacket p src false).accept p src (some q) slot h gs).launched q slot (BitVec.ofNat 64 s.nextSeq)).passSlot q)

/-! ### The start of a job, 03 R50 -/

/-- A strand has triggered, or exited with its release performed. -/
def State.triggeredBy (s : State) (seq n : Nat) (x : Strand) : Bool :=
  x.triggered || (match x.st with
    | .exited => !s.ops.any fun o => o.owner == ⟨seq, n⟩ && (match o.kind with | .trigger _ => true | _ => false)
    | _ => false)

/-- Whether a dependence is satisfied; a producer that failed fails it. -/
inductive Dep where
  | wait
  | ok
  | failed
deriving DecidableEq, Repr

/-- A dependence on a producer of kind 0 none, 1 COMPLETE, 2 TRIGGER. DESIGN CHOICE (log 16): one on sequence number 0, which no
job carries and DEP_INVALID does not refuse, is satisfied at once. -/
def State.dependence (s : State) (kind producer : Nat) : Dep :=
  if kind = 0 then .ok
  else match findJob producer s.jobs with
    | none => .ok
    | some j =>
      if j.completed then (if 0x20 ≤ j.status then .failed else .ok)
      else if kind = 2 && (upto j.strands.length).all fun n => match j.strands[n]? with
          | some x => s.triggeredBy producer n x
          | none => true
        then .ok else .wait

/-- Both dependences of a job. -/
def State.dependences (s : State) (j : Job) : Dep :=
  match s.dependence (j.field 440 4) (j.field 384 56), s.dependence (j.field 504 4) (j.field 448 56) with
  | .failed, _ | _, .failed => .failed
  | .ok, .ok => .ok
  | _, _ => .wait

/-- JOB_START: a job whose dependences are satisfied copies its INPLACE regions (15 R248) and its parameter words; one
whose producer failed ends with DEP_FAILED, its strands Exited. DESIGN CHOICE (log 25): the parameter block is read once,
here, before any strand is placed; the spec says that it is read before a strand's first bundle and that every strand gets
the same words (01 R17). DESIGN CHOICE (log 16): where an uncorrectable error hides it, the job ends with FAULTED. -/
def execJobStart (seq : Nat) (s : State) : Out :=
  .next (match findJob seq s.jobs with
    | none => s
    | some j =>
      if j.started || j.removed || j.completed then s
      else match s.dependences j with
        | .wait => s
        | .failed => s.modJob seq fun x =>
            { x.fail 0x23 with started := true, strands := x.strands.map fun y => { y with st := .exited } }
        | .ok =>
          s.cpRead j.tenant (j.va 128) (8 * headerParams j.header) seq 0
              (fun s => (s.modJob seq fun x => { x with started := true }).endJob seq 0x22) fun bs s =>
            match s.snapshot j with
            | .error b => s.cpBlocked j.tenant false seq 0 b
            | .ok w =>
              let s := (w.getD []).foldl (fun s x => s.countRead j.tenant x.1 64) (s.countWset j)
              s.modJob seq fun x => { x with started := true, wsetOk := w.isSome, wset := w.getD [], wsetWritten := s.dtime, params := j.paramWords bs })

/-! ### Placement -/

/-- Two ranges of n and m entries from a and b share an entry. -/
def overlap (a n b m : Nat) : Bool := n != 0 && m != 0 && decide (a < b + m) && decide (b < a + n)

/-- Two images' ranges share a dictionary entry or a halfword. -/
def Ranges.overlaps (a b : Ranges) : Bool :=
  overlap a.dictbase.toNat a.dictlen.toNat b.dictbase.toNat b.dictlen.toNat
  || overlap a.idxbase.toNat a.idxlen.toNat b.idxbase.toNat b.idxlen.toNat

/-- An image by its VA in its tenant's address space (03 R42). -/
def imageKey (tenant : BitVec 16) (va : Nat) : Nat := tenant.toNat * 2 ^ 57 + va

/-- The images that Resident and Saved strands on core k use, and the overlays of running jobs (03 R42, 21 R306): key, ranges
and job. -/
def State.imagesUsed (s : State) (k : Nat) : List (Nat × Ranges × Nat) :=
  s.jobs.flatMap fun j =>
    if j.completed then []
    else (upto j.strands.length).flatMap fun n =>
      match j.strands[n]? with
      | none => []
      | some x =>
        if s.coreOfStrand ⟨j.seq, n⟩ != some k then []
        else
          let overlay := match x.st, x.saved with
            | .resident c, _ => (s.ctx c).overlay
            | _, some w => w.overlay
            | _, _ => none
          let own := if x.live then [(imageKey j.tenant j.image, headerRanges j.header, j.seq)] else []
          own ++ match overlay with
            | some r => [(2 ^ 80, r, j.seq)]
            | none => []

/-- The overlays that jobs have loaded on a core and that stay until the jobs complete. -/
def State.overlays (s : State) (k : Nat) : List (Nat × Ranges × Nat) :=
  (s.core k).images.filterMap fun (key, r) =>
    if 2 ^ 90 ≤ key && (match findJob (key - 2 ^ 90) s.jobs with | some j => !j.completed | none => false)
    then some (2 ^ 80, r, key - 2 ^ 90) else none

/-- The ranges that IFENCE LOADs are copying into on a core. -/
def State.loading (s : State) (k : Nat) : List (Nat × Ranges × Nat) :=
  s.ops.filterMap fun o => if o.core == k then o.copying.map fun x => (2 ^ 80, x.1, o.owner.seq) else none

/-- R42: the core holds the image, or no strand of another image uses any of its entries or halfwords. -/
def State.canHold (s : State) (k : Nat) (j : Job) : Bool :=
  let key := imageKey j.tenant j.image
  let r := headerRanges j.header
  (s.core k).images.any (· == (key, r))
  || (s.imagesUsed k ++ s.overlays k ++ s.loading k).all fun x => x.1 == key || !r.overlaps x.2.1

/-- The scopes of the groups of strand n that have a placed member allow core k (03 R44, R51). -/
def Job.scopesAllow (j : Job) (n k : Nat) : Bool :=
  j.groups.all fun g =>
    !g.members.contains n || g.members.all fun m =>
      match j.strands[m]? with
      | some { core := some c, .. } => unitOf g.scope c == unitOf g.scope k
      | _ => true

/-- A place in the order of placement and restore: a priority, a job's sequence number and a strand's index (03 R51). -/
structure PlaceOrder where
  prio : Nat
  seq : Nat
  idx : Nat

/-- Place a comes before place b: higher priority, then the lower sequence number, then the lower index (03 R51). -/
def PlaceOrder.before (a b : PlaceOrder) : Bool :=
  b.prio < a.prio || b.prio == a.prio && (a.seq < b.seq || a.seq == b.seq && a.idx < b.idx)

/-- The save of a strand that is Saved. -/
def Strand.save (x : Strand) : Option Saved :=
  match x with
  | { st := .saved, saved := some w, .. } => some w
  | _ => none

/-- The saved strands of a job, by index. -/
def Job.saves (j : Job) : List (Nat × Saved) :=
  (upto j.strands.length).filterMap fun n => (j.strands[n]?.bind (·.save)).map fun w => (n, w)

/-- Saved strands that wait to be restored on core k before place b, but those of its job with an index in `but`. -/
def State.waitingSaved (s : State) (k : Nat) (b : PlaceOrder) (but : List Nat := []) : Nat :=
  (s.jobs.flatMap fun j => j.saves.filter fun (n, w) => w.core == k && !w.held && !w.dheld
    && (PlaceOrder.mk w.prio j.seq n).before b && s.performed w.waits && !(j.seq == b.seq && but.contains n)).length

/-- The free contexts of core k. -/
def State.freeCtxs (s : State) (k : Nat) : List Nat := [4 * k, 4 * k + 1, 4 * k + 2, 4 * k + 3].filter fun c => (s.ctx c).strand.isNone

/-- Core k is eligible for strand n of a job (03 R51). -/
def State.eligible (s : State) (j : Job) (n k : Nat) : Bool :=
  allowedCore j.packet k && !(s.core k).offline && j.scopesAllow n k && s.canHold k j

/-- The tower that is preferred: that of the controller that homes the first byte of IMAGE (03 R51). -/
def State.preferred (s : State) (j : Job) : Nat :=
  match s.placeOf j.tenant (BitVec.ofNat 57 j.image) false with
  | some { frame := some f, .. } => homeOf f / 8
  | _ => 0

/-- The cores in the order in which they are tried. -/
def coreOrder (tower : Nat) : List Nat := (upto 64).map (64 * tower + ·) ++ (upto 64).map (64 * (1 - tower) + ·)

/-- The images that a copy over ranges leaves on a core: those that it does not touch, and the overlays, whose ranges their jobs
use until they complete (03 R42, 21 R306). -/
def CoreSt.keepImages (c : CoreSt) (key : Nat) (r : Ranges) : List (Nat × Ranges) :=
  c.images.filter fun x => (2 ^ 90 ≤ x.1 || !x.2.overlaps r) && x != (key, r)

/-- The kernel is copied into a core's stores; images that it overwrites are no longer held (03 R40, R42). -/
def CoreSt.loadImage (c : CoreSt) (key : Nat) (r : Ranges) (bs : List Byte) : CoreSt :=
  let idx := indexOffset r
  { c with
    dict := (upto r.dictlen.toNat).foldl (fun m i =>
      mset 0#384 m (r.dictbase.toNat + i) (BitVec.ofNat 384 (leNat ((bs.drop (64 + 48 * i)).take 48)))) c.dict
    index := (upto r.idxlen.toNat).foldl (fun m i =>
      mset 0#16 m (r.idxbase.toNat + i) (BitVec.ofNat 16 (leNat ((bs.drop (idx + 2 * i)).take 2)))) c.index
    images := (c.keepImages key r) ++ [(key, r)] }

/-- Part of an image, entry by entry and halfword by halfword, as an uncorrectable error leaves it, or as a fetch finds it while
it is copied (21 R306): which part is free. -/
def CoreSt.loadPart (c : CoreSt) (t key : Nat) (r : Ranges) (bs : List Byte) : CoreSt :=
  let idx := indexOffset r
  { c with
    dict := (upto r.dictlen.toNat).foldl (fun m i => if Config.free t (key + i) % 2 = 0 then m else
      mset 0#384 m (r.dictbase.toNat + i) (BitVec.ofNat 384 (leNat ((bs.drop (64 + 48 * i)).take 48)))) c.dict
    index := (upto r.idxlen.toNat).foldl (fun m i => if Config.free t (key + 4096 + i) % 2 = 0 then m else
      mset 0#16 m (r.idxbase.toNat + i) (BitVec.ofNat 16 (leNat ((bs.drop (idx + 2 * i)).take 2)))) c.index
    images := c.keepImages key r }

/-- Core k as a fetch finds it: beneath the images that IFENCE LOADs are copying in, each halfword and each entry is the old or
the new one (21 R306). -/
def State.fetchCore (s : State) (k : Nat) : CoreSt :=
  s.ops.foldl (fun c o =>
    if o.core == k then
      match o.copying with
      | some (r, bs) => c.loadPart s.tick (2 ^ 17 * o.id) r bs
      | none => c
    else c) (s.core k)

/-- The registers of a strand at its first bundle (01 R17, 03 R37, R46). -/
def Job.start (j : Job) (n : Nat) : Ctx :=
  let r := headerRanges j.header
  let regs : Regs := ((upto (headerParams j.header)).zip j.params).foldl (fun (g : Regs) (i, v) =>
    g.write (sReg (BitVec.ofNat 6 (j.header.extractLsb' (128 + 8 * i) 6).toNat)) (.word v)) {}
  { regs := regs
    sr := { pl := if j.packet.getLsbD 359 then 1#2 else 0#2, prio := BitVec.ofNat 5 j.prio
            dictbase := r.dictbase, dictlen := r.dictlen, xsave := BitVec.ofNat 57 (j.va 192 + 24576 * n)
            tickn := nth 0#64 j.gen 0, occ := nth 0#64 j.gen 1, draft := nth 0#64 j.gen 2, bellst := nth 0#64 j.gen 3 }
    pc := BitVec.ofNat 16 (j.field 320 16)
    idxbase := r.idxbase, idxlen := r.idxlen, kernel := r
    strand := some ⟨j.seq, n⟩ }

/-- Strand n of a job is placed on context c. The acquire of its first bundle, of what its job's dependences, its parent or the
host's write of SQWR release (08 Table 8-5), invalidates what the core's heads have staged (07 R147). -/
def State.place (s : State) (j : Job) (n c : Nat) (image : List Byte) : State :=
  let k := coreOf c
  let key := imageKey j.tenant j.image
  let r := headerRanges j.header
  let s := s.acquire k
  let s := if (s.core k).images.any (· == (key, r)) then s
    else (s.countRead j.tenant j.image image.length).modCore k fun x => x.loadImage key r image
  { (s.setCtx c (j.start n)).modStrand ⟨j.seq, n⟩ fun x =>
      { x with st := .resident c, placed := s.placements, core := some k } with placements := s.placements + 1 }

/-- The first of a list for which a function answers. -/
def firstSome {α β : Type} (f : α → Option β) : List α → Option β
  | [] => none
  | x :: l => match f x with
    | some y => some y
    | none => firstSome f l

/-- Every strand of a list is placed, each on the first core that leaves room for the rest; none when that cannot be.
`barred` are the contexts kept for a gang that waits. -/
def State.placeAll (seq : Nat) (image : List Byte) (order barred : List Nat) : List Nat → State → Option State
  | [], s => some s
  | n :: l, s =>
    match findJob seq s.jobs with
    | none => none
    | some j => firstSome (fun k =>
        if !s.eligible j n k then none
        else
          let free := (s.freeCtxs k).filter fun c => !barred.contains c
          if free.length ≤ s.waitingSaved k ⟨j.prio, seq, n⟩ then none
          else match free with
            | c :: _ => State.placeAll seq image order barred l (s.place j n c image)
            | [] => none) order

/-- The Pending strands of a job that have no save. -/
def Job.pending (j : Job) : List Nat :=
  (upto j.strands.length).filter fun n => match j.strands[n]? with
    | some x => x.st == .pending
    | none => false

/-- The command processor has no parked request for a job. -/
def State.jobFree (s : State) (seq : Nat) : Bool := !s.cpParked.any fun e => e.seq == seq && e.queue < 512

/-- The jobs that may place strands, higher priority first and then the lower sequence number (03 R51). -/
def State.placing (s : State) : List Job :=
  (s.jobs.filter fun j => j.started && !j.removed && !j.rerun && !j.completed && !j.pending.isEmpty
      && s.jobFree j.seq).foldr
    (fun j l => (l.takeWhile fun x => j.prio < x.prio || x.prio == j.prio && x.seq < j.seq) ++ j
      :: (l.dropWhile fun x => j.prio < x.prio || x.prio == j.prio && x.seq < j.seq)) []

/-- The units that a job places, in ascending strand index: a gang union, or a strand alone. -/
def Job.units (j : Job) : List (List Nat) :=
  let u (n : Nat) : List Nat := gangUnion j.groups j.groups.length [n]
  (j.pending.filter fun n => (u n).all fun m => n ≤ m).map fun n => (u n).foldr (fun m l =>
    (l.takeWhile (· < m)) ++ m :: (l.dropWhile (· < m))) []

/-- The contexts that a waiting gang could use. -/
def State.gangCtxs (s : State) (j : Job) : List Nat :=
  (allowedCores j.packet).flatMap fun k => if s.canHold k j then s.freeCtxs k else []

/-- What placement does next: the first unit that fits, under the contexts that waiting gangs of higher priority bar; or
a line of an image that cannot be reached now. -/
inductive Placing where
  | placed (s : State)
  | blocked (seq : Nat) (tenant : BitVec 16) (b : Blocked)
  | broken (seq : Nat)
  | nothing

/-- The units of one job, tried in order. DESIGN CHOICE (log 16): a unit that fits nowhere is passed over, and one of higher index
is placed before it; the spec gives the order of placement and not whether one that waits holds up the next (03 R51). -/
def State.placeUnits (s : State) (j : Job) (image : List Byte) (order barred : List Nat) : List (List Nat) → Option State × List Nat
  | [] => (none, [])
  | u :: us =>
    match State.placeAll j.seq image order barred u s with
    | some t => (some t, [])
    | none =>
      let (r, b) := s.placeUnits j image order barred us
      (r, (if 1 < u.length then s.gangCtxs j else []) ++ b)

/-- The jobs in order; `bars` are the contexts barred, each with the priority below which it is. -/
def State.placeJobs (s : State) : List Job → List (Nat × Nat) → Placing
  | [], _ => .nothing
  | j :: js, bars =>
    let bytes := imageBytes (headerRanges j.header)
    match s.blocked j.tenant false j.image bytes with
    | some b => .blocked j.seq j.tenant b
    | none =>
      match s.bytesAt j.tenant j.image bytes with
      | none => .broken j.seq
      | some image =>
        let barred := (bars.filter fun x => j.prio < x.1).map (·.2)
        match s.placeUnits j image (coreOrder (s.preferred j)) barred j.units with
        | (some t, _) => .placed t
        | (none, b) => s.placeJobs js (bars ++ b.map fun c => (j.prio, c))

/-- STRAND_PLACEMENT. A job whose image has an uncorrectable line ends with FAULTED (log 16), and a re-run, whose image has then
not survived, with NON_REPLAYABLE_PARTIAL (15 R247). -/
def execStrandPlacement (s : State) : Out :=
  .next (match s.placeJobs s.placing [] with
    | .placed t => t
    | .blocked seq tenant b => s.cpBlocked tenant false seq 0 b
    | .broken seq => s.endJob seq (match findJob seq s.jobs with | some j => if j.reruns = 0 then 0x22 else 0x21 | none => 0x22)
    | .nothing => s)

/-! ### Completion, 03 R62 -/

/-- Whether a job may complete. -/
def State.mayComplete (s : State) (j : Job) : Bool :=
  j.started && !j.completed && !j.rerun
  && (j.removed || j.strands.all fun x => x.st == .exited || x.st == .lost)
  && (j.children.all fun c => match findJob c s.jobs with | some x => x.completed | none => true)
  && !s.working j.seq

/-- The status that a job completes with (03 R60). -/
def State.finalStatus (s : State) (j : Job) : Nat :=
  let failed := j.children.any fun c => match findJob c s.jobs with | some x => 0x20 ≤ x.status | none => false
  if j.status = 0 && failed then 0x24 else j.status

/-- A kind 5 event record of the Timetable, 09 R170. -/
def State.ttRecord (s : State) (iter cause seq : Nat) : State :=
  s.record { va := BitVec.ofNat 57 iter, kind := 5#4, engine := 7#4, cause := BitVec.ofNat 8 cause, seq := BitVec.ofNat 56 seq }

/-- The Timetable stops: RUN ← 0 and STOP. -/
def State.ttStop (s : State) (code : Nat) : State :=
  { s with tt := { s.tt with run := false, stop := BitVec.ofNat 3 code, due := none, read := none, step := none
                             current := s.tt.current.map fun i => { i with stopped := true } } }

/-- What a job leaves on the cores at its completion: heads closed, reductions and stopped drains abandoned, barriers
unbound, packed marks and overlays cleared (03 R62, 06 R114, R118, 21 R306). -/
def State.cleanUp (s : State) (seq : Nat) (tenant : BitVec 16) : State :=
  let s := ((s.dropOps seq).closeHeads seq tenant).unbindAll seq
  s.cores.foldl (fun s (k, _) =>
    (s.modCore k fun c => { c with
      packed := c.packed.filter fun p => p.job != seq
      images := c.images.filter fun x => x.1 != 2 ^ 90 + seq
      drains := c.drains.filter fun d => (s.op d).isSome
      sets := c.sets.map fun (n, a) => (n, { a with reds := a.reds.filter fun r => r.owner.seq != seq }) }).releaseEngine k) s

/-- JOB_COMPLETION. A job of the Timetable writes no record, and a failure of it stops the Timetable (17 R260). -/
def execJobCompletion (seq : Nat) (s : State) : Out :=
  .next (match findJob seq s.jobs with
    | none => s
    | some j =>
      if !s.mayComplete j then s
      else
        let status := s.finalStatus j
        let done (s : State) : State :=
          (s.cleanUp seq j.tenant).modJob seq fun x => { x with completed := true, status := status, wset := [], journal := [] }
        match s.claimsBlocked seq j.tenant, j.queue with
        | some b, _ => s.cpBlocked j.tenant true seq 0 b
        | none, some q => (s.cpUnpark seq 0).complete q j.slot seq status done
        | none, none =>
          let s := done (s.cpUnpark seq 0)
          match j.iter with
          | some n => if 0x20 ≤ status && s.tt.run then (s.ttRecord n 2 seq).ttStop 2 else s
          | none => s)

end Sys2Proof.Machine
end

