-- ==== Sys2Proof/Machine/Transfer.lean ====
section
/-! DEFINITION. Transfers and single requests: XFER (06 R116, R117, 23 R353 to R355), QSEND (22 R318, R319), remote accesses
(06 R111), ATOM (20 R283 to R285, 15 R250). -/

namespace Sys2Proof.Machine

/-- A command that takes one of the core's 64 transfer records; it yields while all are in use (06 R116). -/
def State.withRecord (s : State) (k : State → State) : State := if 64 ≤ s.recordsUsed s.curCore then s.yields else k s

/-! ### XFER -/

/-- The source bytes that one step of a transfer copies: a whole line of memory at a time, and of the scratchpad what
becomes one. -/
def xferUnit (out : Bool) (cv : Nat) : Nat := if out then (match cv with | 1 => 128 | 2 => 32 | _ => 64) else 64

/-- The destination bytes of n source bytes under CV. -/
def xferSize (cv n : Nat) : Nat := match cv with | 1 => n / 2 | 2 => 2 * n | _ => n

/-- Source bytes converted under CV: 1 f32 to bf16 by rounding, 2 bf16 to f32 exactly (23 R354). -/
def xferConvert (cv rm : Nat) (bs : List Byte) : List Byte :=
  match cv with
  | 1 => (upto (bs.length / 4)).flatMap fun i =>
      leBytes 2 (bf16.round (f32.dec (leNat ((bs.drop (4 * i)).take 4))) rm 0 false false).1
  | 2 => (upto (bs.length / 2)).flatMap fun i =>
      leBytes 4 (f32.round (bf16.dec (leNat ((bs.drop (2 * i)).take 2))) 0 0 false false).1
  | _ => bs

/-- XFER, 23 R354: the checks in order. With size 0 it completes at issue, so program order holds its bundle back while it puts an
operation before the update of the object (08 R154 items 1 and 6, R156; log 23). -/
def execXfer (o : XferF) (s : State) : Out :=
  .next (s.reading [srcOf o.a 0, srcOf o.b 1, srcOf o.c 2, srcOf o.e 3] fun s =>
    let sp := ((s.sVal o.a).extractLsb' 0 22).toNat
    let va := ((s.sVal o.b).extractLsb' 0 57).toNat
    let n := (s.sVal o.c).toNat
    let obj := ((s.sVal o.e).extractLsb' 0 26).toNat
    let tb := o.e.reg != 0#6
    let cv := o.cv.toNat
    let i := s.curStrand
    if sp % 64 != 0 || va % 64 != 0 then s.trap cXferSize (xferInfo 2)
    else if spSize < n then s.trap cXferSize (xferInfo 3)
    else if n % 64 != 0 || cv == 1 && n % 128 != 0 then s.trap cXferSize (xferInfo 8)
    else if tb && obj % 16 != 0 then s.trap cXferSize (xferInfo 7)
    else s.withRecord fun s =>
      if n = 0 then
        (if tb then
          let t := tbTarget s.curCore obj
          if s.tbBlocked t.1 t.2 true then s.yields else s.tbUpdate t.1 t.2 0 o.arr i
        else s)
      else
        let r : Range := ⟨sp, if o.out then n else xferSize cv n⟩
        s.addOp { id := 0, core := s.curCore, owner := i, tenant := s.tenantOf i, domains := 68#7, record := true
                  reads := if o.out then [r] else [], writes := if o.out then [] else [r]
                  waits := s.poWaits i true
                  kind := .xfer o.out sp va n (if tb then some obj else none) o.arr cv s.engineRm })

/-- The operation of a transfer after `prog` source bytes. -/
def Op.xferAt (o : Op) (out : Bool) (sp n cv prog : Nat) : Op :=
  let left (m done : Nat) : List Range := if m = done then [] else [⟨(sp + done) % spSize, m - done⟩]
  { o with prog := prog
           reads := if out then left n prog else []
           writes := if out then [] else left (xferSize cv n) (xferSize cv prog) }

/-- XFER_GRANULE, 06 R117: the next granule in address order, once the scoreboard lets it. An uncorrectable source ends the
transfer: MACHINE_CHECK is owed with the VA of the granule, and nothing further is written or credited. -/
def execXferGranule (op : Nat) (s : State) : Out :=
  .next (match s.op op with
    | some o =>
      match o.kind with
      | .xfer out sp va n _ _ cv rm =>
        let k := o.core
        let u := xferUnit out cv
        let a := BitVec.ofNat 57 (va + (if out then xferSize cv o.prog else o.prog))
        let d : Range := ⟨(sp + (if out then o.prog else xferSize cv o.prog)) % spSize, if out then u else xferSize cv u⟩
        if !s.ready o || n ≤ o.prog then s
        else if out then
          if s.readBlocked k op d then s
          else s.accessing o a true fun p s =>
            (s.writePlace p (xferConvert cv rm ((s.core k).spBytes d.start u))).setOp (o.xferAt out sp n cv (o.prog + u))
        else if s.writeBlocked k op d then s
        else s.accessing o a false fun p s =>
          if s.badPlace p then
            ((s.endOp op).addHoles k op o.writes).owe o.owner ⟨cMachineCheck, a.setWidth 64⟩ 1
          else (s.spWrite k d.start (xferConvert cv rm (s.readPlace p u))).setOp (o.xferAt out sp n cv (o.prog + u))
      | _ => s
    | none => s)

/-- XFER_COMPLETE: the last granule has performed; the credit, with the arrival, follows, and frees the record. The credit is in no
SETTLE domain: DEDUCED (log 23), xfer holds the accesses of the transfer's two sides. -/
def execXferComplete (op : Nat) (s : State) : Out :=
  .next (match s.op op with
    | some o =>
      match o.kind with
      | .xfer _ _ _ n tb arr _ _ =>
        if o.prog < n then s
        else match tb with
          | some obj =>
            s.setOp { o with kind := .credit obj n arr, prog := 0, waits := s.creditWaits o.owner o.core op obj, domains := 0#7 }
          | none => s.endOp op
      | _ => s
    | none => s)

/-! ### QSEND -/

/-- QSEND, 22 R319: the checks, the pop, and a transfer record. -/
def execQsend (q : BitVec 3) (a o : Src) (qp : Bool) (s : State) : Out :=
  .next (s.reading [srcOf a 0, srcOf o 1] fun s =>
    let x := ((s.sVal a).extractLsb' 0 26).toNat
    let tb := ((s.sVal o).extractLsb' 0 26).toNat
    let i := s.curStrand
    if x % 4 != 0 then s.trap cXferSize (xferInfo 2)
    else if tb % 16 != 0 then s.trap cXferSize (xferInfo 7)
    else s.popping q qp fun e s => s.withRecord fun s =>
      let t := tbTarget s.curCore x
      s.addOp { id := 0, core := s.curCore, owner := i, tenant := s.tenantOf i, domains := 16#7, record := true
                waits := s.poWaits i true ++ s.collWaits i t.1 ⟨t.2, 256⟩ true, kind := .qsend x tb e })

/-- QSEND_WRITE: 256 bytes at the target, wrapping; then the credit of 256 (06 R124). -/
def execQsendWrite (op : Nat) (s : State) : Out :=
  .next (match s.op op with
    | some o =>
      match o.kind with
      | .qsend x tb e =>
        if !s.ready o then s
        else
          let t := tbTarget o.core x
          (s.spWrite t.1 t.2 (e.flatMap fun l => leBytes 4 l.toNat)).setOp
            { o with kind := .credit tb 256 false, waits := s.creditWaits o.owner o.core op tb }
      | _ => s
    | none => s)

/-! ### Remote accesses -/

/-- REMOTE_ACCESS_PERFORM, 06 R111: raw bytes at the target; a load's register fills. -/
def execRemoteAccessPerform (op : Nat) (s : State) : Out :=
  .next (match s.op op with
    | some o =>
      if !s.ready o then s
      else match o.kind with
        | .rload x n signed vec =>
          let t := tbTarget o.core x
          let c := s.core t.1
          let v : RegVal := if vec then .lanes (lanesOf fun i => c.spWord (t.2 + 4 * i)) else .word (extendNat (c.spNat t.2 n) n signed)
          (s.deliver o.owner o.dest v o.slot).endOp op
        | .rstore x bs => let t := tbTarget o.core x; (s.spWrite t.1 t.2 bs).endOp op
        | _ => s
    | none => s)

/-! ### ATOM -/

/-- The number of the strand's next journal entry, and the job with it counted (15 R250). -/
def Job.nextEntry (j : Job) (strand : Nat) (launch : Bool) : Nat × Job :=
  let key := strand * 2 + (if launch then 1 else 0)
  let k := mget 0 j.issued key
  (k, { j with issued := mset 0 j.issued key (k + 1) })

/-- Entry k of a strand's journal. -/
def Job.entry (j : Job) (strand k : Nat) (launch : Bool) : Option JEntry :=
  j.journal.find? fun e => e.strand == strand && e.k == k && e.launch == launch

/-- ATOM, 20 R284. A release waits for the strand's earlier accesses; an access to the same location keeps program order
(08 R154 item 3, R156). -/
def execAtom (o : AtomF) (s : State) : Out :=
  .next (s.reading [srcOf o.a 0, srcOf o.b 1, srcOf o.c 2] fun s =>
    let n := if o.sz then 8 else 4
    let va := ((s.sVal o.a).extractLsb' 0 57).toNat / n * n
    let cut (w : Word) : Word := if o.sz then w else (w.setWidth 32).setWidth 64
    let i := s.curStrand
    let rel := o.ord == 2#2 || o.ord == 3#2
    s.withRecord fun s =>
      let same := (s.ops.filter fun p => p.owner == i && (match p.kind with
        | .atom v .. => v / 8 == va / 8
        | _ => false)).map (·.id)
      let waits := if rel then s.opsOf i none else same ++ s.poWaits i true
      let logged := match findJob i.seq s.jobs with
        | some j => if o.log && j.logat then some (j.nextEntry i.idx false) else none
        | none => none
      let s := match logged with
        | some (_, j) => s.modJob i.seq fun _ => j
        | none => s
      let tag := s.nextOp
      (s.claim (sReg o.sd)).addOp
        { id := 0, core := s.curCore, owner := i, tenant := s.tenantOf i, domains := 8#7, record := true, waits := waits
          dest := some (sReg o.sd, tag)
          kind := .atom va o.aop.toNat o.sz (cut (s.sVal o.b)) (cut (s.sVal o.c)) o.ord.toNat o.scope.toNat (logged.map (·.1)) })

/-- The new value of an ATOM; none when it makes no write (20 R284). -/
def atomNew (aop n : Nat) (old b c : Nat) : Option Nat :=
  let m := 2 ^ (8 * n)
  let sg (x : Nat) : Int := if 2 * x < m then x else (x : Int) - m
  match aop with
  | 0 => some ((old + b) % m)
  | 1 => some b
  | 2 => if old = b then some c else none
  | 3 => some (old &&& b)
  | 4 => some (old ||| b)
  | 5 => some (old ^^^ b)
  | 6 => some (if sg old < sg b then b else old)
  | 7 => some (if sg b < sg old then b else old)
  | 8 => some (Nat.max old b)
  | _ => some (Nat.min old b)

/-- A performed ATOM of a journal entry is recorded, while the job's journal has room; any other is irrevocable (15 R249,
R250). -/
def Job.logAtom (j : Job) (now : Word) (strand : Nat) (entry : Option Nat) (va aop : Nat) (old : Word) : Job :=
  match entry with
  | some k =>
    if j.journal.length < 65536 then { j with journal := j.journal ++ [⟨strand, false, k, va, aop, old, now⟩] }
    else { j with irrevocable := true }
  | none => { j with irrevocable := true }

/-- ATOM_PERFORM, 20 R284, R285: one indivisible step at the line's home; or the journalled value of an earlier run. -/
def execAtomPerform (op : Nat) (s : State) : Out :=
  .next (match s.op op with
    | some o =>
      match o.kind with
      | .atom va aop dbl b c ord _ entry =>
        let i := o.owner
        let n := if dbl then 8 else 4
        let finish (s : State) (v : Word) : State :=
          let s := (s.deliver i o.dest (.word v)).endOp op
          if ord = 1 || ord = 3 then s.acquire o.core else s
        if !s.ready o then s
        else match entry.bind fun k => (findJob i.seq s.jobs).bind fun j => j.entry i.idx k false with
          | some e => if e.addr = va && e.op = aop then finish s e.value else (s.endOp op).endJob i.seq 0x21
          | none =>
            s.accessing o (BitVec.ofNat 57 va) true fun p s =>
              if p.revoked then finish (s.modJob i.seq (·.logAtom s.dtime i.idx entry va aop 0#64)) 0#64
              else if s.badPlace p then (s.endUnanswered o).owe i ⟨cMachineCheck, BitVec.ofNat 64 va⟩ 2
              else
                let old := leNat (s.readPlace p n)
                let s := match atomNew aop n old b.toNat c.toNat with
                  | some v => s.writePlace p (leBytes n v)
                  | none => s
                finish (s.modJob i.seq (·.logAtom s.dtime i.idx entry va aop (BitVec.ofNat 64 old))) (BitVec.ofNat 64 old)
      | _ => s
    | none => s)

end Sys2Proof.Machine
end

