-- ==== Sys2Proof/Machine/Transform.lean ====
section
/-! DEFINITION. Bank transforms: the job card, the Rubric and the stages (06 R126 to R128), XFORM and its completion (23
R356). Log 17: positions that rules 4 and 8 report, payload codes, and images that a head would refuse. -/

namespace Sys2Proof.Machine

/-! ### The card, 06 Table 6-6 -/

/-- STAGE p. -/
def cardStage (c : Word) (p : Nat) : Nat := (c.extractLsb' (4 * p) 4).toNat
def cardFmt (c : Word) : Nat := (c.extractLsb' 24 8).toNat
def cardFmtIn (c : Word) : Nat := (c.extractLsb' 32 8).toNat
def cardK (c : Word) : Int := (c.extractLsb' 40 8).toInt
def cardSide (c : Word) : Nat := (c.extractLsb' 48 10).toNat * 4096

/-- The stages up to END. -/
def cardStages (c : Word) : List Nat := ((upto 6).map (cardStage c)).takeWhile (· != 0)
def cardHas (c : Word) (stage : Nat) : Bool := (cardStages c).contains stage

/-- A code whose elements a stream can hold (05 Table 5-4, 0x01 to 0x33). -/
def elementCode (c : Nat) : Bool := c ≤ 0x33 && (Fmt.ofCode c).isSome

/-- The format of the stream after the first p stages: FMTIN, or f32 behind EXPD, and FMT from CVT or QNT on. -/
def streamFmt (c : Word) (p : Nat) : Nat :=
  ((upto p).map (cardStage c)).foldl (fun f st => match st with
    | 1 => 0x32
    | 2 | 4 => cardFmt c
    | _ => f) (cardFmtIn c)

/-- A format is an integer; a format holds no negative value. -/
def fmtInt (c : Nat) : Bool := match Fmt.ofCode c with | some (.int _ _) => true | _ => false
def fmtUnsigned (c : Nat) : Bool := match Fmt.ofCode c with | some (.int sg _) => !sg | some (.flt f) => !f.signed | none => false

/-- The first position of 0 to 5 that satisfies a condition. -/
def firstPos (f : Nat → Bool) : Option Nat := (upto 6).find? f

/-- The position that breaks rules 1 to 10 of the Rubric; 7 for a card-wide rule. DESIGN CHOICE (log 17): the payload codes of rule
9, which the spec does not define, are the element codes: BM8 and BM16 break it. -/
def rubricCard (c : Word) (rule : Nat) : Option Nat :=
  let st := cardStage c
  let wide (b : Bool) : Option Nat := if b then some 7 else none
  let before (p : Nat) : List Nat := (upto p).map st
  match rule with
  | 1 => (firstPos fun p => 9 ≤ st p).or (wide (c.extractLsb' 58 6 != 0#6))
  | 2 => if st 0 = 0 then some 0 else none
  | 3 => firstPos fun p => st p != 0 && (before p).contains 0
  | 4 => firstPos fun p => st p != 0 && (before p).contains (st p)
  | 5 =>
    let expd := (before 6).contains 1
    (firstPos fun p => 0 < p && st p = 1).or
      (wide (if expd then cardFmtIn c != 0 else !elementCode (cardFmtIn c)))
  | 6 => firstPos fun p => st p = 5 && (upto 6).any fun q => p < q && st q != 0
  | 7 => firstPos fun p => st p = 4 && p < 5 && st (p + 1) != 5 && st (p + 1) != 0
  | 8 => firstPos fun p => st p = 4 && (before p).contains 7 || st p = 7 && (before p).contains 4
  | 9 => firstPos fun p => (st p = 2 || st p = 4 || st p = 5) && !elementCode (cardFmt c)
  | 10 => firstPos fun p => (st p = 3 || st p = 6 || st p = 8) && fmtInt (streamFmt c p)
      || st p = 8 && fmtUnsigned (streamFmt c p)
  | _ => none

/-- The elements of a source of n bytes: those of its group images, or n bytes of FMTIN. -/
def CoreSt.streamCount (c : CoreSt) (card : Word) (src n : Nat) : Nat :=
  if cardHas card 1 then
    (upto (n / 2048)).foldl (fun m g => m + groupCount (c.spBytes (src + 2048 * g) 64)) 0
  else n * 8 / codeWidth (cardFmtIn card)

/-- The format of the whole stream at the end. -/
def outFmt (card : Word) : Nat := streamFmt card 6

/-- The blocks of a stream of m elements in FMT. -/
def outBlocks (card : Word) (m : Nat) : Nat := let c := formatCount (cardFmt card); (m + c - 1) / Nat.max 1 c

/-- The bytes written at the destination: whole group images with PACK, otherwise the stream. -/
def outBytes (card : Word) (m : Nat) : Nat :=
  if cardHas card 5 then (outBlocks card m + 30) / 31 * 2048 else bytesFor m (codeWidth (outFmt card))

/-- The bytes written in the side array: a scale for each block of QNT without PACK, 4 bytes for each 64-byte block of
ABSMX. -/
def sideBytes (card : Word) (m : Nat) : Nat :=
  if cardHas card 7 then
    let p := (cardStages card).takeWhile (· != 7)
    let per := 512 / codeWidth (streamFmt card p.length)
    4 * ((m + per - 1) / per)
  else if cardHas card 4 && !cardHas card 5 then outBlocks card m
  else 0

/-- Rule 11 or 12 of the Rubric over the regions. -/
def rubricRegions (card : Word) (src dst n out : Nat) (rule : Nat) : Bool :=
  match rule with
  | 11 => src % 64 != 0 || dst % 64 != 0 || n = 0 || n % (if cardHas card 1 then 2048 else 64) != 0
      || src != dst && Range.meets ⟨src, n⟩ ⟨dst, out⟩
  | _ => src = dst && (cardHas card 1 || cardHas card 5 || codeWidth (outFmt card) != codeWidth (cardFmtIn card))

/-- The lowest rule that is broken and its lowest position. -/
def rubric (card : Word) (src dst n out : Nat) : Option (Nat × Nat) :=
  match (upto 10).findSome? fun r => (rubricCard card (r + 1)).map fun p => (r + 1, p) with
  | some x => some x
  | none => if rubricRegions card src dst n out 11 then some (11, 7)
    else if rubricRegions card src dst n out 12 then some (12, 7) else none

/-- An earlier command has still to write the tags of an EXPD source, so how far the output reaches is not known yet. -/
def State.openSource (s : State) (k : Nat) (card : Word) (src n : Nat) : Bool := cardHas card 1 && s.readBlocked k s.nextOp ⟨src, n⟩

/-- The elements that the ranges of a job allow for: those of its source, or of as many groups of the fullest blocks while that is not
known. -/
def State.rangeCount (s : State) (k card src n : Nat) : Nat :=
  let card := BitVec.ofNat 64 card
  if s.openSource k card src n then n / 2048 * 3968 else (s.core k).streamCount card src n

/-- XFORM, 23 R356: the size, the Rubric, the packed regions (06 R115), and at most four jobs at once. DESIGN CHOICE (log 17):
rules 11 and 12 of a card with EXPD are judged from the tags that stand in its source at issue, although an earlier command may
still write them; the ranges of R125 then cover what any tags could make, the entry of its mark is taken at once, and says how
far the output reaches when the job is done. -/
def execXform (c x d n : Src) (s : State) : Out :=
  .next (s.reading [srcOf c 0, srcOf x 1, srcOf d 2, srcOf n 3] fun s =>
    let k := s.curCore
    let i := s.curStrand
    let card := s.sVal c
    let src := ((s.sVal x).extractLsb' 0 22).toNat
    let dst := ((s.sVal d).extractLsb' 0 22).toNat
    let len := (s.sVal n).toNat
    let core := s.core k
    if spSize < len then s.trap cXferSize (xferInfo 3)
    else
      let m := core.streamCount card src len
      let out := outBytes card m
      match rubric card src dst len out with
      | some (r, p) => s.trap cRubric (BitVec.ofNat 64 (r + 16 * p))
      | none =>
        let r : Range := ⟨src, len⟩
        let expd := cardHas card 1
        if core.unsettled r then s.yields
        else match if expd then none else core.packedByte r with
        | some a => s.trap cPackedRead (packedInfo 0 2 a)
        | none =>
          let core := if expd then core.clearPacked r else core
          let most := s.rangeCount k card.toNat src len
          match if !cardHas card 5 then some core
            else if !s.openSource k card src len then core.markPacked ⟨dst, out⟩ i.seq
            else core.reservePacked ⟨dst, outBytes card most⟩ i.seq s.nextOp with
          | none => s.trap cPackedRead (packedInfo 1 4 dst)
          | some core =>
            let running := (s.ops.filter fun o => o.core == k && (match o.kind with | .xform .. => true | _ => false)).length
            let side : List Range := if sideBytes card most = 0 then [] else [⟨cardSide card, sideBytes card most⟩]
            if 4 ≤ running then s.yields
            else (s.setCore k core).addOp
              { id := 0, core := k, owner := i, tenant := s.tenantOf i, domains := 64#7, waits := s.poWaits i true
                reads := [r], writes := ⟨dst, outBytes card most⟩ :: side, kind := .xform card src dst len s.engineRm })

/-! ### The stages, 06 R127 -/

/-- The elements of the group image at an address, as f32 lanes. An element that a head would fault on is free. -/
def CoreSt.expandGroup (c : CoreSt) (t a rm : Nat) : List Nat :=
  let tags := c.spBytes a 64
  payload.flatMap fun b =>
    let tag := tagOf tags b
    let bits := lineBits (c.spBytes (a + 64 * b) 64)
    (upto (tagCount tag)).map fun i =>
      if tag % 256 = 0xFF || bitmapOver (tag % 256) bits then Config.free t (a + 2048 * b + i) % 2 ^ 32
      else (f32.round (blockElem tag bits i) rm 0 false false).1

/-- The stream at the start: codes of FMTIN, or of f32 behind EXPD. -/
def CoreSt.stream (c : CoreSt) (card : Word) (src n t rm : Nat) : List Nat :=
  if cardHas card 1 then (upto (n / 2048)).flatMap fun g => c.expandGroup t (src + 2048 * g) rm
  else
    let w := codeWidth (cardFmtIn card)
    (upto (n * 8 / w)).map fun i =>
      if w = 4 then (c.spByte (src + i / 2)).toNat / (if i % 2 = 1 then 16 else 1) % 16 else c.spNat (src + i * (w / 8)) (w / 8)

/-- A list cut into pieces of n. -/
def chunks {α : Type} : Nat → Nat → List α → List (List α)
  | 0, _, _ => []
  | fuel + 1, n, l => if l.isEmpty then [] else l.take n :: chunks fuel n (l.drop n)

/-- The value of code x in a format. -/
def codeVal (f x : Nat) : ExactNum := match Fmt.ofCode f with | some g => g.dec x | none => .zero false
/-- The code of a value in a format. -/
def codeOf (f rm : Nat) (v : ExactNum) : Nat := match Fmt.ofCode f with | some g => (roundTo v g rm 0 false false).1 | none => 0

/-- Clamping to ±Max. -/
def clampNum (f : Nat) (v : ExactNum) : ExactNum :=
  match Fmt.ofCode f, v with
  | some g, .inf neg => if neg then g.maxVal.negate else g.maxVal
  | _, _ => v

/-- The absolute maximum of a block as an f32 code, rounded as the command's conversions are (05 R100); of a block with a NaN
it is free (log 4). -/
def absMaxF32 (t key rm : Nat) (l : List ExactNum) : Nat :=
  if l.contains .nan then Config.free t key % 2 ^ 32
  else if l.any fun v => v == .inf true || v == .inf false then 0x7F800000
  else (f32.round (absMax l) rm 0 false false).1

/-- What the stages make: the stream's codes, the scale of each block, and the side array's bytes. -/
structure Stream6 where
  codes : List Nat
  scales : List Nat := []
  side : List Byte := []

/-- One stage on a stream of format f. -/
def stageStep (card : Word) (t rm p : Nat) (x : Stream6) : Stream6 :=
  let f := streamFmt card p
  let g := cardFmt card
  match cardStage card p with
  | 2 => { x with codes := x.codes.map fun v => codeOf g rm (codeVal f v) }
  | 3 => { x with codes := x.codes.map fun v => codeOf f rm ((codeVal f v).scale (cardK card)) }
  | 4 =>
    let bs := chunks (x.codes.length + 1) (Nat.max 1 (formatCount g)) x.codes
    let qs := bs.map fun b =>
      let vs := b.map (codeVal f)
      let sc := match Fmt.ofCode g with | some h => blockScale h vs | none => 127
      (sc, vs.map fun v => codeOf g rm (v.scale (127 - (sc : Int))))
    let scs := qs.map (·.1)
    { codes := qs.flatMap (·.2), scales := scs, side := if cardHas card 5 then [] else scs.map (BitVec.ofNat 8) }
  | 5 => if cardHas card 4 then x else { x with codes := x.codes.map fun v => codeOf g rm (codeVal f v) }
  | 6 => { x with codes := x.codes.map fun v => codeOf f rm (clampNum f (codeVal f v)) }
  | 7 =>
    let bs := chunks (x.codes.length + 1) (512 / codeWidth f) x.codes
    { x with side := ((upto bs.length).zip bs).flatMap fun (i, b) => leBytes 4 (absMaxF32 t i rm (b.map (codeVal f))) }
  | 8 => { x with codes := x.codes.map fun v => codeOf f rm (codeVal f v).negate }
  | _ => x

/-- The group images of a packed stream: tags, payload, a zero-padded last block, blank tags after it, the group check. DESIGN
CHOICE (log 17): without QNT the elements are rounded into FMT and every tag's scale is 127. -/
def packGroups (card : Word) (x : Stream6) : List Byte :=
  let f := cardFmt card
  let w := codeWidth f
  let bs := chunks (x.codes.length + 1) (Nat.max 1 (formatCount f)) x.codes
  let blocks := ((upto bs.length).zip bs).map fun (i, b) =>
    (f + 256 * nth 127 x.scales i, ((upto b.length).zip b).foldl (fun m (j, v) => putField m w j v) 0#512)
  (chunks (blocks.length + 1) 31 blocks).flatMap fun g =>
    let tags := (upto 31).flatMap fun i => leBytes 2 (match g[i]? with | some y => y.1 | none => 0)
    tags ++ leBytes 2 ((65536 - halfSum tags) % 65536)
      ++ (upto 31).flatMap fun i => bitsLine (match g[i]? with | some y => y.2 | none => 0#512)

/-- The bytes of a stream in its type. -/
def streamBytes (f : Nat) (codes : List Nat) : List Byte := packSlots (codeWidth f) 0 0 codes

/-- XFORM_COMPLETE: the job is done whole, once its source has been written and its destinations are free. -/
def execXformComplete (op : Nat) (s : State) : Out :=
  .next (match s.op op with
    | some o =>
      match o.kind with
      | .xform card src dst n rm =>
        let k := o.core
        if !s.ready o || (o.reads.any fun r => s.readBlocked k op r) || o.writes.any fun r => s.writeBlocked k op r then s
        else
          let x := (upto 6).foldl (fun x p => stageStep card s.tick rm p x) { codes := (s.core k).stream card src n s.tick rm }
          let bs := if cardHas card 5 then packGroups card x else streamBytes (outFmt card) x.codes
          let s := (s.modCore k (·.settlePacked op bs.length)).spWrite k dst bs
          (if x.side.isEmpty then s else s.spWrite k (cardSide card) x.side).endOp op
      | _ => s
    | none => s)

end Sys2Proof.Machine
end

