-- ==== Sys2Proof/Machine/Child.lean ====
section
/-! DEFINITION. LAUNCH and its packet (21 R308, R309, 03 R59), IFENCE (21 R305, R306), and what performs later for TRIGGER
(03 R61, 22 R332) and SETTLE (08 R155, 22 R324). -/

namespace Sys2Proof.Machine

/-! ### LAUNCH -/

/-- LAUNCH, 21 R309: a transfer record; a release of the strand's earlier accesses (03 R59). -/
def execLaunch (d : BitVec 6) (a : Src) (q : BitVec 6) (s : State) : Out :=
  .next (s.reading [srcOf a 0] fun s => s.withRecord fun s =>
    let va := ((s.sVal a).extractLsb' 0 57).toNat / 64 * 64
    let i := s.curStrand
    let waits := s.opsOf i none
    let entry := match findJob i.seq s.jobs with
      | some j => if j.repl then some (j.nextEntry i.idx true) else none
      | none => none
    let s := match entry with
      | some (_, j) => s.modJob i.seq fun _ => j
      | none => s
    let tag := s.nextOp
    (s.claim (sReg d)).addOp
      { id := 0, core := s.curCore, owner := i, tenant := s.tenantOf i, record := true, waits := waits, dest := some (sReg d, tag)
        kind := .launch va q.toNat s.issue.sr.pl (entry.map (·.1)) none none })

/-- LAUNCH ends with a value that says why no packet was admitted, or that a journal holds. -/
def State.launchEnds (s : State) (o : Op) (v : Word) : State := (s.deliver o.owner o.dest (.word v)).endOp o.id

/-- The packet of a LAUNCH, once read, goes in the queue's tenant's space to the ring of its queue, when the queue is enabled
and the ring has room; to a queue that is not, no packet goes, which is journalled too (15 R250). -/
def State.putPacket (s : State) (o : Op) (va q : Nat) (pl : BitVec 2) (entry : Option Nat) (pkt : BitVec 512) : State :=
  let r := s.queueRegs (256 + q)
  let o := { o with kind := .launch va q pl entry (some pkt) none, tenant := r.tenant }
  if !r.enable || r.sqbase = 0#57 then
    (s.modJob o.owner.seq (·.logLaunch s.dtime o.owner.idx entry va q 0x80000000000000FF#64)).launchEnds o 0x80000000000000FF#64
  else if (r.sqwr.toNat + 1) % r.n = r.sqrd.toNat then s.setOp o
  else
    let at_ := r.sqbase.toNat + 64 * r.sqwr.toNat
    match s.blocked r.tenant true at_ 64 with
    | some .waits => s.setOp o
    | some (.missing _) => s.park o (BitVec.ofNat 57 at_) true
    | none =>
      (((s.putAt r.tenant at_ (bitsLine pkt)).getD s).modQueue (256 + q) fun r => { r with sqwr := BitVec.ofNat 16 ((r.sqwr.toNat + 1) % r.n) }).setOp
        { o with kind := .launch va q pl entry (some pkt) (some r.sqwr.toNat) }

/-- LAUNCH_PACKET_WRITE, 21 R309: the journalled number in a re-run; otherwise the packet, read once, is written to the
queue, while the ring has room. -/
def execLaunchPacketWrite (op : Nat) (s : State) : Out :=
  .next (match s.op op with
    | some o =>
      match o.kind with
      | .launch va q pl entry pkt none =>
        let i := o.owner
        if !s.ready o then s
        else match entry.bind fun k => (findJob i.seq s.jobs).bind fun j => j.entry i.idx k true with
          | some e => if e.addr = va && e.op = q then s.launchEnds o e.value else (s.endOp op).endJob i.seq 0x21
          | none =>
            match pkt with
            | some b => s.putPacket o va q pl entry b
            | none => s.accessing o (BitVec.ofNat 57 va) false fun p s =>
              if s.badPlace p then (s.endUnanswered o).owe i ⟨cMachineCheck, BitVec.ofNat 64 va⟩ 4
              else s.putPacket o va q pl entry (lineBits (s.readPlace p 64))
      | _ => s
    | none => s)

/-! ### IFENCE -/

/-- The outstanding LOADs of a strand. -/
def State.loadsOf (s : State) (i : StrandId) : List Nat :=
  (s.ops.filter fun o => o.owner == i && (match o.kind with | .ifenceLoad _ => true | _ => false)).map (·.id)

/-- The SETTLEs of the issuing context that acquire and have not completed: a later read follows them (08 R155). -/
def State.acqSettles (s : State) : List Nat :=
  s.cur.settles.filter fun n => match s.op n with
    | some { kind := .settle _ k _, .. } => k != 1
    | _ => false

/-- IFENCE LOAD, 21 R306: LOADs of one context complete in issue order. Its read follows the context's earlier acquires. -/
def execIfenceLoad (d : BitVec 6) (a : Src) (s : State) : Out :=
  .next (s.reading [srcOf a 0] fun s => s.withRecord fun s =>
    let i := s.curStrand
    let waits := s.loadsOf i ++ s.poWaits i false ++ s.acqSettles
    let tag := s.nextOp
    (s.claim (sReg d)).addOp
      { id := 0, core := s.curCore, owner := i, tenant := s.tenantOf i, record := true, waits := waits, dest := some (sReg d, tag)
        kind := .ifenceLoad (((s.sVal a).extractLsb' 0 57).toNat / 64 * 64) })

/-- IFENCE WAIT yields until every LOAD of the context has written its status. -/
def execIfenceWait (s : State) : Out := .next (if (s.loadsOf s.curStrand).isEmpty then s else s.yields)

/-- The context's fetch ranges become an image's. -/
def Ctx.enter (x : Ctx) (r : Ranges) : Ctx :=
  { x with idxbase := r.idxbase, idxlen := r.idxlen, sr := { x.sr with dictbase := r.dictbase, dictlen := r.dictlen } }

/-- IFENCE ENTER: the kernel's ranges, or the overlay's when there is one; PC ← the entry. -/
def execIfenceEnter (a : Src) (overlay : Bool) (s : State) : Out :=
  .next (if !(s.loadsOf s.curStrand).isEmpty then s.yields
    else s.reading [srcOf a 0] fun s => s.modCur fun x =>
      let y := if overlay then (match x.overlay with | some r => x.enter r | none => x) else x.enter x.kernel
      y.jump (s.sVal a).toNat)

/-- The halfwords of core k that the next fetch of a Resident or Saved context would read. -/
def State.nextFetches (s : State) (k : Nat) : List Nat :=
  ([0, 1, 2, 3].filterMap fun n =>
    let x := s.ctx (4 * k + n)
    if (match x.strand with | some i => s.ctxOf i == some (4 * k + n) | none => false) then some ((x.idxbase.toNat + x.pc.toNat) % 65536) else none)
  ++ s.jobs.flatMap fun j => j.strands.filterMap fun x => match x with
    | { st := .saved, saved := some w, .. } => if w.core = k then some ((w.idxbase.toNat + w.pc.toNat) % 65536) else none
    | _ => none

/-- Status 1 of a LOAD. -/
def State.loadRefused (s : State) (k seq : Nat) (r : Ranges) : Bool :=
  ((s.nextFetches k).any fun h => r.idxbase.toNat ≤ h && h < r.idxbase.toNat + r.idxlen.toNat)
  || (s.imagesUsed k ++ s.overlays k ++ s.loading k).any fun x => x.2.2 != seq && r.overlaps x.2.1

/-- n bytes at a VA, whatever their error state. -/
def State.rawBytes (s : State) (t : BitVec 16) (va n : Nat) : List Byte :=
  (upto (n / 64 + 1)).flatMap fun i => match s.placeOf t (BitVec.ofNat 57 (va + 64 * i)) false with
    | some p => s.readPlace p 64
    | none => []

/-- The strand's last LOAD with status 0. -/
def State.setOverlay (s : State) (i : StrandId) (r : Ranges) : State :=
  match s.ctxOf i with
  | some c => s.modCtx c fun x => { x with overlay := some r }
  | none => s.modStrand i fun x => { x with saved := x.saved.map fun w => { w with overlay := some r } }

/-- IFENCE_LOAD_COMPLETE, 21 R306. -/
def execIfenceLoadComplete (op : Nat) (s : State) : Out :=
  .next (match s.op op with
    | some o =>
      match o.kind with
      | .ifenceLoad va =>
        let k := o.core
        let t := o.tenant
        let seq := o.owner.seq
        let finish (s : State) (status : Nat) : State := (s.deliver o.owner o.dest (.word (BitVec.ofNat 64 status))).endOp op
        if !s.ready o then s
        else match o.copying, s.blocked t false va 64, s.bytesAt t va 64 with
          | some (r, bs), _, _ => finish ((s.modCore k fun c => c.loadImage (2 ^ 90 + seq) r bs).setOverlay o.owner r) 0
          | none, some .waits, _ => s
          | none, some (.missing m), _ => s.park o (BitVec.ofNat 57 m) false
          | none, none, none => finish s 3
          | none, none, some hb =>
            let h := lineBits hb
            let r := headerRanges h
            let n := imageBytes r
            if badImage h || headerParams h != 0 then finish s 2
            else if s.loadRefused k seq r then finish s 1
            else match s.blocked t false va n with
              | some .waits => s
              | some (.missing m) => s.park o (BitVec.ofNat 57 m) false
              | none =>
                match s.bytesAt t va n with
                | some bs => (s.countRead t va n (dieOf k)).setOp { o with copying := some (r, bs) }
                | none => finish (s.modCore k fun c => c.loadPart s.tick 0 r (s.rawBytes t va n)) 3
      | _ => s
    | none => s)

/-! ### Releases and SETTLE -/

/-- TRIGGER_RELEASE, 03 R61: every access that the strand issued before has performed; the TRIGGER counts. -/
def execTriggerRelease (op : Nat) (s : State) : Out :=
  .next (match s.op op with
    | some o =>
      match o.kind with
      | .trigger _ => if s.ready o then (s.modStrand o.owner fun x => { x with triggered := true }).endOp op else s
      | _ => s
    | none => s)

/-- An operation writes a peer's memory (08 R161): a page that it writes translates to it; or may, while the page has no
translation yet. -/
def State.peerWrite (s : State) (o : Op) : Bool :=
  let at_ (va : Nat) : Bool := match s.placeOf o.tenant (BitVec.ofNat 57 va) true with
    | some p => p.held || p.frame.isNone && Config.peer (p.addr - 2 ^ 52)
    | none => true
  let pages (va n : Nat) : List Nat := (upto ((va % 65536 + n + 65535) / 65536)).map fun i => (va / 65536 + i) * 65536
  match o.kind with
  | .xfer true _ va n _ _ cv _ => (pages va (xferSize cv n)).any at_
  | .atom va .. => at_ va
  | .hopen _ va _ m => m != 1 && at_ va
  | .hclose h => (s.head o.core h).mode != 1 && at_ (s.head o.core h).descVa
  | .hwrite h pos n _ spec _ bk mode _ _ =>
    let x := s.head o.core h
    let gs := if mode = 2 then s.appendGroups { x with pos := pos } n (spec % 256)
      else s.groupsOf (s.headTenant x) x.desc (if bk then pos - n else pos) n
    (x.descVa :: gs.map fun g => blockVa x.desc g 0).any at_
  | _ => false

/-- The accesses that a SETTLE orders: the context's outstanding operations in its domains, writes for rel, reads for acq,
all for full (08 R155). -/
def State.settleWaits (s : State) (i : StrandId) (kind : Nat) (d : BitVec 7) : List Nat :=
  (s.ops.filter fun o => o.owner == i && !o.kind.standsStopped
    && o.domains &&& d != 0#7 && (kind == 3 || kind == 1 && o.kind.isWrite || kind == 2 && o.kind.isRead)).map (·.id)

/-- A SETTLE rel or full at PEER or SYS also waits for the context's writes to peer memory, whatever their domain (08 R161): those
issued before operation n. -/
def State.peerWaits (s : State) (i : StrandId) (scope kind n : Nat) : Bool :=
  (scope == 6 || scope == 8) && kind != 2 && s.ops.any fun o => o.owner == i && o.id < n && !o.kind.standsStopped && s.peerWrite o

/-- SETTLE, 08 R155: it completes when the accesses it orders have performed; until then it is outstanding. The merge
stage holds a later SETTLE, and L, M and H slots, back (Machine/Issue.lean). -/
def execSettle (scope : BitVec 4) (kind : BitVec 2) (domains : BitVec 7) (s : State) : Out :=
  let i := s.curStrand
  let w := s.settleWaits i kind.toNat domains
  let t := if kind = 1#2 then s else s.acquire s.curCore
  .next (if w.isEmpty && !s.peerWaits i scope.toNat kind.toNat s.nextOp then t
    else
      let n := t.nextOp
      (t.addOp { id := 0, core := s.curCore, owner := i, tenant := s.tenantOf i, waits := w,
                 kind := .settle scope.toNat kind.toNat domains }).modCur fun x => { x with settles := x.settles ++ [n] })

/-- SETTLE_COMPLETE, 08 R155: the ordered accesses have performed; an acquire invalidates the head stages (07 R147). -/
def execSettleComplete (op : Nat) (s : State) : Out :=
  .next (match s.op op with
    | some o =>
      match o.kind with
      | .settle scope kind _ =>
        if !s.ready o || s.peerWaits o.owner scope kind op then s
        else
          let s := s.endOp op
          let s := match s.ctxOf o.owner with
            | some c => s.modCtx c fun x => { x with settles := x.settles.filter (· != op) }
            | none => s
          if kind = 1 then s else s.acquire o.core
      | _ => s
    | none => s)

end Sys2Proof.Machine
end

