-- ==== Sys2Proof/Machine/Vector.lean ====
section
/-! DEFINITION. The lane-wise vector instructions (23 R335 to R337), VCMP (R338) and VCVT (R339, R340), over one shared
lane loop that merges flags, raises FP_TRAP (05 R99) and advances SRCNT (05 R95). -/

namespace Sys2Proof.Machine

/-! ### Operands of format V.R -/

/-- The slot's own cluster: V1 is cluster B. -/
def State.clusterB (s : State) : Bool := s.issue.slot == 3

/-- The broadcast value in every lane (04 R77). -/
def State.bcast (s : State) : Vec := List.replicate 64 (s.bpVal.setWidth 32)

/-- Sources A, B and C of a V.R instruction as the bundle read them, or the broadcast lanes that BSEL puts there. -/
def State.vrA (s : State) (o : VR) : Vec := if o.bsel = 1#2 then s.bcast else s.vVal s.clusterB o.va
def State.vrB (s : State) (o : VR) : Vec := if o.bsel = 2#2 then s.bcast else s.vVal s.clusterB o.vb
def State.vrC (s : State) (o : VR) : Vec := if o.bsel = 3#2 then s.bcast else s.vVal s.clusterB o.vc

/-- The register sources of a V.R instruction that reads n of A, B and C, and its predicate. -/
def State.vrSources (s : State) (o : VR) (n : Nat) : List Source :=
  (if 1 ≤ n && o.bsel != 1#2 then [⟨vReg s.clusterB o.va, o.pa, 0⟩] else [])
  ++ (if 2 ≤ n && o.bsel != 2#2 then [⟨vReg s.clusterB o.vb, o.pb, 1⟩] else [])
  ++ (if 3 ≤ n && o.bsel != 3#2 then [⟨vReg s.clusterB o.vc, o.pc, 2⟩] else [])
  ++ [⟨mReg o.msk, false, 3⟩]

/-- The destination's old lanes, which masked-off lanes keep (04 R69). -/
def State.oldVec (s : State) (d : RegName) : Vec := lanesOf (lane (s.cur.regs.get d).toVec)

/-! ### The end of a vector slot -/

/-- Writes a vector slot's result with the flags of each lane: FP_TRAP when a flag whose enable is set was raised, with the
lowest such lane (05 R99); otherwise the result lands after lat cycles with the union of the flags (05 R98), and SRCNT
advances when the slot drew (05 R95). -/
def State.vecResult (s : State) (d : RegName) (lat : Nat) (v : RegVal) (flags : List (Nat × Flags)) (draws : Bool) : State :=
  let all := unionFlags (flags.map (·.2))
  match lowestEnabled (s.issue.sr.fctl.setWidth 5) flags with
  | some i => s.trap cFpTrap (0#50 ++ BitVec.ofNat 6 i ++ 0#3 ++ all : BitVec 64)
  | none =>
    let t := s.result d lat v all
    if draws then t.modCur fun x => { x with srcnt := x.srcnt + 64#64 } else t

/-- The stochastic draw of lane i, 05 R95. -/
def State.draw (s : State) (i : Nat) : Nat :=
  (mix (BitVec.ofNat 64 s.curStrand.idx) (s.cur.srcnt + BitVec.ofNat 64 i)).toNat

/-- The lane loop of 01 Table 1-5: f i in the active lanes, the old value in the others. -/
def State.lanes (s : State) (d : RegName) (mask : Word) (lat : Nat) (draws : Bool) (f : Nat → Lane × Flags) : State :=
  let r := (upto 64).map fun i => if mask.getLsbD i then f i else (lane (s.oldVec d) i, 0#5)
  s.vecResult d lat (.lanes (r.map (·.1))) ((upto 64).zip (r.map (·.2))) draws

/-- A V.R instruction that reads n sources; f gives a lane from its source lanes and its draw. -/
def State.vr (s : State) (o : VR) (n lat : Nat) (rounds : Bool) (f : Lane → Lane → Lane → Nat → Lane × Flags) : State :=
  s.reading (s.vrSources o n) fun s =>
    let a := s.vrA o
    let b := s.vrB o
    let c := s.vrC o
    let draws := rounds && o.ty == 0#4 && o.rm == 4#3
    s.lanes (vReg s.clusterB o.vd) (s.mVal o.msk) lat draws fun i =>
      f (lane a i) (lane b i) (lane c i) (if draws then s.draw i else 0)

/-- A lane that raises no flag. -/
def quiet (x : Lane) : Lane × Flags := (x, 0#5)

/-! ### Integer lanes, 05 R89 -/

/-- The value of an integer lane: i32 signed, n32 unsigned. -/
def intLane (ty : BitVec 4) (x : Lane) : Int := if ty = 1#4 then x.toInt else x.toNat

/-- The exact result in the lane: modulo 2^32, or clamped to the range of the type with SAT. -/
def intResult (ty : BitVec 4) (sat : Bool) (v : Int) : Lane :=
  let sg := ty = 1#4
  if sat then BitVec.ofInt 32 (max (intMin sg 32) (min (intMax sg 32) v)) else BitVec.ofInt 32 v

/-- Op computed exactly over f32 values and rounded once, or over integers. -/
def laneOp (o : VR) (fl : ExactNum → ExactNum → ExactNum → ExactNum × Flags) (int : Int → Int → Int → Int) (a b c : Lane) (r : Nat) :
    Lane × Flags :=
  if o.ty = 0#4 then wr (fl (rd o.zi a) (rd o.zi b) (rd o.zi c)) o.rm.toNat r o.sat o.zo
  else quiet (intResult o.ty o.sat (int (intLane o.ty a) (intLane o.ty b) (intLane o.ty c)))

/-- VADD. -/
def execVadd (o : VR) (s : State) : Out :=
  .next (s.vr o 2 4 true (laneOp o (fun a b _ => a.add o.rm.toNat b) fun a b _ => a + b))
/-- VSUB. -/
def execVsub (o : VR) (s : State) : Out :=
  .next (s.vr o 2 4 true (laneOp o (fun a b _ => a.add o.rm.toNat b.negate) fun a b _ => a - b))
/-- VMUL. -/
def execVmul (o : VR) (s : State) : Out :=
  .next (s.vr o 2 4 true (laneOp o (fun a b _ => a.mul b) fun a b _ => a * b))
/-- VFMA: rounded once. -/
def execVfma (o : VR) (s : State) : Out :=
  .next (s.vr o 3 4 true (laneOp o (fun a b c => a.fma o.rm.toNat b c) fun a b c => a * b + c))

/-- Integer division of a lane, 23 R337: by 0 it gives 0xFFFFFFFF. -/
def divLane (o : VR) (a b : Lane) : Lane :=
  if b = 0#32 then 0xFFFFFFFF#32 else intResult o.ty o.sat ((intLane o.ty a).tdiv (intLane o.ty b))

/-- VDIV. -/
def execVdiv (o : VR) (s : State) : Out :=
  .next (s.vr o 2 14 true fun a b c r =>
    if o.ty = 0#4 then laneOp o (fun a b _ => a.div b) (fun a _ _ => a) a b c r else quiet (divLane o a b))
/-- VSQRT. -/
def execVsqrt (o : VR) (s : State) : Out := .next (s.vr o 1 14 true (laneOp o (fun a _ _ => a.sqrt) fun a _ _ => a))
/-- VEXP2. -/
def execVexp2 (o : VR) (s : State) : Out := .next (s.vr o 1 8 false (laneOp o (fun a _ _ => (a.exp2, 0#5)) fun a _ _ => a))
/-- VLOG2. -/
def execVlog2 (o : VR) (s : State) : Out := .next (s.vr o 1 8 false (laneOp o (fun a _ _ => a.log2) fun a _ _ => a))

/-- The lane of VABS and VNEG: the f32 sign bit, the canonical NaN for a NaN, or the integer result. -/
def signLane (o : VR) (flt : Lane → Lane) (int : Int → Int) (a : Lane) : Lane :=
  if o.ty = 0#4 then (if isNan32 a then qnan else flt a) else intResult o.ty o.sat (int (intLane o.ty a))

/-- VABS. -/
def execVabs (o : VR) (s : State) : Out :=
  .next (s.vr o 1 4 false fun a _ _ _ =>
    quiet (signLane o (fun x => x &&& 0x7FFFFFFF#32) (fun v => if v < 0 then -v else v) a))
/-- VNEG. -/
def execVneg (o : VR) (s : State) : Out :=
  .next (s.vr o 1 4 false fun a _ _ _ => quiet (signLane o (fun x => x ^^^ 0x80000000#32) (fun v => -v) a))

/-- An f32 lane as VMAX and VMIN read it under ZI. -/
def flush (zi : Bool) (x : Lane) : Lane := if zi && f32.isSubnormal x.toNat then x &&& 0x80000000#32 else x

/-- The larger (or smaller) of two lanes, 23 R337; `num` takes the other operand of a NaN. -/
def pickLane (ty : BitVec 4) (zi num larger : Bool) (a b : Lane) : Lane :=
  if ty = 0#4 then
    let a := flush zi a
    let b := flush zi b
    if isNan32 a then (if num && !isNan32 b then b else qnan)
    else if isNan32 b then (if num then a else qnan)
    else if larger then (if totalKey b ≤ totalKey a then a else b)
    else if totalKey a ≤ totalKey b then a else b
  else if larger then (if intLane ty b ≤ intLane ty a then a else b)
  else if intLane ty a ≤ intLane ty b then a else b

/-- VMAX. -/
def execVmax (o : VR) (s : State) : Out :=
  .next (s.vr o 2 4 false fun a b _ _ => quiet (pickLane o.ty o.zi (o.vc == 1#5) true a b))
/-- VMIN. -/
def execVmin (o : VR) (s : State) : Out :=
  .next (s.vr o 2 4 false fun a b _ _ => quiet (pickLane o.ty o.zi (o.vc == 1#5) false a b))

/-- VAND. -/
def execVand (o : VR) (s : State) : Out := .next (s.vr o 2 4 false fun a b _ _ => quiet (a &&& b))
/-- VOR. -/
def execVor (o : VR) (s : State) : Out := .next (s.vr o 2 4 false fun a b _ _ => quiet (a ||| b))
/-- VXOR. -/
def execVxor (o : VR) (s : State) : Out := .next (s.vr o 2 4 false fun a b _ _ => quiet (a ^^^ b))
/-- VNOT. -/
def execVnot (o : VR) (s : State) : Out := .next (s.vr o 1 4 false fun a _ _ _ => quiet (~~~a))
/-- VMOV. -/
def execVmov (o : VR) (s : State) : Out := .next (s.vr o 1 4 false fun a _ _ _ => quiet a)
/-- VSHL: a count of 32 or more gives 0. -/
def execVshl (o : VR) (s : State) : Out := .next (s.vr o 2 4 false fun a b _ _ => quiet (a <<< b.toNat))
/-- VSHR. -/
def execVshr (o : VR) (s : State) : Out := .next (s.vr o 2 4 false fun a b _ _ => quiet (a >>> b.toNat))
/-- VSAR. -/
def execVsar (o : VR) (s : State) : Out := .next (s.vr o 2 4 false fun a b _ _ => quiet (a.sshiftRight b.toNat))

/-- The leading zero bits of the low n bits of a lane. -/
def clzFrom (x : Lane) : Nat → Nat
  | 0 => 0
  | n + 1 => if x.getLsbD n then 0 else 1 + clzFrom x n

/-- VCLZ. -/
def execVclz (o : VR) (s : State) : Out :=
  .next (s.vr o 1 4 false fun a _ _ _ => quiet (BitVec.ofNat 32 (clzFrom a 32)))

/-- VSEL: the mask that VC names is read with the block policy. -/
def execVsel (o : VR) (s : State) : Out :=
  .next (s.reading (s.vrSources o 2 ++ [⟨mReg (o.vc.setWidth 4), false, 2⟩]) fun s =>
    let a := s.vrA o
    let b := s.vrB o
    let c := s.mVal (o.vc.setWidth 4)
    s.lanes (vReg s.clusterB o.vd) (s.mVal o.msk) 4 false fun i => quiet (if c.getLsbD i then lane a i else lane b i))

/-! ### VCMP -/

/-- Cond(C, a, b) of 23 R338. -/
def condLane (o : VR) (a b : Lane) : Bool :=
  let un := o.ty = 0#4 && (isNan32 a || isNan32 b)
  let ka := if o.ty = 0#4 then realKey (flush o.zi a) else intLane o.ty a
  let kb := if o.ty = 0#4 then realKey (flush o.zi b) else intLane o.ty b
  match o.vc.toNat with
  | 0 => !un && ka == kb
  | 1 => un || ka != kb
  | 2 => !un && ka < kb
  | 3 => !un && ka ≤ kb
  | 4 => !un && kb < ka
  | _ => !un && kb ≤ ka

/-- The 64-bit mask with bit i = f i. -/
def maskOf (f : Nat → Bool) : Word := (upto 64).foldl (fun w i => if f i then w ||| BitVec.twoPow 64 i else w) 0#64

/-- VCMP, 23 R338. -/
def execVcmp (o : VR) (s : State) : Out :=
  .next (s.reading (s.vrSources o 2) fun s =>
    let d := o.vd.setWidth 4
    let a := s.vrA o
    let b := s.vrB o
    let m := s.mVal o.msk
    let old := s.cur.regs.mGet d
    s.result (mReg d) 4 (.word (maskOf fun i => if m.getLsbD i then condLane o (lane a i) (lane b i) else old.getLsbD i)) 0#5)

/-! ### VCVT, 23 R339 and R340 -/

/-- Element j, w bits wide, of a register. -/
def element (v : Vec) (w j : Nat) : Nat := (lane v (j * w / 32)).toNat / 2 ^ (j * w % 32) % 2 ^ w

/-- The register with element j replaced. -/
def putElement (v : Vec) (w j x : Nat) : Vec :=
  let old := (lane v (j * w / 32)).toNat
  let sh := 2 ^ (j * w % 32)
  setNth v (j * w / 32) (BitVec.ofNat 32 (old - old / sh % 2 ^ w * sh + x % 2 ^ w * sh))

/-- The element that lane i stands for under PART. -/
def partIndex (w part i : Nat) : Nat := if w < 32 then i + 64 * part else i

/-- VCVT. -/
def execVcvt (o : VCvt) (s : State) : Out :=
  .next (s.reading [⟨vReg s.clusterB o.va, o.pa, 0⟩, ⟨mReg o.msk, false, 3⟩] fun s =>
    let d := vReg s.clusterB o.vd
    let src := s.vVal s.clusterB o.va
    let m := s.mVal o.msk
    let draws := o.rm == 4#3
    let sf := (Fmt.ofCode o.sf.toNat).getD (.flt f32)
    let df := (Fmt.ofCode o.df.toNat).getD (.flt f32)
    let one (i : Nat) : Nat × Flags :=
      roundTo (sf.decZi o.zi (element src sf.width (partIndex sf.width o.part.toNat i))) df o.rm.toNat
        (if draws then s.draw i else 0) o.sat o.zo
    let r := (activeLanes m).map fun i => (i, one i)
    s.vecResult d 4
      (.lanes (r.foldl (fun v x => putElement v df.width (partIndex df.width o.part.toNat x.1) x.2.1) (s.oldVec d)))
      (r.map fun x => (x.1, x.2.2)) draws)

end Sys2Proof.Machine
end

