-- ==== Sys2Proof/Machine/CrossLane.lean ====
section
/-! DEFINITION. Lane, index and mask moves (23 R341), the cross-lane instructions (R346 to R350), VPOP (R351) and VRNG
(R352). -/

namespace Sys2Proof.Machine

/-- VEXT: lane LN, or lane BP[5:0], to an s register. -/
def execVext (d : BitVec 6) (va : BitVec 5) (pa : Bool) (ln : BitVec 6) (ty : BitVec 4) (bp : Bool) (s : State) : Out :=
  .next (s.reading [⟨vReg s.clusterB va, pa, 0⟩] fun s =>
    let x := lane (s.vVal s.clusterB va) (if bp then s.bpVal.setWidth 6 else ln).toNat
    s.resultS d 4 (if ty = 1#4 then x.signExtend 64 else x.setWidth 64))

/-- VIDX. -/
def execVidx (o : VR) (s : State) : Out :=
  .next (s.reading (s.vrSources o 0) fun s =>
    let b : Lane := if o.bsel = 1#2 then s.bpVal.setWidth 32 else 0#32
    s.lanes (vReg s.clusterB o.vd) (s.mVal o.msk) 4 false fun i => quiet (b + BitVec.ofNat 32 i))

/-- VMASK, a mask to an s register. -/
def execVmask (d : BitVec 6) (mx : BitVec 4) (s : State) : Out :=
  .next (s.reading [⟨mReg mx, false, 3⟩] fun s => s.resultS d 4 (s.mVal mx))

/-- VMASK, the broadcast value to a mask. -/
def execVmaskWrite (mx : BitVec 4) (s : State) : Out := .next (s.result (mReg mx) 4 (.word s.bpVal) 0#5)

/-- XMOV: the source lies in the other cluster. -/
def execXmov (o : VR) (s : State) : Out :=
  .next (s.reading [⟨vReg (!s.clusterB) o.va, o.pa, 0⟩, ⟨mReg o.msk, false, 3⟩] fun s =>
    let a := s.vVal (!s.clusterB) o.va
    s.lanes (vReg s.clusterB o.vd) (s.mVal o.msk) 2 false fun i => quiet (lane a i))

/-- VPERM. -/
def execVperm (o : VR) (s : State) : Out :=
  .next (s.reading (s.vrSources o 2) fun s =>
    let a := s.vrA o
    let b := s.vrB o
    s.lanes (vReg s.clusterB o.vd) (s.mVal o.msk) 4 false fun i => quiet (lane a ((lane b i).toNat % 64)))

/-! ### Reductions, 23 R347 -/

/-- One level of the tree: neighbours combine. -/
def pairUp (op : Lane → Lane → Lane × Flags) : List Lane → List (Lane × Flags)
  | a :: b :: l => op a b :: pairUp op l
  | _ => []

/-- The tree over 2^n lanes, with the flags raised anywhere in it. -/
def treeOf (op : Lane → Lane → Lane × Flags) : Nat → List Lane → Flags → Lane × Flags
  | 0, l, g => (lane l 0, g)
  | n + 1, l, g =>
    let r := pairUp op l
    treeOf op n (r.map (·.1)) (unionFlags (g :: r.map (·.2)))

/-- A reduction of the source lanes, each read by `src`: the result in every active lane, its flags on the lowest active
lane. -/
def State.reduce (s : State) (o : VR) (src : Lane → Lane) (op : Lane → Lane → Lane × Flags) (ident : Lane) : State :=
  s.reading (s.vrSources o 1) fun s =>
    let a := s.vrA o
    let m := s.mVal o.msk
    let r := treeOf op 6 (lanesOf fun i => if m.getLsbD i then src (lane a i) else ident) 0#5
    s.lanes (vReg s.clusterB o.vd) m 6 false fun i =>
      (r.1, if (activeLanes m).head? = some i then r.2 else 0#5)

/-- A source lane of a sum: ZI reads it, and no intermediate sum (05 R96). -/
def sumSource (o : VR) (a : Lane) : Lane := if o.ty = 0#4 then flush o.zi a else a

/-- Addition of two lanes under the modifiers of o but ZI. -/
def addLane (o : VR) (a b : Lane) : Lane × Flags :=
  laneOp { o with zi := false } (fun a b _ => a.add o.rm.toNat b) (fun a b _ => a + b) a b 0#32 0

/-- VREDADD. -/
def execVredadd (o : VR) (s : State) : Out :=
  .next (s.reduce o (sumSource o) (addLane o) (if o.ty = 0#4 then 0x80000000#32 else 0#32))
/-- VREDMAX. -/
def execVredmax (o : VR) (s : State) : Out :=
  .next (s.reduce o id (fun a b => quiet (pickLane o.ty o.zi false true a b))
    (if o.ty = 0#4 then 0xFF800000#32 else if o.ty = 1#4 then 0x80000000#32 else 0#32))
/-- VREDMIN. -/
def execVredmin (o : VR) (s : State) : Out :=
  .next (s.reduce o id (fun a b => quiet (pickLane o.ty o.zi false false a b))
    (if o.ty = 0#4 then 0x7F800000#32 else if o.ty = 1#4 then 0x7FFFFFFF#32 else 0xFFFFFFFF#32))

/-- The prefix sums of a list of lanes; a masked-off lane adds nothing and takes its old value (23 R348). -/
def scanFrom (o : VR) (p : Option Lane) : List (Bool × Lane × Lane) → List (Lane × Flags)
  | [] => []
  | (false, _, old) :: l => (old, 0#5) :: scanFrom o p l
  | (true, a, _) :: l =>
    let r :=
      match p with
      | none => if o.ty = 0#4 then wr (rd o.zi a, 0#5) o.rm.toNat 0 o.sat o.zo else quiet a
      | some q => addLane o q (sumSource o a)
    r :: scanFrom o (some r.1) l

/-- VSCAN. -/
def execVscan (o : VR) (s : State) : Out :=
  .next (s.reading (s.vrSources o 1) fun s =>
    let d := vReg s.clusterB o.vd
    let a := s.vrA o
    let m := s.mVal o.msk
    let r := scanFrom o none ((upto 64).map fun i => (m.getLsbD i, lane a i, lane (s.oldVec d) i))
    s.vecResult d 8 (.lanes (r.map (·.1))) ((upto 64).zip (r.map (·.2))) false)

/-! ### VORD, 23 R349 -/

/-- Whether lane value a ranks strictly before b: −0 = +0, and a NaN above +∞. -/
def ranksBefore (o : VR) (a b : Lane) : Bool :=
  let key (x : Lane) : Int :=
    if o.ty = 0#4 then (if isNan32 x then 2 ^ 33 else realKey (flush o.zi x)) else intLane o.ty x
  if o.vc = 1#5 then key b < key a else key a < key b

/-- Inserts lane i into an ordered list, after every lane that does not rank after it. -/
def insertLane (o : VR) (a : Vec) (i : Nat) : List Nat → List Nat
  | [] => [i]
  | j :: js => if ranksBefore o (lane a i) (lane a j) then i :: j :: js else j :: insertLane o a i js

/-- VORD. -/
def execVord (o : VR) (s : State) : Out :=
  .next (s.reading (s.vrSources o 1) fun s =>
    let d := vReg s.clusterB o.vd
    let a := s.vrA o
    let order := (activeLanes (s.mVal o.msk)).foldl (fun l i => insertLane o a i l) []
    let old := s.oldVec d
    s.result d 4 (.lanes (lanesOf fun k => if k < order.length then BitVec.ofNat 32 (nth 0 order k) else lane old k)) 0#5)

/-- VPOP: the entry is removed whatever the mask. -/
def execVpop (vd : BitVec 5) (q : BitVec 3) (qp : Bool) (mk : BitVec 4) (s : State) : Out :=
  .next (s.reading [⟨mReg mk, false, 3⟩] fun s =>
    s.popping q qp fun e s =>
      s.lanes (vReg s.clusterB vd) (s.mVal mk) 4 false fun i => quiet (lane e i))

/-- VRNG: base is XIMM zero-extended, or lanes 1 and 0 of VA. -/
def execVrng (vd va : BitVec 5) (pa : Bool) (mk : BitVec 4) (s : State) : Out :=
  .next (s.reading ((if s.issue.ximm.isSome then [] else [⟨vReg s.clusterB va, pa, 0⟩]) ++ [⟨mReg mk, false, 3⟩]) fun s =>
    let v := s.vVal s.clusterB va
    let base : Word :=
      match s.issue.ximm with
      | some x => x.setWidth 64
      | none => (lane v 1 ++ lane v 0 : BitVec 64)
    s.lanes (vReg s.clusterB vd) (s.mVal mk) 4 false fun i => quiet (mix s.bpVal (base + BitVec.ofNat 64 i)))

end Sys2Proof.Machine
end

