-- ==== Sys2Proof/Machine/Scalar.lean ====
section
/-! DEFINITION. The scalar register-to-register instructions: 20 R282, R290, R291, R296, 21 R310, 22 R317, R322, R323,
23 R357. None raises a flag; EMPTY_READ is their only fault. -/

namespace Sys2Proof.Machine

/-- SD receives f of SA and SB after `lat` cycles. -/
def alu2 (d : BitVec 6) (a b : Src) (lat : Nat) (f : Word → Word → Word) (s : State) : State :=
  s.reading [srcOf a 0, srcOf b 1] fun s => s.resultS d lat (f (s.sVal a) (s.sVal b))

/-- SD receives f of SA and an immediate. -/
def aluImm (d : BitVec 6) (a : Src) (imm : BitVec 13) (f : Word → Word → Word) (s : State) : State :=
  s.reading [srcOf a 0] fun s => s.resultS d 1 (f (s.sVal a) (s.imm imm))

/-- SD receives f of SA. -/
def alu1 (d : BitVec 6) (a : Src) (f : Word → Word) (s : State) : State :=
  s.reading [srcOf a 0] fun s => s.resultS d 1 (f (s.sVal a))

/-- Leading zero bits of a value of w bits. -/
def clzNat (w x : Nat) : Nat := if x = 0 then w else w - 1 - Nat.log2 x

/-- One bits among the low n bits. -/
def popcNat : Nat → Nat → Nat
  | 0, _ => 0
  | n + 1, x => x % 2 + popcNat n (x / 2)

/-- DIV: signed, truncated toward zero; all ones for a zero divisor; −2^63 / −1 is −2^63 (20 R296). -/
def divWord (a b : Word) : Word :=
  if b = 0#64 then BitVec.allOnes 64
  else BitVec.ofInt 64 (a.toInt.tdiv b.toInt)

/-- SAR: copies of the sign enter; 64 or more gives the sign everywhere (22 R322). -/
def sarWord (a : Word) (c : Nat) : Word := if 64 ≤ c then (if a.getLsbD 63 then BitVec.allOnes 64 else 0#64) else a.sshiftRight c
/-- SHL (22 R322). -/
def shlWord (a : Word) (c : Nat) : Word := if 64 ≤ c then 0#64 else a <<< c
/-- SHR (22 R322). -/
def shrWord (a : Word) (c : Nat) : Word := if 64 ≤ c then 0#64 else a >>> c

/-- The larger as signed values (21 Table 21-4). -/
def maxWord (a b : Word) : Word := if a.toInt < b.toInt then b else a
/-- The smaller as signed values. -/
def minWord (a b : Word) : Word := if b.toInt < a.toInt then b else a
/-- Bits [127:64] of the signed product. -/
def mulhWord (a b : Word) : Word := BitVec.ofInt 64 ((a.toInt * b.toInt) / 2 ^ 64)

/-- ADD, 20 R282. -/
def execAdd (d : BitVec 6) (a b : Src) (s : State) : Out := .next (alu2 d a b 1 (· + ·) s)
/-- ADDI, 20 R282. -/
def execAddi (d : BitVec 6) (a : Src) (imm : BitVec 13) (s : State) : Out := .next (aluImm d a imm (· + ·) s)
/-- AND, 20 R282. -/
def execAnd (d : BitVec 6) (a b : Src) (s : State) : Out := .next (alu2 d a b 1 (· &&& ·) s)
/-- ANDI, 20 R282. -/
def execAndi (d : BitVec 6) (a : Src) (imm : BitVec 13) (s : State) : Out := .next (aluImm d a imm (· &&& ·) s)
/-- ANDN, 20 R282. -/
def execAndn (d : BitVec 6) (a b : Src) (s : State) : Out := .next (alu2 d a b 1 (fun x y => x &&& ~~~y) s)
/-- CLZ, 20 R290. -/
def execClz (d : BitVec 6) (a : Src) (s : State) : Out := .next (alu1 d a (fun x => BitVec.ofNat 64 (clzNat 64 x.toNat)) s)
/-- CMP, 20 R291. -/
def execCmp (d : BitVec 6) (a b : Src) (cond : BitVec 6) (s : State) : Out :=
  .next (alu2 d a b 1 (fun x y => boolWord (condCmp cond.toNat x y)) s)
/-- CMPI, 20 R291. -/
def execCmpi (d : BitVec 6) (a : Src) (imm : BitVec 10) (cond : BitVec 3) (s : State) : Out :=
  .next (s.reading [srcOf a 0] fun s => s.resultS d 1 (boolWord (condCmp cond.toNat (s.sVal a) (s.imm10 imm))))
/-- DIV, 20 R296. -/
def execDiv (d : BitVec 6) (a b : Src) (s : State) : Out := .next (alu2 d a b 14 divWord s)
/-- LI, 21 R310. -/
def execLi (d : BitVec 6) (imm : BitVec 13) (s : State) : Out := .next (s.resultS d 1 (s.imm imm))
/-- MAX, 21 R310. -/
def execMax (d : BitVec 6) (a b : Src) (s : State) : Out := .next (alu2 d a b 1 maxWord s)
/-- MIN, 21 R310. -/
def execMin (d : BitVec 6) (a b : Src) (s : State) : Out := .next (alu2 d a b 1 minWord s)
/-- MOV, 21 R310. -/
def execMov (d : BitVec 6) (a : Src) (s : State) : Out := .next (alu1 d a id s)
/-- MUL, 21 R310. -/
def execMul (d : BitVec 6) (a b : Src) (s : State) : Out := .next (alu2 d a b 3 (· * ·) s)
/-- MULH, 21 R310. -/
def execMulh (d : BitVec 6) (a b : Src) (s : State) : Out := .next (alu2 d a b 3 mulhWord s)
/-- OR, 22 R317. -/
def execOr (d : BitVec 6) (a b : Src) (s : State) : Out := .next (alu2 d a b 1 (· ||| ·) s)
/-- ORI, 22 R317. -/
def execOri (d : BitVec 6) (a : Src) (imm : BitVec 13) (s : State) : Out := .next (aluImm d a imm (· ||| ·) s)
/-- POPC, 22 R317. -/
def execPopc (d : BitVec 6) (a : Src) (s : State) : Out := .next (alu1 d a (fun x => BitVec.ofNat 64 (popcNat 64 x.toNat)) s)
/-- SAR by a register, 22 R322. -/
def execSar (d : BitVec 6) (a b : Src) (s : State) : Out := .next (alu2 d a b 1 (fun x c => sarWord x c.toNat) s)
/-- SAR by an immediate. -/
def execSarImm (d : BitVec 6) (a : Src) (c : BitVec 6) (s : State) : Out := .next (alu1 d a (fun x => sarWord x c.toNat) s)
/-- SEL: SB unless the condition register, read with the block policy, is nonzero (22 R323). FN is another register field
of the entry (04 Table 4-15). -/
def execSel (d : BitVec 6) (a b : Src) (c : BitVec 6) (s : State) : Out :=
  .next (s.reading [srcOf a 0, srcOf b 1, ⟨sReg c, false, 3⟩] fun s =>
    s.resultS d 1 (if s.issue.regs.sGet c != 0#64 then s.sVal a else s.sVal b))
/-- SHL by a register, 22 R322. -/
def execShl (d : BitVec 6) (a b : Src) (s : State) : Out := .next (alu2 d a b 1 (fun x c => shlWord x c.toNat) s)
/-- SHL by an immediate. -/
def execShlImm (d : BitVec 6) (a : Src) (c : BitVec 6) (s : State) : Out := .next (alu1 d a (fun x => shlWord x c.toNat) s)
/-- SHR by a register, 22 R322. -/
def execShr (d : BitVec 6) (a b : Src) (s : State) : Out := .next (alu2 d a b 1 (fun x c => shrWord x c.toNat) s)
/-- SHR by an immediate. -/
def execShrImm (d : BitVec 6) (a : Src) (c : BitVec 6) (s : State) : Out := .next (alu1 d a (fun x => shrWord x c.toNat) s)
/-- SUB, 22 R317. -/
def execSub (d : BitVec 6) (a b : Src) (s : State) : Out := .next (alu2 d a b 1 (· - ·) s)
/-- XOR, 23 R357. -/
def execXor (d : BitVec 6) (a b : Src) (s : State) : Out := .next (alu2 d a b 1 (· ^^^ ·) s)
/-- XORI, 23 R357. -/
def execXori (d : BitVec 6) (a : Src) (imm : BitVec 13) (s : State) : Out := .next (aluImm d a imm (· ^^^ ·) s)

end Sys2Proof.Machine
end

