-- ==== Sys2Proof/Machine/Timetable.lean ====
section
/-! DEFINITION. Device time (17 R265), the Timetable (R259 to R263, TTNEXT R261 and 22 R333) and the Bell (R266 to R269). -/

namespace Sys2Proof.Machine

/-- The address space of the tables and areas of the PF driver: tenant 0xFFFF (log 18). -/
def ttAsid : BitVec 16 := 0xFFFF#16

/-! ### Device time -/

/-- What is left of a correction. DTIME is LOCKED within 1 µs of its source (17 Table 17-1). -/
def State.slewed (s : State) (left : Int) : State :=
  { s with slew := left, tt := { s.tt with locked := s.tt.locked || left.natAbs ≤ 1000 } }

/-- n nanoseconds of DTIME pass; a correction is slewed by at most one nanosecond in 5,000 (200 ppm), and whether one is
applied then is free. -/
def State.passNs (s : State) (n : Nat) : State :=
  let acc := s.dslew + n
  let s := { s with dslew := acc % 5000 }
  if acc < 5000 || s.slew = 0 || Config.free s.tick 2 % 2 = 0 then { s with dtime := s.dtime + BitVec.ofNat 64 n }
  else if 0 < s.slew then { s with dtime := s.dtime + BitVec.ofNat 64 (n + 1) }.slewed (s.slew - 1)
  else { s with dtime := s.dtime + BitVec.ofNat 64 (n - 1) }.slewed (s.slew + 1)

/-- The package clock reaches cycle c (02 R32: CCLK is 1.8 GHz, 5/9 ns a cycle). -/
def State.advance (s : State) (c : Nat) : State :=
  if c ≤ s.cclk then s
  else
    let q := s.dsub + 5 * (c - s.cclk)
    ({ s with cclk := c, dsub := q % 9 }).passNs (q / 9)

/-! ### Streams -/

/-- Stream n of the Bell. -/
def State.stream (s : State) (n : Nat) : Stream := mget {} s.tt.streams n
/-- The state with a stream changed. -/
def State.modStream (s : State) (n : Nat) (f : Stream → Stream) : State :=
  { s with tt := { s.tt with streams := mset {} s.tt.streams n (f (s.stream n)) } }

/-- t_k and c_k of a stream (17 R266). -/
def Stream.time (x : Stream) (k : Nat) : Nat := x.phase.toNat + k * x.period.toNat
def Stream.cutoff (x : Stream) (k : Nat) : Int := Int.ofNat (x.time k) - Int.ofNat x.lead.toNat

/-- The first tick at or after a DTIME. -/
def Stream.tickFrom (x : Stream) (t : Nat) : Nat :=
  if t ≤ x.phase.toNat then 0 else (t - x.phase.toNat + x.period.toNat - 1) / Nat.max 1 x.period.toNat

/-- A stream that acts on its own ticks: every one in free-run, and the unattached ones but the master in Bell mode
(17 R268). -/
def State.ownTicks (s : State) (n : Nat) : Bool := !(s.tt.bell && ((s.stream n).attach || n == s.tt.mstream.toNat))

/-- The Timetable or the Bell needs a page without a translation: it parks there as a request of the command processor
does, with engine 7 (log 18). -/
def State.ttPark (s : State) (asid : BitVec 16) (va : Nat) (write : Bool) (queue stream : Nat) : State :=
  let e : CpPark := ⟨asid, va / 65536, write, stream, queue, s.parks⟩
  let s := if s.cpParked.any (fun x => { x with arrival := s.parks } == e) then s
    else { s with cpParked := s.cpParked ++ [e], parks := s.parks + 1 }
  s.pageFault asid (BitVec.ofNat 57 va) write false 0 7 ⟨0, 0⟩

/-- What blocks a request of the Timetable, or of the Bell for a stream. -/
def State.ttBlocked (s : State) (asid : BitVec 16) (write : Bool) (b : Blocked) (queue : Nat := 512) (stream : Nat := 0) : State :=
  match b with
  | .missing va => s.ttPark asid va write queue stream
  | .waits => s

/-- The Timetable has no parked request. -/
def State.ttFree (s : State) : Bool := s.cpParked.all fun e => e.queue != 512

/-- The Bell has no parked request for a stream: of its look, queue 513, or of its header, queue 514 (09 R171). -/
def State.bellFree (s : State) (queue n : Nat) : Bool := s.cpParked.all fun e => !(e.queue == queue && e.seq == n)

/-- What a look at a stream's tape finds: the blocks and the stamps of the present tokens from one on, at most n; or a line
that cannot be reached now. -/
def State.stamps (s : State) (d : Desc) (ecount : Nat) : Nat → Nat → Except Blocked (List (Nat × Nat))
  | 0, _ => .ok []
  | n + 1, j =>
    if ecount < 64 * (j + 1) then .ok []
    else match s.locate ttAsid d (64 * j) with
      | .beyond | .stop .bad => .ok []
      | .stop (.missing va) => .error ((s.lineBlocked ttAsid false va).getD .waits)
      | .at_ g b _ =>
        let va := blockVa d g b
        match s.natAt ttAsid va 8 with
        | none => match s.lineBlocked ttAsid false va with
          | some b => .error b
          | none => .ok []
        | some t => (s.stamps d ecount n (j + 1)).map ((va, t) :: ·)

/-- A stream's descriptor and ECOUNT, which a look that waits for another line has seen already. -/
def State.tapeSeen (s : State) (x : Stream) : Except Blocked (Desc × Nat) :=
  let va := x.tape.toNat / 64 * 64
  match s.blocked ttAsid false va 64 with
  | some b => .error b
  | none =>
    .ok (match s.bytesAt ttAsid va 64 with
      | none => ({}, 0)
      | some bs => (Desc.parse (lineBits bs), x.seen.getD (descEcount (lineBits bs))))

/-- The present tokens that a stream's next step may take, up to 32: blocks and stamps. -/
def State.present (s : State) (x : Stream) : Except Blocked (List (Nat × Nat)) :=
  match s.tapeSeen x with
  | .error b => .error b
  | .ok (d, e) => s.stamps d e 32 x.token

/-- The run of a step with cutoff c: the present tokens as far as their stamps are at most c (17 R267). -/
def runOf (c : Int) (l : List (Nat × Nat)) : List Nat := (l.map (·.2)).takeWhile fun t => Int.ofNat t ≤ c

/-- A mask over a run. -/
def runMask (f : Nat → Bool) (l : List Nat) : BitVec 32 :=
  ((upto 32).zip l).foldl (fun m (i, t) => if f t then m ||| BitVec.twoPow 32 i else m) 0#32

/-- A saturating 32-bit count. -/
def satAdd32 (a : BitVec 32) (n : Nat) : BitVec 32 := if 0xFFFFFFFF < a.toNat + n then 0xFFFFFFFF#32 else a + BitVec.ofNat 32 n

/-- What a look of a stream comes to: a line that it needs cannot be reached now; it holds; or it takes or skips. -/
inductive Looked where
  | blocked (b : Blocked)
  | holds
  | takes (t : Take)

/-- Stream n looks at step k, which started at `start`: it takes or skips, or goes on holding (17 R267, R268). The lines that it
reads are its descriptor and the tokens of the run, with the one that stops it. A look that must wait for a line of the tape
keeps ECOUNT as it found it, so that it takes no token that was not present then. DESIGN CHOICE (log 20): the descriptor
itself is looked at as soon as its line can be reached. -/
def State.look (s : State) (n k start : Nat) : State × Looked :=
  let x := s.stream n
  if !s.bellFree 513 n then (s, .blocked .waits)
  else match s.tapeSeen x, s.present x with
  | .error b, _ => (s, .blocked b)
  | .ok (_, e), .error b => (s.modStream n fun y => { y with seen := some e }, .blocked b)
  | .ok _, .ok l =>
    let run := runOf (x.cutoff k) l
    let late (t : Nat) : Bool := x.cut2 < Int.ofNat t && Int.ofNat t ≤ x.cut1
    let dropped (t : Nat) : Bool := Int.ofNat t ≤ x.cut2
    let short := decide ((run.filter fun t => x.cut1 < Int.ofNat t).length < x.expect.toNat)
    let now := s.dtime.toNat
    let s := (l.take (run.length + 1)).foldl (fun s y => s.countRead ttAsid y.1 64)
      (s.countRead ttAsid (x.tape.toNat / 64 * 64) 64)
    let next (y : Stream) : Stream :=
      { y with cut2 := y.cut1, cut1 := x.cutoff k, holding := none, seen := none, tick := k + 1, missed := 0 }
    if short && x.policy = 0#2 && decide (now < start + x.grace.toNat) then
      (s.modStream n fun y => { y with holding := some start, seen := none }, .holds)
    else if short && x.policy = 2#2 then
      (s.modStream n next, .takes { stream := n, start := now, first := x.token, skipped := true })
    else
      (s.modStream n fun y => next { y with
          token := y.token + run.length
          latecnt := satAdd32 y.latecnt (run.filter late).length
          dropcnt := satAdd32 y.dropcnt (run.filter dropped).length },
        .takes { stream := n, start := now, first := x.token, count := run.length, late := runMask late run
                 drop := runMask dropped run, gap := short, held := x.holding.isSome || short && x.policy == 0#2 })

/-- A step header, 17 Table 17-4. -/
def stepHeader (tick missed : Nat) (t : Take) : BitVec 512 :=
  0#245 ++ BitVec.ofBool t.skipped ++ BitVec.ofBool t.held ++ BitVec.ofBool t.gap ++ BitVec.ofNat 8 (Nat.min missed 255)
    ++ t.drop ++ t.late ++ 0#8 ++ BitVec.ofNat 8 t.count ++ BitVec.ofNat 48 t.first ++ BitVec.ofNat 64 t.start
    ++ BitVec.ofNat 64 tick

/-- Where a stream's header of a tick goes; none without a ring. -/
def Stream.headerVa (x : Stream) (tick : Nat) : Option Nat :=
  if x.stepbase = 0#57 then none else some (x.stepbase.toNat + 64 * (tick % ringSize x.steplog2n.toNat))

/-- The headers of a step; or what blocks one, with its stream. -/
def State.headers (s : State) (tick missed : Nat) : List Take → Except (Nat × Blocked) State
  | [] => .ok s
  | t :: l =>
    match (s.stream t.stream).headerVa tick with
    | none => s.headers tick missed l
    | some va =>
      if !s.bellFree 514 t.stream then .error (t.stream, .waits)
      else match s.blocked ttAsid true va 64 with
        | some b => .error (t.stream, b)
        | none => ((s.putAt ttAsid va (bitsLine (stepHeader tick missed t))).getD s).headers tick missed l

/-- BELLST of a step, 17 Table 17-3. -/
def bellst (missed : Nat) (l : List Take) : Word :=
  let bits (f : Take → Bool) : BitVec 16 := l.foldl (fun m t => if f t then m ||| BitVec.twoPow 16 t.stream else m) 0#16
  0#8 ++ BitVec.ofNat 8 (Nat.min missed 255) ++ bits (·.held) ++ bits (·.skipped) ++ bits (·.gap)

/-- Every stream of a list looks at a step: those whose look is blocked, those that hold, and what the others took. -/
def State.looks (s : State) (k start : Nat) : List Nat → State × List Nat × List Nat × List Take
  | [] => (s, [], [], [])
  | n :: l =>
    match s.look n k start with
    | (t, .blocked b) => let (u, v, w, ts) := (t.ttBlocked ttAsid false b 513 n).looks k start l; (u, n :: v, w, ts)
    | (t, .holds) => let (u, v, w, ts) := t.looks k start l; (u, v, n :: w, ts)
    | (t, .takes x) => let (u, v, w, ts) := t.looks k start l; (u, v, w, x :: ts)

/-- The step goes on: streams of a list look; once none holds and none is still to look, the headers are written and the Timetable
triggers. -/
def State.stepOn (s : State) (b : BellStep) (ns : List Nat) : State :=
  let (t, v, w, ts) := s.looks b.tick b.start ns
  let left (l : List Nat) : List Nat := l.filter fun n => !ns.contains n
  let b := { b with waiting := left b.waiting ++ w, unseen := left b.unseen ++ v, takes := b.takes ++ ts }
  let t := { t with tt := { t.tt with step := some b } }
  if b.waiting.isEmpty && b.unseen.isEmpty then
    match t.headers b.tick b.missed b.takes with
    | .error (n, e) => t.ttBlocked ttAsid true e 514 n
    | .ok t => { t with tt := { t.tt with step := none, due := some (b.tick, bellst b.missed b.takes), read := none } }
  else t

/-- The streams of a step at tick k: the master, and the enabled attached streams whose ticks have come. -/
def State.stepStreams (s : State) (k : Nat) : List Nat :=
  (upto 16).filter fun n =>
    let x := s.stream n
    x.en && (n == s.tt.mstream.toNat || x.attach && x.tick ≤ k)

/-- A step starts. -/
def State.beginStep (s : State) (k missed start : Nat) : State :=
  let ns := s.stepStreams k
  let t := ns.foldl (fun s n => s.modStream n fun x => { x with holding := none, seen := none }) s
  t.stepOn { tick := k, missed := missed, start := start, waiting := ns } ns

/-- A step is being gathered, an iteration runs, or one is due. -/
def State.busy (s : State) : Bool := s.tt.current.isSome || s.tt.step.isSome || s.tt.due.isSome

/-- A tick of the master is missed (17 R269). -/
def State.missTicks (s : State) (n : Nat) : State :=
  let m := s.tt.mstream.toNat
  let t := s.modStream m fun x => { x with tick := x.tick + n, missed := x.missed + n }
  { t with tt := { t.tt with misscnt := satAdd32 t.tt.misscnt n } }

/-- The headers of streams on their own ticks go out, oldest first; one whose line cannot be reached now keeps those behind it
back. -/
def State.ownHeaders (s : State) : List (Nat × Nat × Take) → State
  | [] => { s with tt := { s.tt with headers := [] } }
  | (k, missed, x) :: l =>
    match s.headers k missed [x] with
    | .error (n, b) => { s with tt := { s.tt with headers := (k, missed, x) :: l } }.ttBlocked ttAsid true b 514 n
    | .ok t => t.ownHeaders l

/-- A look of a stream on its own ticks. -/
def State.ownLook (s : State) (n k start missed : Nat) : State :=
  match s.look n k start with
  | (t, .blocked b) => t.ttBlocked ttAsid false b 513 n
  | (t, .holds) => t.modStream n fun x => { x with tick := k + 1 }
  | (t, .takes r) => t.ownHeaders (t.tt.headers ++ [(k, missed, r)])

/-- The tick that a holding stream on its own ticks holds for. -/
def Stream.heldTick (x : Stream) : Nat := x.tick - 1

/-- The on-time tokens that a holding stream waits for are there. -/
def State.countReached (s : State) (n k : Nat) : Bool :=
  let x := s.stream n
  match s.present x with
  | .ok l => x.expect.toNat ≤ ((runOf (x.cutoff k) l).filter fun t => x.cut1 < Int.ofNat t).length
  | .error _ => false

/-- A holding stream looks again. -/
def State.lookAgain (s : State) (n : Nat) : State :=
  match (s.stream n).holding with
  | none => s
  | some start =>
    if s.ownTicks n then s.ownLook n (s.stream n).heldTick start (s.stream n).missed
    else match s.tt.step with
      | some b => if b.waiting.contains n then s.stepOn b [n] else s
      | none => s

/-- The tick of the step for which a stream holds. -/
def State.holdTick (s : State) (n : Nat) : Nat :=
  if s.ownTicks n then (s.stream n).heldTick else match s.tt.step with | some b => b.tick | none => 0

/-- What BELL_TICK of a stream does now: a holding stream's count is reached, a tick of its own, a step that starts with the
latest missed tick, a master tick that is missed, that starts a step, or that passes; the looks of a step that waited for a
line, or the headers of one that every stream has taken or skipped; or headers of own ticks that waited. -/
inductive Ticking where
  | nothing
  | headers
  | gathered (b : BellStep)
  | again
  | own (k start missed : Nat)
  | late (k missed start : Nat)
  | missed
  | starts (k : Nat)
  | passes
deriving DecidableEq, Repr

/-- Which of them. -/
def State.ticking (s : State) (n : Nat) : Ticking :=
  let x := s.stream n
  let now := s.dtime.toNat
  let t := x.time x.tick
  let rest : Ticking := if s.tt.headers.any (·.2.2.stream == n) then .headers else .nothing
  if !x.en then rest
  else if x.holding.isSome && s.bellFree 513 n && (x.seen.isSome || s.countReached n (s.holdTick n)) then .again
  else if s.ownTicks n then
    if x.holding.isSome || !s.bellFree 513 n then rest
    else if 0 < x.missed then .own (x.tick - 1) x.late x.missed
    else if t ≤ now then .own x.tick t 0 else rest
  else if n != s.tt.mstream.toNat then rest
  else if let some b := s.tt.step then (if b.waiting.isEmpty || !b.unseen.isEmpty then .gathered b else rest)
  else if !s.tt.run || s.tt.starting then (if t ≤ now then .passes else rest)
  else if s.busy then (if t < now then .missed else rest)
  else if 0 < x.missed then .late (x.tick - 1) x.missed x.late
  else if t ≤ now then .starts x.tick else rest

/-- BELL_TICK, 17 R268, R269. -/
def execBellTick (stream : BitVec 4) (s : State) : Out :=
  let n := stream.toNat
  .next (match s.ticking n with
    | .nothing => s
    | .headers => s.ownHeaders s.tt.headers
    | .gathered b => s.stepOn b b.unseen
    | .again => s.lookAgain n
    | .own k start missed => s.ownLook n k start missed
    | .late k missed start => s.beginStep k missed start
    | .missed => s.missTicks 1
    | .starts k => s.beginStep k 0 ((s.stream n).time k)
    | .passes => s.modStream n fun x => { x with tick := x.tick + 1 })

/-- BELL_TICK of a stream would do something now: it is due, and no line that it needs waits behind a migration. -/
def State.bellActs (s : State) (n : Nat) : Bool :=
  s.ticking n != .nothing && (match execBellTick (BitVec.ofNat 4 n) s with
    | .next t => t.tt != s.tt || t.cpParked != s.cpParked
    | _ => false)

/-- A holding stream's GRACE has passed. -/
def State.graceOver (s : State) (n : Nat) : Bool :=
  let x := s.stream n
  match x.holding with
  | some start => x.en && s.bellFree 513 n && start + x.grace.toNat ≤ s.dtime.toNat
  | none => false

/-- BELL_GRACE_EXPIRY, 17 R268. -/
def execBellGraceExpiry (stream : BitVec 4) (s : State) : Out :=
  .next (if s.graceOver stream.toNat then s.lookAgain stream.toNat else s)

/-- BELL_GRACE_EXPIRY of a stream would do something now. -/
def State.graceActs (s : State) (n : Nat) : Bool :=
  s.graceOver n && (let t := s.lookAgain n; t.tt != s.tt || t.cpParked != s.cpParked)

/-- What falls due at the Bell by now, before anything else happens: a stream looks at the tokens that are present at its tick,
when its count is reached, or when its GRACE passes (17 R268). -/
def State.bellMoves (s : State) : List Instr :=
  s.tt.streams.flatMap fun (n, _) =>
    (if s.bellActs n then [Instr.bellTick (BitVec.ofNat 4 n)] else [])
    ++ (if s.graceActs n then [.bellGraceExpiry (BitVec.ofNat 4 n)] else [])

/-- The ticks start afresh after a change of RUN, BELL or MSTREAM, or of the master's EN: no step is being gathered, the
master's next tick is the first one after now, and in free-run a trigger is due when no iteration runs (17 R268; log 20). -/
def State.rebase (s : State) : State :=
  let m := s.tt.mstream.toNat
  let now := s.dtime.toNat
  let s := (match s.tt.step with | some b => b.waiting ++ b.unseen | none => []).foldl (fun (s : State) n =>
    s.modStream n fun x => { x with holding := none, seen := none }) s
  let s := { s with tt := { s.tt with
    step := none
    read := none
    due := if s.tt.run && !s.tt.bell && s.tt.current.isNone && !s.tt.starting then some (0, 0#64) else none } }
  if s.tt.bell then s.modStream m fun x => { x with tick := x.tickFrom (now + 1), missed := 0 } else s

/-- A change of BELL or MSTREAM from the state `old`: a stream whose ticks become its own, or the Bell's, starts afresh, and its
next tick is the first one after now (17 R268; log 20). -/
def State.retick (s old : State) : State :=
  s.tt.streams.foldl (fun t (n, _) =>
    if s.ownTicks n = old.ownTicks n then t
    else t.modStream n fun x => { x with tick := x.tickFrom (s.dtime.toNat + 1), missed := 0, holding := none, seen := none }) s

/-- A stream may be enabled (17 R266). -/
def State.streamOk (s : State) (n : Nat) : Bool :=
  let x := s.stream n
  let m := s.stream s.tt.mstream.toNat
  let tape := match s.bytesAt ttAsid (x.tape.toNat / 64 * 64) 64 with
    | some bs => descValid (x.tape.toNat / 64 * 64) (lineBits bs) && (Desc.parse (lineBits bs)).kind == 1
    | none => false
  100000 ≤ x.period.toNat && x.phase.toNat < x.period.toNat && x.lead.toNat < x.period.toNat
  && x.grace.toNat ≤ x.period.toNat - x.lead.toNat && x.expect != 0#6 && x.expect.toNat ≤ 32 && x.policy != 3#2 && tape
  && (!x.attach || x.period == m.period && x.phase == m.phase)

/-- STREAM_ENABLE: a write of EN = 1 to a stream whose EN is 0. Its descriptor is read, and while that line waits behind a migration
the write waits (14 R237). -/
def execStreamEnable (stream : BitVec 4) (s : State) : Out :=
  let n := stream.toNat
  let va := (s.stream n).tape.toNat / 64 * 64
  .next (if (s.stream n).en then s
    else if s.blocked ttAsid false va 64 = some .waits then { s with inputs := s.inputs ++ [.streamEnable stream] }
    else if s.streamOk n then
      (s.countRead ttAsid va 64).modStream n fun x =>
        { x with en := true, tick := x.tickFrom (s.dtime.toNat + 1), holding := none, seen := none, missed := 0 }
    else (s.countRead ttAsid va 64).modStream n fun x => { x with cfgerr := true })

/-- A write of EN = 0: the stream leaves the step; without its master no step is gathered and none is due. -/
def State.streamDisable (s : State) (n : Nat) : State :=
  let s := s.modStream n fun x => { x with en := false, holding := none, seen := none }
  if s.ownTicks n then s
  else if n = s.tt.mstream.toNat then { s with tt := { s.tt with step := none, due := none, read := none } }
  else match s.tt.step with
    | none => s
    | some b =>
      if (b.waiting ++ b.unseen).contains n then
        s.stepOn { b with waiting := b.waiting.filter (· != n), unseen := b.unseen.filter (· != n) } []
      else s

/-- DTIME_CORRECTION, 17 R265: a target of the source that CLKSRC selects. A forward correction of more than 1 ms is one step,
and the ticks that it jumps over are missed (R269); every other is slewed. -/
def execDtimeCorrection (target : BitVec 64) (s : State) : Out :=
  let now := s.dtime.toNat
  .next (if s.tt.clksrc = 0#2 || s.tt.clksrc = 3#2 then s
    else if target.toNat ≤ now + 1000000 then
      { s with slew := Int.ofNat target.toNat - Int.ofNat now
               tt := { s.tt with locked := decide (now ≤ target.toNat + 1000 && target.toNat ≤ now + 1000) } }
    else
      let busy := s.busy
      let t := { s with dtime := target, slew := 0, tt := { s.tt with locked := true } }
      t.tt.streams.foldl (fun t (n, x) =>
        let jumped := x.tickFrom target.toNat - x.tick
        if !x.en || jumped = 0 then t
        else if t.ownTicks n then
          if x.holding.isSome then t else t.modStream n fun x => { x with
            tick := x.tick + jumped, missed := x.missed + jumped, late := target.toNat }
        else if n = t.tt.mstream.toNat && t.tt.run && !busy && !t.tt.starting then
          (t.missTicks jumped).modStream n fun x => { x with late := target.toNat }
        else t) t)

/-! ### Boundaries -/

/-- Bit r of LIVE. -/
def liveBit (live : List Byte) (r : Nat) : Bool := (nth 0#8 live (r / 8)).getLsbD (r % 8)

/-- LIVE with the rows cleared that ROWTEN gives to a tenant of the reset set. -/
def maskLive (live rowten : List Byte) (resets : List (BitVec 16)) : List Byte :=
  (upto 128).map fun i => (upto 8).foldl (fun (m : Byte) b =>
    let r := 8 * i + b
    if liveBit live r && !resets.contains (BitVec.ofNat 16 (leNat ((rowten.drop (2 * r)).take 2))) then m ||| BitVec.twoPow 8 b else m) 0#8

/-- The set bits of bytes. -/
def countBits (l : List Byte) : Nat := (l.map fun b => ((upto 8).filter b.getLsbD).length).foldl (· + ·) 0

/-- Bytes of the pending area; a line that cannot be read gives free values. -/
def State.areaBytes (s : State) (va n key : Nat) : List Byte := (s.bytesAt ttAsid va n).getD (freeBytes s.tick key n)

/-- The reads and writes of a boundary, 17 R262, then `k`; they park where a page has no translation. -/
def State.boundary (s : State) (k : State → State) : State :=
  let p := s.tt.pendva.toNat / 64 * 64
  let c := s.tt.curva.toNat / 64 * 64
  match s.blocked ttAsid false p 2304, s.blocked ttAsid true c 2304 with
  | some b, _ => s.ttBlocked ttAsid false b
  | none, some b => s.ttBlocked ttAsid true b
  | none, none =>
    let s := s.countRead ttAsid p 2304
    let ctrl := leNat (s.areaBytes (p + 128) 8 1)
    let rowten := s.areaBytes (p + 256) 2048 2
    let live := maskLive (s.areaBytes p 128 0) rowten s.tt.resetSet
    let put (s : State) (va : Nat) (bs : List Byte) : State := (s.putAt ttAsid va bs).getD s
    let t := put (put (put s c live) (c + 128) (leBytes 8 (ctrl % 16))) (c + 256) rowten
    k { t with tt := { t.tt with occ := countBits live, draft := BitVec.ofNat 4 ctrl, resetSet := [] } }

/-- After a boundary (17 R268, R269): in free-run a trigger is due; in Bell mode the master ticks that passed are missed, and
the step that takes the latest of the missed ones starts at the boundary's DTIME. -/
def State.afterBoundary (s : State) : State :=
  if !s.tt.run then s
  else if !s.tt.bell then { s with tt := { s.tt with due := some (0, 0#64) } }
  else
    let x := s.stream s.tt.mstream.toNat
    let passed := x.tickFrom s.dtime.toNat - x.tick
    (if x.en && passed != 0 then s.missTicks passed else s).modStream s.tt.mstream.toNat fun x => { x with late := s.dtime.toNat }

/-- Every job of an iteration has completed. -/
def State.iterDone (s : State) (i : Iter) : Bool :=
  i.jobs.all fun q => match findJob q s.jobs with | some j => j.completed | none => true

/-- The first of the iterations left from before a stop whose jobs have completed. -/
def State.pastDone (s : State) : Option Iter := s.tt.past.find? s.iterDone

/-- ITERATION_BOUNDARY, 17 R262, R263: the boundary that RUN asks for; that of the iteration whose jobs have completed; that of
one which a stop left running. -/
def execIterationBoundary (s : State) : Out :=
  .next (if !s.ttFree then s
    else if s.tt.starting then
      s.boundary fun s => ({ s with tt := { s.tt with starting := false } }).rebase
    else match s.tt.current with
      | some i =>
        if s.iterDone i then
          if i.committed then s.boundary fun s => ({ s with tt := { s.tt with current := none } }).afterBoundary
          else
            let t := { s with tt := { s.tt with current := none } }
            if i.stopped then t else (t.ttRecord i.num 4 0).ttStop 4
        else match s.pastDone with
          | some p =>
            let go (s : State) : State := { s with tt := { s.tt with past := s.tt.past.erase p } }
            if p.committed then s.boundary go else go s
          | none => s
      | none => match s.pastDone with
        | some p =>
          let go (s : State) : State := { s with tt := { s.tt with past := s.tt.past.erase p } }
          if p.committed then s.boundary go else go s
        | none => s)

/-- RUN is written from 0 to 1: a boundary (17 R263), before the first trigger. A write of 1 while RUN = 1 has no effect. -/
def execRun (s : State) : Out :=
  .next (if s.tt.run then s
    else
      let s := { s with tt := { s.tt with
        run := true, starting := true, past := s.tt.past ++ s.tt.current.toList, current := none, due := none, read := none
        step := none } }
      match execIterationBoundary s with
      | .next t => t
      | _ => s)

/-- RUN is written from 1 to 0. -/
def State.runOff (s : State) : State :=
  if s.tt.run then s.rebase.ttStop 0 else s

/-! ### Triggers -/

/-- The bucket that an iteration's shape selects: the matching one of lowest index (17 R259). -/
def State.bucket (s : State) : Option Nat :=
  (upto 64).find? fun b =>
    let e := mget 0#37 s.tt.buckets b
    let f (lo n : Nat) : Nat := (e.extractLsb' lo n).toNat
    e.getLsbD 36 && f 0 11 ≤ s.tt.occ && s.tt.occ ≤ f 11 11 && f 22 4 ≤ s.tt.draft.toNat && s.tt.draft.toNat ≤ f 26 4

/-- The schedule and the bucket selected. With FEN = 1 the bucket is a free value: none is used. -/
def State.pickSchedule (s : State) : Option (Nat × Nat) :=
  if s.tt.fen then some (s.tt.fsched.toNat, Config.free s.tick 3 % 64)
  else s.bucket.map fun b => (((mget 0#37 s.tt.buckets b).extractLsb' 30 6).toNat, b)

/-- A schedule entry's packet array, when the entry is valid (17 Table 17-2): its VA and the number of packets. -/
def scheduleEntry (e : BitVec 128) : Option (Nat × Nat) :=
  if e.getLsbD 72 && e.extractLsb' 0 6 == 0#6 && e.extractLsb' 57 7 == 0#7 && e.extractLsb' 68 4 == 0#4
    && e.extractLsb' 73 55 == 0#55 then
    some ((e.extractLsb' 6 51).toNat * 64, (e.extractLsb' 64 4).toNat + 1)
  else none

/-- The relative dependences of packet i are in order. -/
def relativeOk (p : BitVec 512) (i : Nat) : Bool :=
  let ok (lo kind : Nat) : Bool := p.extractLsb' kind 4 == 0#4 || decide ((p.extractLsb' lo 56).toNat < i)
  ok 384 440 && ok 448 504

/-- A packet with its relative dependences as sequence numbers of the iteration whose first job is `first`. -/
def absolute (p : BitVec 512) (first : Nat) : BitVec 512 :=
  let dep (p : BitVec 512) (lo kind : Nat) : BitVec 512 :=
    if p.extractLsb' kind 4 == 0#4 then p
    else
      let v := p.extractLsb' lo 56
      let mask : BitVec 512 := (BitVec.allOnes 56).setWidth 512 <<< lo
      (p &&& ~~~mask) ||| ((v + BitVec.ofNat 56 first).setWidth 512 <<< lo)
  dep (dep p 384 440) 448 504

/-- The source of a schedule packet (17 R260). -/
def ttSource (p : BitVec 512) : Source39 := { tenant := p.extractLsb' 336 16, cap := 31, pf := true }

/-- What the packets of a schedule are found to be. -/
inductive Schedule where
  | ok (l : List (BitVec 512 × BitVec 512 × List Group))
  | refused
  | blocked (asid : BitVec 16) (b : Blocked)

/-- The checks of the packets from index i on. -/
def State.checkSchedule (s : State) (i : Nat) : List (BitVec 512) → Schedule
  | [] => .ok []
  | p :: l =>
    if !relativeOk p i then .refused
    else match s.checkPacket p (ttSource p) true with
      | .blocked b => .blocked (ttSource p).tenant b
      | .bad _ => .refused
      | .ok h gs => match s.checkSchedule (i + 1) l with
        | .ok r => .ok ((p, h, gs) :: r)
        | x => x

/-- The requests of the checks of a schedule's packets, up to the first that fails (14 R228, R236). -/
def State.countSchedule (s : State) (i : Nat) : List (BitVec 512) → State
  | [] => s
  | p :: l =>
    if !relativeOk p i then s
    else
      let t := s.countPacket p (ttSource p) true
      match s.checkPacket p (ttSource p) true with
      | .ok .. => t.countSchedule (i + 1) l
      | _ => t

/-- The packets of an iteration are admitted, in array order. -/
def State.admitAll (s : State) (first : Nat) (gen : List Word) (num : Nat) : List (BitVec 512 × BitVec 512 × List Group) → State
  | [] => s
  | (p, h, gs) :: l =>
    let seq := s.nextSeq
    let t := (s.accept (absolute p first) (ttSource p) none 0 h gs).modJob seq fun j => { j with iter := some num, gen := gen }
    t.admitAll first gen num l

/-- A trigger is skipped (17 R260 step 1): a record, and a boundary. -/
def State.skipTrigger (s : State) : State :=
  s.boundary fun s =>
    let s := { s with tt := { s.tt with due := none, read := none } }.ttRecord ((s.tt.iter.toNat + 1) % 2 ^ 48) 1 0
    if s.tt.bell then s.afterBoundary else s.ttStop 1

/-- A trigger may act: one is due, no iteration runs, and the launch record takes jobs (15 R252, 03 R49). -/
def State.mayTrigger (s : State) : Bool :=
  s.tt.run && !s.tt.starting && s.tt.due.isSome && s.tt.current.isNone && s.ttFree && s.admitting

/-- The trigger with a schedule's packets. Where its jobs would pass the last sequence number, admission stops and the host has
an event (03 R49). -/
def State.trigger (s : State) (tick : Nat) (bell : Word) (sched bucket : Nat) (ps : List (BitVec 512)) : State :=
  let num := (s.tt.iter.toNat + 1) % 2 ^ 48
  let c := s.countSchedule 0 ps
  match s.checkSchedule 0 ps with
  | .blocked asid b => s.ttBlocked asid false b
  | .refused => (c.ttRecord num 3 0).ttStop 3
  | .ok l =>
    let s := c
    if 2 ^ 56 < s.nextSeq + l.length then { s with signals := s.signals ++ [.event], tt := { s.tt with full := true } }
    else
    let first := s.nextSeq
    let occ : Word := BitVec.ofNat 48 num ++ BitVec.ofNat 16 s.tt.occ
    let draft : Word := 0#41 ++ BitVec.ofBool s.tt.fen ++ BitVec.ofNat 6 bucket ++ 0#2 ++ BitVec.ofNat 6 sched ++ 0#4 ++ s.tt.draft
    let t := s.admitAll first [BitVec.ofNat 64 tick, occ, draft, bell] num l
    { t with tt := { t.tt with
        iter := BitVec.ofNat 48 num, due := none, read := none
        current := some { num := num, jobs := (upto l.length).map (first + ·), tick := tick } } }

/-- TIMETABLE_TRIGGER, 17 R260. A packet that an uncorrectable error hides is refused. The packets are read once: where their checks
must wait, they are kept as they were read (03 R38). -/
def execTimetableTrigger (s : State) : Out :=
  .next (match s.mayTrigger, s.tt.due with
    | true, some (tick, bell) =>
      match s.tt.read with
      | some (sched, bucket, ps) => s.trigger tick bell sched bucket ps
      | none =>
      match s.pickSchedule with
      | none => s.skipTrigger
      | some (sched, bucket) =>
        let va := s.tt.schbase.toNat / 16 * 16 + 16 * sched
        match s.blocked ttAsid false va 16 with
        | some b => s.ttBlocked ttAsid false b
        | none =>
          match (s.natAt ttAsid va 16).bind fun n => scheduleEntry (BitVec.ofNat 128 n) with
          | none => s.skipTrigger
          | some (pkts, n) =>
            match s.blocked ttAsid false pkts (64 * n) with
            | some b => s.ttBlocked ttAsid false b
            | none =>
              match s.bytesAt ttAsid pkts (64 * n) with
              | none => (s.ttRecord ((s.tt.iter.toNat + 1) % 2 ^ 48) 3 0).ttStop 3
              | some bs =>
                let ps := (upto n).map fun i => lineBits ((bs.drop (64 * i)).take 64)
                let t := (s.countRead ttAsid va 16).countRead ttAsid pkts (64 * n)
                { t with tt := { t.tt with read := some (sched, bucket, ps) } }.trigger tick bell sched bucket ps
    | _, _ => s)

/-! ### TTNEXT -/

/-- TTNEXT, 17 R261: it reaches the Timetable once the strand's earlier accesses have performed (22 R333). -/
def execTtnext (d : BitVec 6) (s : State) : Out :=
  let i := s.curStrand
  let waits := s.opsOf i none
  let tag := s.nextOp
  .next ((s.claim (sReg d)).addOp
    { id := 0, core := s.curCore, owner := i, tenant := s.tenantOf i, waits := waits, dest := some (sReg d, tag), kind := .ttnext })

/-- A TTNEXT of strand i commits the current iteration. -/
def State.commits (s : State) (i : StrandId) : Bool :=
  match s.tt.current, findJob i.seq s.jobs with
  | some c, some j => s.tt.run && !c.committed && j.iter == some c.num
  | _, _ => false

/-- TTNEXT_REPLY, 22 R333. -/
def execTtnextReply (op : Nat) (s : State) : Out :=
  .next (match s.op op with
    | some o =>
      match o.kind with
      | .ttnext =>
        if !s.ready o then s
        else if s.commits o.owner then
          let cur := s.tt.current.map fun c => { c with committed := true }
          let t : State := { s with tt := { s.tt with current := cur } }
          (t.deliver o.owner o.dest (.word 0#64)).endOp op
        else (s.deliver o.owner o.dest (.word 1#64)).endOp op
      | _ => s
    | none => s)

end Sys2Proof.Machine
end

