-- ==== Sys2Proof/Machine/SlotExec.lean ====
section
/-! DEFINITION. The meaning of a slot instruction inside a bundle: the same meanings that exec calls, one arm for each
instruction that a slot holds. No other step stands in a slot. -/

namespace Sys2Proof.Machine

/-- Runs the instruction of the slot that the issue latch names. -/
def slotExec (i : Instr) (s : State) : Out :=
  match i with
  | .add x1 x2 x3 => execAdd x1 x2 x3 s
  | .addi x1 x2 x3 => execAddi x1 x2 x3 s
  | .and x1 x2 x3 => execAnd x1 x2 x3 s
  | .andi x1 x2 x3 => execAndi x1 x2 x3 s
  | .andn x1 x2 x3 => execAndn x1 x2 x3 s
  | .barArrive x1 x2 => execBarArrive x1 x2 s
  | .barWait x1 x2 => execBarWait x1 x2 s
  | .barSync x1 x2 => execBarSync x1 x2 s
  | .br x1 x2 x3 => execBr x1 x2 x3 s
  | .bwaitWait x1 x2 x3 => execBwaitWait x1 x2 x3 s
  | .bwaitTest x1 x2 x3 => execBwaitTest x1 x2 x3 s
  | .call x1 => execCall x1 s
  | .clz x1 x2 => execClz x1 x2 s
  | .cmp x1 x2 x3 x4 => execCmp x1 x2 x3 x4 s
  | .cmpi x1 x2 x3 x4 => execCmpi x1 x2 x3 x4 s
  | .div x1 x2 x3 => execDiv x1 x2 x3 s
  | .exit => execExit s
  | .ifenceWait => execIfenceWait s
  | .ifenceLoad x1 x2 => execIfenceLoad x1 x2 s
  | .ifenceEnter x1 x2 => execIfenceEnter x1 x2 s
  | .jmp x1 x2 => execJmp x1 x2 s
  | .launch x1 x2 x3 => execLaunch x1 x2 x3 s
  | .li x1 x2 => execLi x1 x2 s
  | .loop x1 x2 x3 => execLoop x1 x2 x3 s
  | .max x1 x2 x3 => execMax x1 x2 x3 s
  | .mfsr x1 x2 => execMfsr x1 x2 s
  | .min x1 x2 x3 => execMin x1 x2 x3 s
  | .mov x1 x2 => execMov x1 x2 s
  | .mtsr x1 x2 => execMtsr x1 x2 s
  | .mul x1 x2 x3 => execMul x1 x2 x3 s
  | .mulh x1 x2 x3 => execMulh x1 x2 x3 s
  | .or x1 x2 x3 => execOr x1 x2 x3 s
  | .ori x1 x2 x3 => execOri x1 x2 x3 s
  | .popc x1 x2 => execPopc x1 x2 s
  | .ret x1 => execRet x1 s
  | .rtt => execRtt s
  | .sar x1 x2 x3 => execSar x1 x2 x3 s
  | .sarImm x1 x2 x3 => execSarImm x1 x2 x3 s
  | .sel x1 x2 x3 x4 => execSel x1 x2 x3 x4 s
  | .settle x1 x2 x3 => execSettle x1 x2 x3 s
  | .shl x1 x2 x3 => execShl x1 x2 x3 s
  | .shlImm x1 x2 x3 => execShlImm x1 x2 x3 s
  | .shr x1 x2 x3 => execShr x1 x2 x3 s
  | .shrImm x1 x2 x3 => execShrImm x1 x2 x3 s
  | .sub x1 x2 x3 => execSub x1 x2 x3 s
  | .trap x1 => execTrap x1 s
  | .trigger => execTrigger s
  | .ttnext x1 => execTtnext x1 s
  | .xor x1 x2 x3 => execXor x1 x2 x3 s
  | .xori x1 x2 x3 => execXori x1 x2 x3 s
  | .vabs x1 => execVabs x1 s
  | .vadd x1 => execVadd x1 s
  | .vand x1 => execVand x1 s
  | .vclz x1 => execVclz x1 s
  | .vcmp x1 => execVcmp x1 s
  | .vcvt x1 => execVcvt x1 s
  | .vdiv x1 => execVdiv x1 s
  | .vexp2 x1 => execVexp2 x1 s
  | .vext x1 x2 x3 x4 x5 x6 => execVext x1 x2 x3 x4 x5 x6 s
  | .vfma x1 => execVfma x1 s
  | .vidx x1 => execVidx x1 s
  | .vlog2 x1 => execVlog2 x1 s
  | .vmask x1 x2 => execVmask x1 x2 s
  | .vmaskWrite x1 => execVmaskWrite x1 s
  | .vmax x1 => execVmax x1 s
  | .vmin x1 => execVmin x1 s
  | .vmov x1 => execVmov x1 s
  | .vmul x1 => execVmul x1 s
  | .vneg x1 => execVneg x1 s
  | .vnot x1 => execVnot x1 s
  | .vor x1 => execVor x1 s
  | .vord x1 => execVord x1 s
  | .vperm x1 => execVperm x1 s
  | .vpop x1 x2 x3 x4 => execVpop x1 x2 x3 x4 s
  | .vredadd x1 => execVredadd x1 s
  | .vredmax x1 => execVredmax x1 s
  | .vredmin x1 => execVredmin x1 s
  | .vrng x1 x2 x3 x4 => execVrng x1 x2 x3 x4 s
  | .vsar x1 => execVsar x1 s
  | .vscan x1 => execVscan x1 s
  | .vsel x1 => execVsel x1 s
  | .vshl x1 => execVshl x1 s
  | .vshr x1 => execVshr x1 s
  | .vsqrt x1 => execVsqrt x1 s
  | .vsub x1 => execVsub x1 s
  | .vxor x1 => execVxor x1 s
  | .xmov x1 => execXmov x1 s
  | .fill x1 => execFill x1 s
  | .sld x1 x2 x3 x4 => execSld x1 x2 x3 x4 s
  | .sst x1 x2 x3 x4 => execSst x1 x2 x3 x4 s
  | .taglu x1 x2 => execTaglu x1 x2 s
  | .tagset x1 x2 => execTagset x1 x2 s
  | .vld x1 x2 x3 => execVld x1 x2 x3 s
  | .vldx x1 x2 x3 x4 => execVldx x1 x2 x3 x4 s
  | .vst x1 x2 x3 => execVst x1 x2 x3 s
  | .vstq x1 x2 x3 => execVstq x1 x2 x3 s
  | .vstx x1 x2 x3 x4 => execVstx x1 x2 x3 x4 s
  | .xform x1 x2 x3 x4 => execXform x1 x2 x3 x4 s
  | .dpload x1 x2 x3 => execDpload x1 x2 x3 s
  | .mcfg x1 => execMcfg x1 s
  | .mldb x1 x2 => execMldb x1 x2 s
  | .mldh x1 => execMldh x1 s
  | .mmac x1 => execMmac x1 s
  | .mret x1 x2 x3 => execMret x1 x2 x3 s
  | .mspc x1 => execMspc x1 s
  | .mswap => execMswap s
  | .atom x1 => execAtom x1 s
  | .coll x1 => execColl x1 s
  | .hback x1 x2 => execHback x1 x2 s
  | .hclose x1 => execHclose x1 s
  | .hmark x1 x2 => execHmark x1 x2 s
  | .hopen x1 x2 x3 x4 => execHopen x1 x2 x3 x4 s
  | .hpos x1 x2 => execHpos x1 x2 s
  | .hread x1 x2 x3 x4 x5 x6 x7 x8 x9 => execHread x1 x2 x3 x4 x5 x6 x7 x8 x9 s
  | .hrewind x1 x2 => execHrewind x1 x2 s
  | .hskip x1 x2 => execHskip x1 x2 s
  | .hwrite x1 x2 x3 x4 x5 x6 x7 x8 x9 => execHwrite x1 x2 x3 x4 x5 x6 x7 x8 x9 s
  | .qsend x1 x2 x3 x4 => execQsend x1 x2 x3 x4 s
  | .tbarrive x1 => execTbarrive x1 s
  | .tbexpect x1 x2 => execTbexpect x1 x2 s
  | .tbinit x1 x2 => execTbinit x1 x2 s
  | .tbwait x1 x2 => execTbwait x1 x2 s
  | .xfer x1 => execXfer x1 s
  | _ => .next s

end Sys2Proof.Machine
end

