-- ==== Sys2Proof/Machine/Issue.lean ====
section
/-! DEFINITION. The issue side: the fetch (04 R63 to R65), a bundle's issue (R67 to R75), the merge stage (03 R54 to R57),
results written back (04 R70), owed traps at a bundle boundary (09 R165), freezes and the Hall monitor (R167, R168). -/

namespace Sys2Proof.Machine

/-! ### The fetch -/

/-- A halfword of a core's index store. -/
def CoreSt.halfword (c : CoreSt) (a : Nat) : BitVec 16 := mget 0#16 c.index (a % 65536)

/-- An index's fate, 04 Table 4-1: the bundle and its length in halfwords, or none for ILLEGAL_INDEX. -/
def CoreSt.indexFate (c : CoreSt) (x : Ctx) (v : BitVec 16) : Option (Bundle × Nat) :=
  let at_ (i : Nat) := c.halfword (x.idxbase.toNat + x.pc.toNat + i)
  if v.toNat < 0x1000 then
    if v.toNat < x.sr.dictlen.toNat && x.sr.dictbase.toNat + v.toNat ≤ 4095 then
      some (mget 0#384 c.dict (x.sr.dictbase.toNat + v.toNat), 1)
    else none
  else if v = 0xFFFE#16 then some (0x01C00000#384 <<< 352, 1)
  else if v = 0xFFFF#16 && x.pc.toNat + 24 < x.idxlen.toNat then
    some (bundleOfHalfwords ((upto 24).map fun i => at_ (i + 1)), 25)
  else none

/-- A bundle whose VALID field is zero and whose other fields are zero is the empty bundle (04 R67). -/
def checkedDecode (b : Bundle) : Except BundleReject Decoded :=
  if b = 0#384 then .ok ⟨[], 7#3, 0#32, false, 0#6, 0#2⟩ else decodeBundle b

/-- The recordings of a barrier's bundle are gone when the context's next bundle is another one (20 R286). The bundles of a
handler that may return to it leave them (log 12). -/
def Ctx.keepBar (x : Ctx) : Ctx :=
  if x.hact then x
  else { x with syncAt := if x.syncAt == some x.pc then x.syncAt else none, waitAt := x.waitAt.filter fun y => y.1 == x.pc }

/-- The fetch of context c, 04 R63 and R64: the bundle is offered, or ILLEGAL_INDEX is taken and nothing commits. -/
def State.fetch (s : State) (c : Nat) : State :=
  let x := (s.ctx c).keepBar
  let k := s.fetchCore (coreOf c)
  let out := x.oor || x.idxlen.toNat ≤ x.pc.toNat
  let v := if out then 0#16 else k.halfword (x.idxbase.toNat + x.pc.toNat)
  match if out then none else k.indexFate x v with
  | some (b, len) =>
    match checkedDecode b with
    | .ok d => s.setCtx c { x with offered := some (.ok d len) }
    | .error r => s.setCtx c { x with offered := some (.bad r) }
  | none => s.setCtx c (({ x with oor := false }).whole.trap cIllegalIndex (0#32 ++ x.pc ++ v : BitVec 64) x.pc)

/-- A context may offer a bundle: its strand is Resident, it is not stopped, it waits for no SETTLE or TBEXPECT of the
bundle before (22 R324), and no FP_TRAP enable holds it (05 R99). -/
def State.mayOffer (s : State) (c : Nat) : Bool :=
  let x := s.ctx c
  (match x.strand with
    | some i => s.ctxOf i == some c
    | none => false)
  && x.stop.isNone && x.hold.isNone && x.fpHold ≤ (s.core (coreOf c)).ucycle

/-- BUNDLE_FETCH. -/
def execBundleFetch (ctx : BitVec 9) (s : State) : Out :=
  .next (if s.mayOffer ctx.toNat && (s.ctx ctx.toNat).offered.isNone then s.fetch ctx.toNat else s)

/-! ### A bundle's slots -/

/-- An empty register of the snapshot is read afresh (04 R75). -/
def Regs.merge (snap cur : Regs) : Regs where
  s := (upto 64).foldl (fun r n => if snap.emptyS.getLsbD n then mset 0#64 r n (mget 0#64 cur.s n) else r) snap.s
  va := (upto 32).foldl (fun r n => if snap.emptyVa.getLsbD n then mset Vec.zero r n (mget Vec.zero cur.va n) else r) snap.va
  vb := (upto 32).foldl (fun r n => if snap.emptyVb.getLsbD n then mset Vec.zero r n (mget Vec.zero cur.vb n) else r) snap.vb
  m := (upto 16).foldl (fun r n => if snap.emptyM.getLsbD n then mset 0#64 r n (mget 0#64 cur.m n) else r) snap.m
  emptyS := snap.emptyS &&& cur.emptyS
  emptyVa := snap.emptyVa &&& cur.emptyVa
  emptyVb := snap.emptyVb &&& cur.emptyVb
  emptyM := snap.emptyM &&& cur.emptyM

/-- Runs slot k. -/
def State.runSlot (s : State) (d : Decoded) (k : Nat) (i : Instr) : State :=
  match slotExec i { s with issue := { s.issue with slot := k, ximm := if d.xown.toNat = k then some d.ximm else none } } with
  | .next t => t
  | _ => s

/-- The slots in bundle order, up to the first that yields or traps. -/
def State.runSlots (d : Decoded) (s : State) : List (Nat × Instr) → State
  | [] => s
  | (k, i) :: rest =>
    let t := s.runSlot d k i
    if t.issue.stop == .go then t.runSlots d rest else t

/-- What holds the bundle back: the state in which a slot yields, or in which every slot has been looked at. A slot that would
yield holds the whole bundle back, whatever an earlier slot raises (03 R56), but among empty registers the first slot that
reads one decides (04 R69), and a slot that raises EMPTY_READ ends the search. -/
def State.scan (d : Decoded) (s : State) : List (Nat × Instr) → State
  | [] => s
  | (k, i) :: rest =>
    let t := s.runSlot d k i
    match t.issue.stop with
    | .go => t.scan d rest
    | .yields => t
    | .trapped => if t.issue.cause == cEmptyRead then s else s.scan d rest

/-- The recording of a barrier. -/
def Side.isBar : Side → Bool
  | .bar _ => true
  | _ => false

/-- The recording of a BAR or BWAIT as far as nothing else holds the bundle back: where the wait of another slot does, neither its
binding nor its arrival is recorded yet (03 R55, 20 R286). -/
def Latch.barSide (l : Latch) (x : BarRec) : BarRec :=
  if l.recs.any fun r => match r with | .bar y => y.holds && y.slot != x.slot | _ => false then { x with binds := false, arrive := false }
  else x

/-- The offer leaves something behind although its bundle yields: everything when only a barrier's wait holds it back, and
otherwise all but the barriers' recordings (03 R55). -/
def Latch.left (l : Latch) : Option (List Side) :=
  if l.stop == .yields then some (l.recs.filter fun r => !r.isBar)
  else if l.waiting then some (l.recs.map fun r => match r with | .bar x => .bar (l.barSide x) | r => r)
  else none

/-- A permitted RTT, and EXIT, act after the later slots of their bundle (22 R321, 21 R300), so a re-entry behind them still
runs them (log 12). -/
def actsLast (permitted : Bool) (i : Instr) : Bool :=
  match i with
  | .rtt => permitted
  | .exit => true
  | _ => false

/-- SETTLE. -/
def isSettle : Instr → Bool
  | .settle .. => true
  | _ => false

/-- The exposed latency of a vector instruction with f32 lanes, or of VCVT (04 Table 4-6, 05 R99). -/
def fpLatency : Instr → Option Nat
  | .vcvt _ => some 4
  | .vext _ _ _ _ ty _ => if ty = 0#4 then some 4 else none
  | .vdiv o | .vsqrt o => if o.ty = 0#4 then some 14 else none
  | .vexp2 o | .vlog2 o | .vscan o => if o.ty = 0#4 then some 8 else none
  | .vredadd o | .vredmax o | .vredmin o => if o.ty = 0#4 then some 6 else none
  | .xmov o => if o.ty = 0#4 then some 2 else none
  | .vabs o | .vadd o | .vand o | .vclz o | .vcmp o | .vfma o | .vidx o | .vmax o | .vmin o | .vmov o | .vmul o
  | .vneg o | .vnot o | .vor o | .vord o | .vperm o | .vsar o | .vsel o | .vshl o | .vshr o | .vsub o | .vxor o =>
    if o.ty = 0#4 then some 4 else none
  | _ => none

/-- What an offer comes to: the bundle issues (or raises its trap), or it yields and records what 03 R55 lets it. -/
inductive Attempt where
  | issues (t : State)
  | yields (recs : List Side)

/-- SYNC 01 is met when no result of the context is outstanding; SYNC 10 always, since an engine accepts a command in the
step that issues it (04 R73). -/
def State.syncMet (s : State) (c : Nat) (sync : BitVec 2) : Bool :=
  let x := s.ctx c
  sync.getLsbD 0 == false
  || x.flight.isEmpty && s.ops.all fun o => !(x.strand == some o.owner && o.dest.isSome)

/-- After an issue: the counters of the context, and the hold of 05 R99, by FCTL as the bundle found it (21 R314). -/
def Ctx.issued (x : Ctx) (pcb : BitVec 16) (hact : Bool) (fctl : BitVec 8) (u : Nat) (slots : List (Nat × Instr)) : Ctx :=
  let l := (slots.filterMap fun y => fpLatency y.2).foldl Nat.max 0
  { x with
    starve := 0
    needs := none
    syncAt := if hact && x.syncAt != some pcb then x.syncAt else none
    waitAt := if hact then x.waitAt.filter (fun y => y.1 != pcb) else []
    fpHold := if fctl &&& 0x1F#8 != 0#8 && l != 0 then u + l else x.fpHold }

/-- The broadcast value, or none when BPSRC is empty: the bundle yields (04 R69). -/
def broadcast (d : Decoded) (snap : Option Snapshot) (regs : Regs) : Option (Option Word) :=
  if d.bpen then
    match snap.bind (·.bp) with
    | some w => some (some w)
    | none => if regs.isEmpty (sReg d.bpsrc) then none else some (some (regs.sGet d.bpsrc))
  else some none

/-! ### Owed traps, 09 R165 -/

/-- The precedence of owed traps. -/
def owedRank (c : BitVec 8) : Nat :=
  if c == cMachineCheck then 0
  else if c == cPageFault then 1
  else if c == cLateMemory then 2
  else if 0x08 ≤ c.toNat && c.toNat ≤ 0x0C then 3
  else if c == cFloorUnavail then 4
  else if c == cMatrixBusy then 5
  else if c == cReductionLimit then 6
  else if c == cDrainFault || c == cQueueOvf then 7
  else if c == cTbOvf then 8
  else 9

/-- The owed trap of the lowest rank, the earliest of equals. -/
def firstOwed : List Owed → Option Owed
  | [] => none
  | o :: os =>
    match firstOwed os with
    | some p => if owedRank p.cause < owedRank o.cause then some p else some o
    | none => some o

/-- The lowest head of a core that holds a fault for a strand (07 R148). -/
def State.faultHead (s : State) (k : Nat) (i : StrandId) : Option (Nat × Owed) :=
  (upto 16).foldr (fun h r => match (s.head k h).fault with
    | some (o, j) => if j == i then some (h, o) else r
    | none => r) none

/-- The owed trap that context c takes first, and the head that found it. -/
def State.owedFirst (s : State) (c : Nat) : Option (Owed × Option Nat) :=
  let x := s.ctx c
  let h := x.strand.bind (s.faultHead (coreOf c))
  match firstOwed x.owed, h with
  | some o, some (n, f) => if owedRank o.cause < 3 then some (o, none) else some (f, some n)
  | some o, none => some (o, none)
  | none, some (n, f) => some (f, some n)
  | none, none => none

/-- The owed trap has been taken. -/
def State.dropOwed (s : State) (c : Nat) (o : Owed) : Option Nat → State
  | some h => s.modHead (coreOf c) h fun x => { x with fault := none }
  | none => s.modCtx c fun x => { x with owed := x.owed.erase o }

/-- Head faults and COLL_ABORT split a bundle at its H slot, when it has one (07 R148, 15 R244); before a bundle with an EXIT
they are taken whole, since a strand never exits past them (21 R300). -/
def Owed.splitsAtH (o : Owed) (h : Option Nat) (f : Option Fetched) : Bool :=
  (h.isSome || o.cause == cCollAbort)
  && (match f with
    | some (.ok d _) => d.slots.any (·.1 == 6) && !d.slots.any fun y => y.2 == .exit
    | _ => false)

/-- Takes the first owed trap of a context that has fetched its next bundle, when nothing of that bundle commits. -/
def State.takeOwed (s : State) (c : Nat) : State :=
  match s.owedFirst c with
  | none => s
  | some (o, h) =>
    if o.splitsAtH h (s.ctx c).offered then s
    else (s.dropOwed c o h).modCtx c fun x => x.whole.trap o.cause o.info x.pc

/-! ### A bundle's issue -/

/-- The register that a held L or H slot writes. -/
def heldDest : Instr → Option RegName
  | .taglu d _ | .sld d _ _ _ => some (sReg d)
  | .vld v _ _ | .vldx v _ _ _ => some (vReg6 v)
  | .atom o => some (sReg o.sd)
  | .hpos _ d => some (sReg d)
  | _ => none

/-- The destinations of the slots that wait, as they stand. -/
def Ctx.olds (x : Ctx) (slots : List (Nat × Instr)) : List OldDest :=
  slots.filterMap fun y => match heldDest y.2 with
    | some r => if r.discards then none else some ⟨y.1, r, mget 0 x.tags (regKey r), x.regs.isEmpty r⟩
    | none => none

/-- The destinations of slots k and later as they stood before the bundle (04 R74). -/
def Ctx.restoreDests (x : Ctx) (k : Nat) (olds : List OldDest) : Ctx :=
  olds.foldl (fun x o => if o.slot < k then x
    else { x with regs := x.regs.mark o.reg o.empty, tags := mset 0 x.tags (regKey o.reg) o.tag }) x

/-- What follows the other slots of a bundle: the trap that splits it at H, or its RTT or EXIT, which waits while a TBEXPECT
of the bundle has not performed (22 R329). -/
def State.finish (s : State) (d : Decoded) (c : Nat) (last : List (Nat × Instr)) : Option (Owed × Option Nat) → State
  | some (o, h) => ({ s with issue := { s.issue with slot := 6 } }.trap o.cause o.info).dropOwed c o h
  | none =>
    match (s.ctx c).hold with
    | some w => if last.isEmpty then s else s.modCtx c fun x => { x with hold := some { w with last := last, latch := s.issue } }
    | none => s.runSlots d last

/-- The bundle that context c offers, issued in s (04 R71). Behind a SETTLE of the bundle, the L, M and H slots wait for it, and for
what program order still puts before them (22 R324); `atH` holds the owed trap, and the head that found it, that R148 or
R244 raises at its H slot. DESIGN CHOICE (log 12): where a branch of S1 has committed and a later slot traps, its target and its
mark of a PC out of range are lost, since XPC names the bundle: RTT re-enters it at the slot and falls through. -/
def State.issueBundle (s : State) (c : Nat) (d : Decoded) (len : Nat) (atH : Option (Owed × Option Nat)) : Attempt :=
  let x := s.ctx c
  let start := match x.reenter with | some (k, _) => k | none => 0
  let snap := match x.reenter with | some (_, p) => p | none => none
  let regs := match snap with | some p => p.regs.merge x.regs | none => x.regs
  let acts := actsLast !(x.sr.pl == 0#2 && !x.hact)
  let slots := d.slots.filter fun y => (start ≤ y.1 || acts y.2)
  let k := s.core (coreOf c)
  let settles := slots.any fun y => isSettle y.2
  if x.needs.isSome && atH.isNone || !s.syncMet c d.sync || !x.settles.isEmpty && (settles || slots.any fun y => 4 ≤ y.1) then .yields []
  else
    match broadcast d snap regs with
    | none => .yields []
    | some bp =>
      let latch : Latch :=
        { ctx := c, pcb := x.pc, len := len, bp := bp, regs := regs, sr := x.sr, heads := k.heads, hview := x.hview }
      let s := { s.setCtx c { x with pc := x.pc + BitVec.ofNat 16 len, oor := false, offered := none, reenter := none }
        with issue := latch }
      let other := slots.filter fun y => !acts y.2 && (atH.isNone || y.1 < 6)
      let last := slots.filter fun y => acts y.2 && atH.isNone
      let later := other.filter fun y => settles && 4 ≤ y.1
      match ({ s with issue := { latch with behind := !later.isEmpty } }.scan d (other ++ last)).issue.left with
      | some r => .yields r
      | none =>
        let done (t : State) : State := t.modCtx c fun y => { y with rereads := [] }
        let now := other.filter fun y => !settles || y.1 < 4
        let t := (s.runSlots d now).modCtx c (·.issued x.pc x.hact x.sr.fctl k.ucycle slots)
        let open_ := (t.ctx c).settles
        if t.issue.stop != .go then .issues (done t)
        else if (!later.isEmpty || settles && atH.isSome) && (!open_.isEmpty || (t.scan d later).issue.left.isSome) then
          let olds := (t.ctx c).olds later
          let t := olds.foldl (fun t o => t.claim o.reg) t
          .issues (done (t.modCtx c fun y => { y with hold := some ⟨open_, later, t.issue, last, atH, olds⟩ }))
        else
          let t := t.runSlots d later
          .issues (done (if t.issue.stop == .go then t.finish d c last atH else t))

/-- The offer of context c in state s. -/
def State.offer (s : State) (c : Nat) : Attempt :=
  match (s.ctx c).offered with
  | some (.ok d len) =>
    s.issueBundle c d len (match s.owedFirst c with
      | some (o, h) => if o.splitsAtH h (s.ctx c).offered then some (o, h) else none
      | none => none)
  | some (.bad r) =>
    .issues ({ s with issue := { ctx := c } }.modCtx c fun x =>
      ({ x with starve := 0 }).whole.trap cIllegalBundle r.xinfo x.pc)
  | none => .yields []

/-- OWED_TRAP_TAKEN. -/
def execOwedTrapTaken (ctx : BitVec 9) (s : State) : Out :=
  .next (
    let c := ctx.toNat
    let s := if s.mayOffer c && (s.ctx c).offered.isNone && (s.owedFirst c).isSome then s.fetch c else s
    if s.mayOffer c && (s.ctx c).offered.isSome && (s.owedFirst c).isSome then
      let t := s.takeOwed c
      if (t.ctx c).offered.isSome then
        match t.offer c with
        | .issues u => { u with issue := {} }
        | .yields _ => t
      else t
    else s)

/-! ### Results -/

/-- RESULT_WRITEBACK, 04 R70: the context's results that are due land. -/
def execResultWriteback (ctx : BitVec 9) (s : State) : Out :=
  .next (s.modCtx ctx.toNat (·.landDue (s.core (coreOf ctx.toNat)).ucycle))

/-! ### Freezes -/

/-- A delivery of a head or a transfer. -/
def OpKind.delivers : OpKind → Bool
  | .hread .. => true
  | .xfer out .. => !out
  | _ => false

/-- The deliveries that an operation still waits for: it needs granules that they have not written. -/
def State.awaited (s : State) (o : Op) : List Nat :=
  (s.ops.filter fun p => p.core == o.core && p.id < o.id && p.kind.delivers && o.need.any fun r => meetsAny r p.writes).map
    (·.id)

/-- An accepted command has come to the granules that it needs: an MMAC to its row (11 R201), the others once what else they
wait for has performed. A conversion has taken those of its freeze out (09 R168). -/
def State.atNeed (s : State) (o : Op) : Bool :=
  !o.late && match o.kind with
    | .mmac m => s.atRow o m
    | .hwrite h .. => s.headFront o h
    | .xform .. => s.performed o.waits
    | .xfer out .. => out && s.performed o.waits
    | _ => false

/-- The operations that the current memory freeze of core k waits for (09 R167); a granule that a cancelled delivery left
unwritten is none that they wait for (07 R148). -/
def State.freezing (s : State) (k : Nat) : List Op :=
  s.ops.filter fun o => o.core == k && s.atNeed o && !(s.awaited o).isEmpty

/-- The strand of a freezing operation whose context is concerned: it has a context. -/
def State.concerned (s : State) (l : List Op) : List (Nat × Op) :=
  l.filterMap fun o => (s.ctxOf o.owner).map fun c => (c, o)

/-- LATE_MEMORY, 09 R168: at the least HMLIM of the concerned contexts each concerned strand stops, to be saved, and what the
freeze waited for goes on without one. An MMAC keeps the row it has reached in its operation. A strand that is being saved
for a system stop keeps its cause, and a debug stop on its way stays (R177). -/
def State.lateMemory (s : State) (k : Nat) : State :=
  let l := s.freezing k
  let cs := s.concerned l
  let lim := cs.foldl (fun m (c, _) => Nat.min m (s.ctx c).sr.hmlim.toNat) (2 ^ 32)
  if cs.isEmpty || (s.core k).hall < lim then s
  else
    let t := cs.foldl (fun t (c, o) => t.modCtx c fun x =>
      match x.stop with
      | some { reason := 1, .. } => x
      | r => { x with stop := some { reason := 2, cause := cLateMemory, info := 0#64, pc := x.pc
                                     waits := (match r with | some r => r.waits | none => []) ++ s.awaited o
                                     debug := debugPending r, gang := gangPending r } }) s
    let t := l.foldl (fun t o => match o.kind with | .mmac _ => t | _ => t.setOp { o with late := true }) t
    t.modCore k fun c => { c with hall := 0, hallFor := [] }

/-- The row of the table. -/
def execLateMemory (core : BitVec 7) (s : State) : Out := .next (s.lateMemory core.toNat)

/-! ### The merge stage, 03 R54 -/

/-- Applies what a yielding offer of a context leaves behind. -/
def State.applySide (s : State) (c : Nat) : Side → State
  | .bar r => s.applyRec c r
  | .reread h =>
    (s.modHead (coreOf c) h fun x => if x.reread = 0 then { x with reread := 1, asker := (s.ctx c).strand } else x).modCtx c fun x =>
      { x with rereads := mset 0 x.rereads h 1 }
  | .fault va =>
    let i := (s.ctx c).strand.getD ⟨0, 0⟩
    ({ s with parks := s.parks + 1 }.pageFault (s.tenantOf i) va false false (coreOf c) 0 i).modCtx c fun x =>
      { x with needs := some va, needsAt := s.parks }

/-- The valid slots, XOWN ≠ 7 and BPEN of an offered bundle. -/
def Fetched.shape : Fetched → List Nat × Bool × Bool
  | .ok d _ => (d.slots.map (·.1), d.xown != 7#3, d.bpen)
  | .bad _ => ([], false, false)

/-- Two bundles may issue together. -/
def mergeable (a b : Option Fetched) : Bool :=
  match a, b with
  | some a, some b =>
    let (m, x, p) := a.shape
    let (n, y, q) := b.shape
    (m.all fun k => !n.contains k) && !(x && y) && !(p && q)
  | _, _ => false

/-- Whether candidate c comes before candidate d: higher priority, ties in the order RP, RP+1, … -/
def State.before (s : State) (rp c d : Nat) : Bool :=
  let p := (s.ctx c).sr.prio.toNat
  let q := (s.ctx d).sr.prio.toNat
  q < p || p == q && (c + 4 - rp) % 4 < (d + 4 - rp) % 4

/-- The first of a list under a strict order. -/
def firstBy (lt : Nat → Nat → Bool) : List Nat → Option Nat
  | [] => none
  | x :: xs =>
    match firstBy lt xs with
    | some y => if lt y x then some y else some x
    | none => some x

/-- The primary: a starving candidate, the largest counter first and then the lowest CTXID; with none the candidate of
highest priority. -/
def State.primary (s : State) (rp : Nat) (cs : List Nat) : Option Nat :=
  let starving := cs.filter fun c => 1021 ≤ (s.ctx c).starve
  match firstBy (fun c d => (s.ctx d).starve < (s.ctx c).starve
      || (s.ctx c).starve == (s.ctx d).starve && c < d) starving with
  | some c => some c
  | none => firstBy (s.before rp) cs

/-- The candidates but c, in the order in which a secondary is tried. -/
def State.inOrder (s : State) (rp : Nat) (cs : List Nat) : List Nat :=
  cs.foldr (fun c l => (l.takeWhile fun d => s.before rp d c) ++ c :: (l.dropWhile fun d => s.before rp d c)) []

/-- The secondary, tried in the state that the primary leaves: its context and that state with its bundle issued. -/
def State.secondary (s : State) (f : Option Fetched) : List Nat → Option (Nat × State)
  | [] => none
  | c :: cs =>
    if mergeable f (s.ctx c).offered then
      match { s with issue := {} }.offer c with
      | .issues t => some (c, t)
      | .yields _ => s.secondary f cs
    else s.secondary f cs

/-- The PAGE_FAULT of an aborted request that is owed to a context. -/
def Ctx.aborted (x : Ctx) : Option Owed := x.owed.find? (·.cause == cPageFault)

/-- The system stop of an aborted request finds slots of a bundle waiting behind its SETTLE: it splits the bundle at the first of
them, and none of them commits (09 R166, R171, 22 R324). -/
def State.stopHeld (s : State) (c : Nat) (h : Hold) (o : Owed) : State :=
  let k := (h.slots.map (·.1)).headD 6
  let t := { s.modCtx c fun x => ({ x with hold := none, owed := x.owed.erase o }).restoreDests k h.olds with issue := h.latch }
  { t.trapAt k o.cause o.info with issue := {} }

/-- Runs the slots that a SETTLE or a TBEXPECT held back, once what they wait for has performed (22 R324, R329). A fault
among them gives the destinations that have not committed back. -/
def State.resume (s : State) (c : Nat) : State :=
  match (s.ctx c).hold with
  | none => s
  | some h =>
    if let some o := if h.slots.isEmpty && h.atH.isNone then none else (s.ctx c).aborted then s.stopHeld c h o
    else if h.slots.isEmpty && h.last.isEmpty && h.atH.isNone || (s.ctx c).needs.isSome && h.atH.isNone || !s.performed h.ops then s
    else
      let d : Decoded := ⟨h.slots, 7#3, 0#32, false, 0#6, 0#2⟩
      let s' := { s.modCtx c fun x => { x with hold := none } with issue := h.latch }
      match (s'.scan d (h.slots ++ h.last)).issue.left with
      | some r => r.foldl (·.applySide c ·) s
      | none =>
        let t := s'.runSlots d h.slots
        let t := if t.issue.stop == .go then t.finish d c h.last h.atH
          else t.modCtx c (·.restoreDests t.issue.slot h.olds)
        { t.modCtx c fun x => { x with rereads := [] } with issue := {} }

/-- A context that holds an exited strand is free once its fixed-latency results have landed (21 R300). -/
def State.free (s : State) (c : Nat) : State :=
  match (s.ctx c).strand with
  | some i => if s.hasExited i && (s.ctx c).flight.isEmpty then s.modCtx c fun x => { x with strand := none } else s
  | none => s

/-- The elapsed counts of the open reductions whose owners are Resident (11 R204), and the cycles that a drain unit has
waited for queue entries (12 R217). -/
def State.countReductions (s : State) (k : Nat) : State :=
  s.modCore k fun c =>
    { c with
      sets := c.sets.map fun (n, a) => (n, { a with reds := a.reds.map fun r =>
        if r.closed || (s.ctxOf r.owner).isNone then r else { r with elapsed := r.elapsed + 1 } })
      pipe := c.pipe.map fun p => if p.done && 64 < (mget [] c.queues p.rq).length + p.pushes.length then { p with waited := p.waited + 1 } else p }

/-- What an unfrozen cycle does before the offers: latencies and reductions count, results land, exited strands leave,
held slots resume, contexts fetch, and owed traps are taken. -/
def State.cycleStart (s : State) (k : Nat) : State :=
  let s := (s.modCore k fun c => { c with hall := 0, hallFor := [], ucycle := c.ucycle + 1 }).countReductions k
  (coreCtxs k).foldl (fun s c =>
    let s := ((s.modCtx c (·.landDue (s.core k).ucycle)).free c).resume c
    if s.mayOffer c then
      let s := if (s.ctx c).offered.isNone then s.fetch c else s
      if (s.ctx c).offered.isSome then s.takeOwed c else s
    else s) s

/-- The contexts of core k that have a bundle to offer. -/
def State.offering (s : State) (k : Nat) : List Nat :=
  (coreCtxs k).filter fun c => s.mayOffer c && (s.ctx c).offered.isSome

/-- The offers, the choice, the issue, and the counters. A candidate that is passed over leaves the bindings of its barriers, as a
bundle that yields does (03 R55). -/
def State.merge (s : State) (k : Nat) : State :=
  let rp := (s.core k).rp
  let offers := (s.offering k).map fun c => (c, s.offer c)
  let cand := offers.filterMap fun (c, a) => match a with | .issues _ => some c | .yields _ => none
  let nyield := offers.length - cand.length
  let t : State × List Nat :=
    match s.primary rp cand with
    | none => (s, [])
    | some c =>
      match s.offer c with
      | .yields _ => (s, [])
      | .issues u =>
        match u.secondary (s.ctx c).offered (s.inOrder rp (cand.filter (· != c))) with
        | some (e, v) => (v, [c, e])
        | none => (u, [c])
  let u := cand.foldl (fun u c => if t.2.contains c then u else u.modCtx c fun x => { x with starve := x.starve + 1 })
    { t.1 with issue := {} }
  let v := offers.foldl (fun v (c, a) => match a with
    | .yields r => r.foldl (·.applySide c ·) v
    | .issues w => if t.2.contains c then v else (w.issue.recs.filter Side.isBar).foldl (·.applySide c ·) v) u
  v.modCore k fun c => { c with rp := (c.rp + nyield) % 4 }

/-- The granules that an operation waits for first, one for each delivery that has not written what it needs. -/
def State.awaitedGranules (s : State) (o : Op) : List Nat :=
  (s.ops.filter fun p => p.core == o.core && p.id < o.id && p.kind.delivers).flatMap fun p =>
    o.need.flatMap fun r => (p.writes.filter r.meets).map fun w =>
      let d := (w.start + spSize - r.start % spSize) % spSize
      (if d < r.len then r.start % spSize + d else r.start % spSize) / 64

/-- The Hall monitor counts a cycle of the current memory freeze, from 1 (09 R168): a freeze that waits for none of what the
last cycle's waited for is another one. -/
def State.countHall (s : State) (k : Nat) : State :=
  let l := (s.freezing k).flatMap fun o => (s.awaitedGranules o).map fun g => (o.id, g)
  s.modCore k fun c => { c with hall := if l.any c.hallFor.contains then c.hall + 1 else 1, hallFor := l }

/-- A cycle of core k: a bank-conflict freeze counts down (06 R109), a memory freeze counts in the Hall monitor
(09 R167, R168), and an unfrozen cycle runs the merge stage. CYCLE counts every one, those in which the core had nothing to
count too. -/
def State.coreCycle (s : State) (k : Nat) : State :=
  let s := s.modCore k fun c => { c with cycle := Nat.max c.cycle s.cclk + 1 }
  if (s.core k).freeze != 0 then s.modCore k fun c => { c with freeze := c.freeze - 1 }
  else if !(s.freezing k).isEmpty then (s.countHall k).lateMemory k
  else (s.cycleStart k).merge k

/-- MERGE_CYCLE. -/
def execMergeCycle (core : BitVec 7) (s : State) : Out := .next (s.coreCycle core.toNat)

end Sys2Proof.Machine
end

