-- ==== Sys2Proof/Machine/Saves.lean ====
section
/-! DEFINITION. Pre-emption (03 R58), the save slot (09 R172, Tables 9-5 and 9-6), saving and restoring a strand, the
dispositions (R166), and the debug function (R177, R178). What the slot's layout leaves to the part is kept beside it
(Saved, log 5). -/

namespace Sys2Proof.Machine

/-! ### Pre-emption -/

/-- The priority at which a strand waits. -/
def Strand.prio (x : Strand) (j : Job) : Nat := match x.saved with | some w => w.prio | none => j.prio

/-- A strand that waits for a context: Pending, or saved and not held. -/
def Strand.waits (x : Strand) : Bool :=
  match x with
  | { st := .pending, .. } => true
  | { st := .saved, saved := some w, .. } => !w.held && !w.dheld
  | _ => false

/-- The cores on which strand n of a job may be placed or restored. -/
def State.coresFor (s : State) (j : Job) (n : Nat) (x : Strand) : List Nat :=
  match x.saved with
  | some w => [w.core]
  | none => (upto 128).filter (s.eligible j n)

/-- A pre-emption is under way on a core. -/
def State.preempting (s : State) (k : Nat) : Bool :=
  (coreCtxs k).any fun c => match (s.ctx c).stop with | some r => r.reason == 0 | none => false

/-- The victims on the cores of a list: contexts whose strands stand below priority p, the lowest first, and of equal ones
the one placed most recently (03 R58). -/
def State.victim (s : State) (p : Nat) (cores : List Nat) : Option Nat :=
  let cs := (cores.flatMap coreCtxs).filter fun c => match (s.ctx c).strand with
    | some i => s.ctxOf i == some c && (s.ctx c).stop.isNone && (s.ctx c).sr.prio.toNat < p
    | none => false
  let placed (c : Nat) : Nat := match (s.ctx c).strand.bind s.strand with | some x => x.placed | none => 0
  firstBy (fun c d => (s.ctx c).sr.prio < (s.ctx d).sr.prio
    || (s.ctx c).sr.prio == (s.ctx d).sr.prio && placed d < placed c) cs

/-- A context stops at once, to be saved (09 R166, R172). -/
def State.stopCtx (s : State) (c : Nat) (r : StopReq) : State :=
  s.modCtx c fun x => if x.stop.isSome then x else { x with stop := some { r with pc := x.pc } }

/-- The gang union of a strand. -/
def Job.gangOf (j : Job) (n : Nat) : List Nat := gangUnion j.groups j.groups.length [n]

/-- The contexts that gangs of a priority above p that wait for placement could use (03 R52). -/
def State.barred (s : State) (p : Nat) : List Nat :=
  (s.placing.filter fun j => p < j.prio && j.units.any fun u => 1 < u.length).flatMap s.gangCtxs

/-- The free contexts that strands waiting for placement before place b could take (03 R51, R52): they go to those strands
first. -/
def State.kept (s : State) (b : PlaceOrder) : List Nat :=
  s.barred b.prio ++ s.placing.flatMap fun j => (j.pending.filter fun n => (PlaceOrder.mk j.prio j.seq n).before b).flatMap fun n =>
    ((upto 128).filter (s.eligible j n)).flatMap s.freeCtxs

/-- The place of a saved strand in the order of restores (03 R51, R58). -/
def Saved.turn (w : Saved) (i : StrandId) : PlaceOrder := ⟨w.prio, i.seq, i.idx⟩

/-- The free contexts of its core that a saved strand may be restored into: no strand that waits for placement before it could
take them. -/
def State.freeFor (s : State) (i : StrandId) (w : Saved) : List Nat :=
  (s.freeCtxs w.core).filter fun c => !(s.kept (w.turn i)).contains c

/-- Those of them that are left when every saved strand that comes before it has one. -/
def State.room (s : State) (i : StrandId) (w : Saved) : List Nat :=
  let free := s.freeFor i w
  if free.length ≤ s.waitingSaved w.core (w.turn i) then [] else free

/-- A PENDING bit of the slot's header stands. -/
def State.slotPending (s : State) (i : StrandId) (w : Saved) : Bool :=
  match s.bytesAt (s.tenantOf i) w.slot 64 with
  | some bs => (lineBits bs).extractLsb' 256 144 != 0#144
  | none => false

/-- A strand may be restored: saved and not held, what a LATE_MEMORY save waited for has come, and no PENDING bit stands
(09 R168, R172). -/
def State.restorable (s : State) (i : StrandId) : Option Saved :=
  match s.strand i with
  | some { st := .saved, saved := some w, .. } =>
    if !w.held && !w.dheld && s.performed w.waits && !s.slotPending i w && !(s.core w.core).offline then some w else none
  | _ => none

/-- Pre-emption has taken a strand with its gang, and it has not been restored: it is saved or still stopping (03 R52). -/
def State.gangDown (s : State) (i : StrandId) : Bool :=
  match s.strand i with
  | some { st := .resident c, .. } => gangPending (s.ctx c).stop
  | some { st := .saved, saved := some w, .. } => w.gang
  | _ => false

/-- The strands that are restored with strand n of a job, in ascending index: the members of its gang that pre-emption has taken
with it, or it alone. None while one of them is held, stops, or may not be restored yet (03 R52). -/
def State.restoreSet (s : State) (j : Job) (n : Nat) : Option (List Nat) :=
  match s.restorable ⟨j.seq, n⟩ with
  | none => none
  | some w =>
    let gang := j.gangOf n
    let l := if w.gang then (upto j.strands.length).filter fun m => gang.contains m && s.gangDown ⟨j.seq, m⟩ else [n]
    if l.all fun m => (s.restorable ⟨j.seq, m⟩).isSome then some l else none

/-- Saved strand n finds a free context among those of its core, beside the strands of the list that are restored with it. -/
def State.roomFor (s : State) (j : Job) (l : List Nat) (n : Nat) : Bool :=
  match s.restorable ⟨j.seq, n⟩ with
  | none => false
  | some w =>
    let here := l.filter fun m => match s.restorable ⟨j.seq, m⟩ with | some v => v.core == w.core | none => false
    decide (here.length + s.waitingSaved w.core (w.turn ⟨j.seq, n⟩) l ≤ (s.freeFor ⟨j.seq, n⟩ w).length)

/-- Strand n of a job can be restored now, with the strands that are restored with it. -/
def State.canRestore (s : State) (j : Job) (n : Nat) : Bool :=
  match s.restoreSet j n with
  | some l => l.all (s.roomFor j l)
  | none => false

/-- The restore of strand n of a job is next: it can be made, n is the first of its gang, and no saved strand that comes before it
can be restored (03 R51). -/
def State.mayRestore (s : State) (j : Job) (n : Nat) : Bool :=
  !j.removed && !j.rerun && s.canRestore j n && (s.restoreSet j n).any (·.head? == some n)
  && match s.restorable ⟨j.seq, n⟩ with
    | none => false
    | some w => s.jobs.all fun k => k.saves.all fun (m, v) => !(v.turn ⟨k.seq, m⟩).before (w.turn ⟨j.seq, n⟩) || !s.canRestore k m

/-- A waiting strand of a job finds a free context that it may take: with its gang, for a Pending one; a saved one that may not be
restored yet wants none. -/
def State.finds (s : State) (j : Job) (n : Nat) (x : Strand) : Bool :=
  match x.saved with
  | some _ => match s.restoreSet j n with
    | some l => s.roomFor j l n
    | none => true
  | none =>
    let unit := (j.units.find? (·.contains n)).getD [n]
    (State.placeAll j.seq [] (coreOrder (s.preferred j)) (s.barred j.prio) unit s).isSome

/-- Whether a pre-emption for strand n of a job is due: it waits, and finds no free eligible context. -/
def State.wantsPreempt (s : State) (j : Job) (n : Nat) : Option Nat :=
  match j.strands[n]? with
  | none => none
  | some x =>
    let cores := s.coresFor j n x
    if !x.waits || j.removed || j.rerun || !j.started || j.completed then none
    else if cores.any s.preempting || s.finds j n x then none
    else s.victim (x.prio j) cores

/-- Pre-emption takes a strand, `gang` with its whole gang: a Resident one stops at once; of a gang, one that is stopping or saved
already goes with the others, and is restored with them (03 R52, R58). -/
def State.preemptOne (s : State) (i : StrandId) (gang : Bool) : State :=
  match s.strand i with
  | some { st := .resident c, .. } =>
    (s.stopCtx c { reason := 0, cause := cPreempt, info := 0#64, pc := 0#16 }).modCtx c fun x =>
      { x with stop := x.stop.map fun r => { r with gang := gang || r.gang } }
  | some { st := .saved, .. } => s.modStrand i fun x => { x with saved := x.saved.map fun w => { w with gang := gang || w.gang } }
  | _ => s

/-- PREEMPT, 03 R58: the victim, with its whole gang, stops at once. -/
def execPreempt (seq : Nat) (strand : Nat) (s : State) : Out :=
  .next (match findJob seq s.jobs with
    | none => s
    | some j =>
      match s.wantsPreempt j strand with
      | none => s
      | some c =>
        match (s.ctx c).strand with
        | none => s
        | some i =>
          match findJob i.seq s.jobs with
          | none => s
          | some v =>
            let gang := v.gangOf i.idx
            gang.foldl (fun s m => s.preemptOne ⟨i.seq, m⟩ (1 < gang.length)) s)

/-! ### The save slot -/

/-- The full/empty bits at offset 0x02C0. DESIGN CHOICE (log 5): a set bit means empty; Table 9-5 does not say which. -/
def Regs.emptyBits (r : Regs) : Nat :=
  (0#112 ++ r.emptyM ++ r.emptyVb ++ r.emptyVa ++ r.emptyS : BitVec 256).toNat

/-- The full/empty index of a register. -/
def emptyIndex (n : RegName) : Nat := match n.file.toNat with | 0 => n.num.toNat | 1 => 64 + n.num.toNat | 2 => 96 + n.num.toNat | _ => 128 + n.num.toNat

/-- The registers whose results engines still owe a strand. -/
def State.pendingRegs (s : State) (i : StrandId) (tags : SMap Nat) : List RegName :=
  s.ops.filterMap fun o => match o.dest with
    | some (n, t) => if o.owner = i && mget 0 tags (regKey n) = t then some n else none
    | none => none

/-- The header, 09 Table 9-6. -/
def saveHeader (reason : Nat) (held hact owns setA1 : Bool) (info srcnt : Word) (syspc pc : BitVec 16) (cause : BitVec 8)
    (pending : BitVec 144) : BitVec 512 :=
  0#112 ++ pending ++ 0#24 ++ cause ++ pc ++ syspc ++ srcnt ++ info ++ 0#57 ++ BitVec.ofBool setA1 ++ BitVec.ofBool owns
    ++ BitVec.ofBool hact ++ BitVec.ofBool held ++ BitVec.ofNat 3 reason

/-- The special registers 0x00 to 0x19 as a context reads them, in number order. -/
def State.savedSpecs (s : State) (c : Nat) : List Word :=
  let t := { s with issue := { s.issue with ctx := c, sr := (s.ctx c).sr } }
  (upto 32).map fun r => if r ≤ 0x19 then t.specReg r else 0#64

/-- Strand i owns the matrix engine of core k; and the owned set is a1 (09 Table 9-6). -/
def State.owns (s : State) (k : Nat) (i : StrandId) : Bool := (s.core k).engine == some i
def State.ownsA1 (s : State) (k : Nat) (i : StrandId) : Bool := s.owns k i && ((s.core k).set true).reds.any fun d => d.owner == i

/-- The bytes of a vector. -/
def vecBytes (v : Vec) : List Byte := v.flatMap fun l => leBytes 4 l.toNat

/-- n bytes that the slot's layout leaves to the part: free. -/
def partBytes (t key n : Nat) : List Byte := (upto n).map fun i => BitVec.ofNat 8 (Config.free t (key + i))

/-- The image of the slot for context c, 09 Table 9-5. A debug stop beside a LATE_MEMORY makes REASON 3; beside a system stop REASON
stays 1, since RESUME does what R166 gives for it (R177; log 28). -/
def State.slotImage (s : State) (c : Nat) (i : StrandId) (r : StopReq) : List Byte :=
  let x := s.ctx c
  let g := x.regs
  let k := coreOf c
  let owns := s.owns k i
  let a1 := s.ownsA1 k i
  let pend : BitVec 144 := (s.pendingRegs i x.tags).foldl (fun m n => m ||| BitVec.twoPow 144 (emptyIndex n)) 0#144
  let system := r.reason = 1
  bitsLine (saveHeader (if r.debug && r.reason = 2 then 3 else r.reason) (r.reason = 1 || r.reason = 3 || r.debug) x.hact owns a1 (if system then r.info else 0#64) x.srcnt
      (if system then r.pc else 0#16) x.pc r.cause pend)
    ++ ((upto 64).flatMap fun n => leBytes 8 (g.sGet (BitVec.ofNat 6 n)).toNat)
    ++ ((upto 16).flatMap fun n => leBytes 8 (g.mGet (BitVec.ofNat 4 n)).toNat)
    ++ leBytes 64 g.emptyBits
    ++ ((s.savedSpecs c).flatMap fun w => leBytes 8 w.toNat)
    ++ partBytes s.tick 0 3072
    ++ ((upto 32).flatMap fun n => vecBytes (g.vGet false (BitVec.ofNat 5 n)))
    ++ ((upto 32).flatMap fun n => vecBytes (g.vGet true (BitVec.ofNat 5 n)))
    ++ partBytes s.tick 3072 4096

/-- The event record of a stop that has been saved: kind 1 system stop, 2 LATE_MEMORY, 4 debug stop. DESIGN CHOICE (log 28): CAUSE
of a kind 4 record is that of the stop that the debug stop joins, and 0 with none; Table 9-4 names none. -/
def State.stopRecord (s : State) (i : StrandId) (k slot kind : Nat) (cause : BitVec 8) : State :=
  s.record { va := BitVec.ofNat 57 slot, kind := BitVec.ofNat 4 kind, asid := s.tenantOf i, core := BitVec.ofNat 7 k
             engine := 6#4, cause := cause, strand := BitVec.ofNat 13 i.idx, seq := BitVec.ofNat 56 i.seq }

/-- The strand's context may be saved now: its fixed-latency results have landed and it stands at a bundle boundary; a
pre-emption also waits for the slots that wait behind a SETTLE or a TBEXPECT, for its other results, and for the reductions
of an engine that it owns (03 R58, 09 R172). -/
def State.maySave (s : State) (c : Nat) : Bool :=
  let x := s.ctx c
  match x.strand, x.stop with
  | some i, some r =>
    let k := coreOf c
    x.flight.isEmpty && s.ctxOf i == some c
    && (r.reason != 0
        || x.hold.isNone && (s.pendingRegs i x.tags).isEmpty
          && ((s.core k).engine != some i
            || !(s.ops.any fun o => o.owner == i && (match o.kind with | .mmac _ => true | _ => false))
              && !(((s.core k).set false).reds ++ ((s.core k).set true).reds).any fun d => d.owner == i))
  | _, _ => false

/-- STRAND_SAVE, 09 R172, R173: a slot without a translation loses the strand (R174). -/
def execStrandSave (ctx : BitVec 9) (s : State) : Out :=
  let c := ctx.toNat
  .next (
    let x := s.ctx c
    if !s.maySave c then s
    else match x.strand, x.stop with
      | some i, some r =>
        let k := coreOf c
        let slot := x.sr.xsave.toNat
        match s.blocked (s.tenantOf i) true slot 24576 with
        | some .waits => s
        | some (.missing _) => s.loseStrand i slot
        | none =>
          let s := (s.putAt (s.tenantOf i) slot (s.slotImage c i r)).getD s
          let w : Saved :=
            { core := k, slot := slot, held := r.reason == 1, dheld := r.reason == 3 || r.debug, prio := x.sr.prio.toNat
              pc := x.pc, owns := s.owns k i, setA1 := s.ownsA1 k i, snap := x.snap, reenter := x.reenter, owed := x.owed, oor := x.oor, idxbase := x.idxbase
              idxlen := x.idxlen, kernel := x.kernel, overlay := x.overlay, syncAt := x.syncAt, waitAt := x.waitAt, shadow := x.shadow
              hview := x.hview, tags := x.tags, waits := r.waits, hold := x.hold, gang := r.gang, savedAt := s.tick }
          let s := (s.setCtx c {}).modStrand i fun y => { y with st := .saved, saved := some w }
          let s := if r.reason = 3 || r.debug then { s with dbg := { s.dbg with go := false, dres := 0#2 } } else s
          let s := if r.debug then s.stopRecord i k slot 4 r.cause else s
          match r.reason with
          | 0 => s
          | 1 => s.stopRecord i k slot 1 r.cause
          | 2 => s.stopRecord i k slot 2 r.cause
          | _ => s.stopRecord i k slot 4 r.cause
      | _, _ => s)

/-- A field of a list of bytes. -/
def natIn (bs : List Byte) (off n : Nat) : Nat := leNat ((bs.drop off).take n)

/-- The registers of a slot. -/
def slotRegs (bs : List Byte) : Regs :=
  let fe := BitVec.ofNat 144 (natIn bs 0x2C0 18)
  { s := (upto 64).foldl (fun m n => if n = 0 then m else mset 0#64 m n (BitVec.ofNat 64 (natIn bs (0x40 + 8 * n) 8))) []
    m := (upto 16).foldl (fun m n => if n = 0 then m else mset 0#64 m n (BitVec.ofNat 64 (natIn bs (0x240 + 8 * n) 8))) []
    va := (upto 32).foldl (fun m n => mset Vec.zero m n (lanesOf fun i => BitVec.ofNat 32 (natIn bs (0x1000 + 256 * n + 4 * i) 4))) []
    vb := (upto 32).foldl (fun m n => mset Vec.zero m n (lanesOf fun i => BitVec.ofNat 32 (natIn bs (0x3000 + 256 * n + 4 * i) 4))) []
    emptyS := fe.extractLsb' 0 64 &&& ~~~1#64
    emptyVa := fe.extractLsb' 64 32
    emptyVb := fe.extractLsb' 96 32
    emptyM := fe.extractLsb' 128 16 &&& ~~~1#16 }

/-- The special registers of a slot; those that a context does not store are read where they are. -/
def slotSpecs (bs : List Byte) : SpecRegs :=
  let r (n : Nat) : Word := BitVec.ofNat 64 (natIn bs (0x300 + 8 * n) 8)
  let st := r 0
  { pl := st.extractLsb' 0 2, slotres := st.extractLsb' 2 3, snapv := st.getLsbD 5, prio := st.extractLsb' 16 5
    xpc := (r 1).setWidth 16, xcause := (r 2).setWidth 8, xinfo := r 3, xvec := (r 4).setWidth 16, fflags := (r 5).setWidth 5
    fctl := (r 6).setWidth 8, rcard := r 7, mxcnt := r 8, mdpc := r 9, dictbase := (r 0x14).setWidth 12
    dictlen := (r 0x15).setWidth 13, redlim := (r 0x16).setWidth 32, hmlim := (r 0x17).setWidth 32
    xsave := (r 0x18).setWidth 57, tickn := r 0x0F, occ := r 0x10, draft := r 0x11, bellst := r 0x12 }

/-- Re-entry under 04 R75 at a PC, with SLOTRES, SNAPV and the snapshot as they were saved. -/
def Ctx.reenterAt (x : Ctx) (pc : BitVec 16) : Ctx :=
  let k := if x.sr.snapv && (x.snap.map (·.pc)) != some pc then 7 else x.sr.slotres.toNat
  { x with
    sr := { x.sr with slotres := 7#3, snapv := false }
    pc := pc, oor := false, snap := none
    reenter := if k = 7 then none else some (k, if x.sr.snapv then x.snap else none) }

/-- Software has changed n bytes of a slot from an offset on, in the parts whose inner layout the spec does not give, since the save
wrote them (09 R172, Table 9-5). -/
def Saved.edited (w : Saved) (bs : List Byte) (off n : Nat) : Bool := (bs.drop off).take n != partBytes w.savedAt (off - 0x400) n

/-- A free value for what software has edited there. -/
def freeEdit (t key : Nat) : Nat := Config.free t (2 ^ 61 + key)

/-- Latched operands whose bytes software has edited: free, each a value or absent. -/
def Snapshot.freed (t : Nat) (x : Snapshot) : Snapshot :=
  { x with regs := slotRegs (partBytes t (2 ^ 61 + 4096) 24576)
           bp := if freeEdit t 0 % 2 = 0 then none else some (BitVec.ofNat 64 (freeEdit t 1)) }

/-- What a save keeps beside the slot, as the restore takes it: free where software has edited the bytes that stand for it, the
snapshot of 0x400 on, the owed traps and the SYNC-arrived bit of 0xC00 on. DESIGN CHOICE (log 5). -/
def Saved.asRead (w : Saved) (t : Nat) (bs : List Byte) : Saved :=
  let v := if w.edited bs 0x400 2048 then
      { w with snap := w.snap.map (·.freed t), reenter := w.reenter.map fun x => (x.1, x.2.map (·.freed t)) }
    else w
  if w.edited bs 0xC00 1024 then
    { v with owed := (upto (freeEdit t 2 % 256)).map fun n => ⟨BitVec.ofNat 8 (freeEdit t (4 + 2 * n)), BitVec.ofNat 64 (freeEdit t (5 + 2 * n))⟩
             syncAt := if freeEdit t 3 % 2 = 0 then none else some w.pc }
  else v

/-- The rest of a strand's restart state, where software has edited its bytes: free reduction shadows, rows at which MMACs that have
begun go on, and cursors of stopped drains (Table 9-5). DESIGN CHOICE (log 5). -/
def State.freeRestart (s : State) (k : Nat) (i : StrandId) : State :=
  let v (key : Nat) : Nat := freeEdit s.tick (2 ^ 20 + key)
  let shadows (a : AccSet) : AccSet :=
    { a with reds := a.reds.map fun (r : Reduction) => if r.owner == i then { r with shadow := BitVec.ofNat 64 (v (2 * r.id)) } else r }
  { s with ops := s.ops.map fun (o : Op) =>
      if o.owner != i then o
      else match o.kind with
        | .mmac m => if o.prog = 0 || m.rows ≤ o.prog then o else { o with prog := v (2 * o.id + 1) % m.rows }
        | .drain d => if d.stopped then { o with prog := v (2 * o.id + 1) % (8 * d.rmax) } else o
        | _ => o }.modCore k fun c => (c.modSet false shadows).modSet true shadows

/-- The context of a restored strand: what its slot holds, and for a system stop what RESUME does (09 R166). -/
def restored (bs : List Byte) (i : StrandId) (w : Saved) (settles : List Nat) : Ctx :=
  let h := lineBits (bs.take 64)
  let pc := h.extractLsb' 208 16
  let x : Ctx :=
    { regs := slotRegs bs, sr := slotSpecs bs, pc := pc, oor := w.oor && pc == w.pc, idxbase := w.idxbase, idxlen := w.idxlen
      kernel := w.kernel, overlay := w.overlay, hact := h.getLsbD 4, srcnt := h.extractLsb' 128 64, snap := w.snap
      reenter := w.reenter, tags := w.tags, owed := w.owed, settles := settles, syncAt := w.syncAt, waitAt := w.waitAt, strand := some i
      hview := w.hview, shadow := w.shadow }
  if (h.extractLsb' 0 3).toNat != 1 then x
  else
    let cause := h.extractLsb' 224 8
    let syspc := h.extractLsb' 192 16
    if strandFirst cause && x.sr.xvec != 0#16 then
      { x with sr := { x.sr with xpc := syspc, xcause := cause, xinfo := h.extractLsb' 64 64 }, hact := true, pc := x.sr.xvec
               oor := false, reenter := none }
    else x.reenterAt syspc

/-- OWNS and SETA1 of a header, where software has changed them since the save (09 R172, Table 9-6): the engine becomes the
strand's when nobody owns it, or nobody's when no reduction of the strand is left; its reductions stand on the set that SETA1
names. -/
def CoreSt.reown (c : CoreSt) (i : StrandId) (w : Saved) (owns a1 : Bool) : CoreSt :=
  let mine (b : Bool) : List Reduction := (c.set b).reds.filter (·.owner == i)
  let c := if owns = w.owns then c
    else if owns then (if c.engine.isNone then { c with engine := some i } else c)
    else if c.engine == some i && (mine false ++ mine true).isEmpty then { c with engine := none } else c
  if a1 = w.setA1 || !owns then c
  else
    let moved := mine (!a1)
    (c.modSet (!a1) fun x => { x with reds := x.reds.filter fun d => d.owner != i }).modSet a1 fun x => { x with reds := x.reds ++ moved }

/-- Slots that wait behind a SETTLE or a TBEXPECT go on in the context that their strand is restored into. -/
def Ctx.rehold (x : Ctx) (c : Nat) (h : Option Hold) : Ctx := { x with hold := h.map fun h => { h with latch := { h.latch with ctx := c } } }

/-- One strand is restored into the lowest free context of its core that is not kept for a strand that comes before it; an error
in its slot loses it (09 R174). DESIGN CHOICE (log 26): the restore counts as a placement where 03 R58 asks which strand was
placed most recently. -/
def State.restoreOne (s : State) (i : StrandId) : Option State :=
  match s.restorable i with
  | none => none
  | some w =>
    match s.room i w with
    | [] => none
    | c :: _ =>
      match s.blocked (s.tenantOf i) false w.slot 24576, s.bytesAt (s.tenantOf i) w.slot 24576 with
      | some .waits, _ => none
      | some (.missing _), _ | none, none => some (s.loseStrand i w.slot)
      | none, some bs =>
        let settles := (s.ops.filter fun o => o.owner == i && (match o.kind with | .settle .. => true | _ => false)).map (·.id)
        let h := lineBits (bs.take 64)
        let s := if w.edited bs 0xC00 1024 then s.freeRestart w.core i else s
        let t := ((s.countRead (s.tenantOf i) w.slot 24576).setCtx c
          ((restored bs i (w.asRead s.tick bs) settles).rehold c w.hold)).modCore w.core fun k =>
          k.reown i w (h.getLsbD 5) (h.getLsbD 6)
        some { t.modStrand i fun x => { x with st := .resident c, saved := none, placed := s.placements } with
          placements := s.placements + 1 }

/-- Every strand of a list is restored, or none; a strand that its restore loses ends the list, and its job is interrupted (09
R174). -/
def State.restoreAll (s : State) (seq : Nat) : List Nat → Option State
  | [] => some s
  | n :: l => match s.restoreOne ⟨seq, n⟩ with
    | some t => if (t.ctxOf ⟨seq, n⟩).isSome then t.restoreAll seq l else some t
    | none => none

/-- STRAND_RESTORE: a gang that pre-emption saved is restored as a whole, once all of it can be (03 R52). -/
def execStrandRestore (seq : Nat) (strand : Nat) (s : State) : Out :=
  .next (match findJob seq s.jobs with
    | none => s
    | some j =>
      if !s.mayRestore j strand then s
      else ((s.restoreSet j strand).bind (s.restoreAll seq)).getD s)

/-- The offset of a register in a slot, 09 Table 9-5. -/
def slotOffset (n : RegName) : Nat :=
  match n.file.toNat with
  | 0 => 0x40 + 8 * n.num.toNat
  | 1 => 0x1000 + 256 * n.num.toNat
  | 2 => 0x3000 + 256 * n.num.toNat
  | _ => 0x240 + 8 * n.num.toNat

/-- Bit k of a bit array of tenant t at a VA is cleared; none when its byte cannot be reached. -/
def State.clearBit (s : State) (t : BitVec 16) (at_ k : Nat) : Option State :=
  (s.bytesAt t (at_ + k / 8) 1).bind fun bs => s.putAt t (at_ + k / 8) [(nth 0#8 bs 0) &&& ~~~(BitVec.twoPow 8 (k % 8))]

/-- PENDING_RESULT_TO_SLOT, 09 R172: the value and the full bit go into the slot, and the PENDING bit clears; of a request that
ended without a result the PENDING bit alone does. Where software has cleared the PENDING bit, and the strand has been
restored, the value goes into its register. -/
def execPendingResultToSlot (op : Nat) (s : State) : Out :=
  .next (match s.op op with
    | some o =>
      let slotted (w : Saved) (n : RegName) (put : State → Option State) : State :=
        let done := if n.discards then some s else (put s).bind fun s => s.clearBit o.tenant (w.slot + 32) (emptyIndex n)
        if s.blocked o.tenant true w.slot 24576 = some .waits then s
        else match done with
          | some s => s.endOp op
          | none => (s.endOp op).loseStrand o.owner w.slot
      match o.kind, o.dest, s.strand o.owner with
      | .result v, some (n, _), some { saved := some w, .. } =>
        let bytes := match v with | .word x => leBytes 8 x.toNat | .lanes l => vecBytes l
        slotted w n fun s => (s.putAt o.tenant (w.slot + slotOffset n) bytes).bind fun s =>
          s.clearBit o.tenant (w.slot + 0x2C0) (emptyIndex n)
      | .noResult, some (n, _), some { saved := some w, .. } => slotted w n some
      | .result v, _, _ => (s.endOp op).deliver o.owner o.dest v
      | .noResult, _, _ => s.endOp op
      | _, _, _ => s
    | none => s)

/-! ### Dispositions -/

/-- A saved strand's record changed. -/
def State.modSaved (s : State) (i : StrandId) (f : Saved → Saved) : State :=
  s.modStrand i fun x => { x with saved := x.saved.map f }

/-- KILL: the strand is Exited, its participants' collectives are aborted (15 R244), and its job completes with FAULTED. -/
def State.killStrand (s : State) (i : StrandId) : State :=
  (((s.abortOf i).dropResults i).modStrand i fun x => { x with st := .exited, saved := none }).modJob i.seq (·.fail 0x22)

/-- The strand is held for a disposition. -/
def State.heldOf (s : State) (i : StrandId) : Option Saved :=
  match s.strand i with
  | some { st := .saved, saved := some w, .. } => some w
  | _ => none

/-- The disposition registers name a strand. -/
def State.setDisp (s : State) (seq : BitVec 56) (strand : BitVec 13) : State :=
  { s with evq := { s.evq with djob := seq, dstrand := strand } }

/-- DISP = RESUME, 09 R166. -/
def execDispResume (seq : BitVec 56) (strand : BitVec 13) (s : State) : Out :=
  let i : StrandId := ⟨seq.toNat, strand.toNat⟩
  .next (match s.heldOf i with
    | some w => if w.held then (s.setDisp seq strand).modSaved i fun w => { w with held := false } else s.setDisp seq strand
    | none => s.setDisp seq strand)

/-- DISP = KILL, 09 R166. -/
def execDispKill (seq : BitVec 56) (strand : BitVec 13) (s : State) : Out :=
  let i : StrandId := ⟨seq.toNat, strand.toNat⟩
  .next (match s.heldOf i with
    | some w => if w.held then (s.setDisp seq strand).killStrand i else s.setDisp seq strand
    | none => s.setDisp seq strand)

/-! ### Debug -/

/-- The debug registers of a request that ends with an outcome. -/
def State.debugDone (s : State) (seq : BitVec 56) (strand : BitVec 13) (req : BitVec 3) (res : BitVec 2) : State :=
  { s with dbg := { s.dbg with djob := seq, dstrand := strand, dreq := if s.dbg.go then s.dbg.dreq else req, go := false, dres := res
                               waits := 0#3 } }

/-- A request that has begun ends with an outcome. -/
def State.debugRes (s : State) (res : BitVec 2) : State := { s with dbg := { s.dbg with dres := res } }

/-- A request that has begun waits for lines of a slot behind a migration (14 R237), and is made again; GO reads 1. -/
def State.debugWaits (s : State) (req : BitVec 3) : State := { s with dbg := { s.dbg with go := true, dres := 1#2, waits := req } }

/-- A request runs when no other one does and a session for the strand's tenant is open; otherwise it is DENIED (09 R177,
R178). -/
def State.debugRequest (s : State) (seq : BitVec 56) (strand : BitVec 13) (req : BitVec 3) (k : StrandId → State → State) : State :=
  let i : StrandId := ⟨seq.toNat, strand.toNat⟩
  if s.dbg.go && !(s.dbg.waits == req && s.dbg.djob == seq && s.dbg.dstrand == strand) then s
  else if !s.dbg.unlocked || (s.strand i).isNone || s.tenantOf i != s.dbg.dtenant then s.debugDone seq strand req 2#2
  else k i (s.debugDone seq strand req 0#2)

/-- A request on a held strand; DENIED when it is not held. -/
def State.debugHeld (s : State) (seq : BitVec 56) (strand : BitVec 13) (req : BitVec 3) (k : StrandId → Saved → State → State) : State :=
  s.debugRequest seq strand req fun i s => match s.heldOf i with
    | some w => if w.held || w.dheld then k i w s else s.debugRes 2#2
    | none => s.debugRes 2#2

/-- The header of a saved strand's slot shows a debug stop: HELD, and REASON 3 but where a system stop's REASON 1 is still to act at
the restore (09 R166, R177, Table 9-6). -/
def State.markStopped (s : State) (i : StrandId) (slot : Nat) : State :=
  let t := s.tenantOf i
  match s.bytesAt t slot 1 with
  | some bs =>
    let b := nth 0#8 bs 0
    (s.putAt t slot [(b &&& 0xF0#8) ||| (if b &&& 7#8 = 1#8 then 0x09#8 else 0x0B#8)]).getD s
  | none => s

/-- DEBUG_STOP: a Resident strand stops, to be saved and held, with reason 3 but where it stops for a reason of its own; a saved
one gets the debug hold; any other is refused. -/
def execDebugStop (seq : BitVec 56) (strand : BitVec 13) (s : State) : Out :=
  .next (s.debugRequest seq strand 1#3 fun i s =>
    match s.strand i with
    | some { st := .resident c, .. } =>
      let s := { s with dbg := { s.dbg with go := true, dres := 1#2 } }
      (match (s.ctx c).stop with
        | some r => s.modCtx c fun x => { x with
            stop := some (if r.reason = 0 then { r with reason := 3, cause := 0#8 } else { r with debug := true }) }
        | none => s.stopCtx c { reason := 3, cause := 0#8, info := 0#64, pc := 0#16 })
    | some { st := .saved, saved := some w, .. } =>
      let held := w.held || w.dheld
      if !held && s.blocked (s.tenantOf i) true w.slot 1 = some .waits then s.debugWaits 1#3
      else
        let s := s.modSaved i fun w => { w with dheld := true }
        if held then s else (s.markStopped i w.slot).stopRecord i w.core w.slot 4 0#8
    | _ => s.debugRes 3#2)

/-- DEBUG_READ: the slot's image, the HSTATE views of the core's heads, and its retirement count. -/
def execDebugRead (seq : BitVec 56) (strand : BitVec 13) (s : State) : Out :=
  .next (s.debugHeld seq strand 2#3 fun i w s =>
    match s.blocked (s.tenantOf i) false w.slot 24576, s.bytesAt (s.tenantOf i) w.slot 24576 with
    | some .waits, _ => s.debugWaits 2#3
    | _, none => s.debugRes 3#2
    | _, some bs =>
      let s := s.countRead (s.tenantOf i) w.slot 24576
      { s with dbg := { s.dbg with
          slot := ((upto 24576).zip bs).foldl (fun m (n, b) => mset 0#8 m n b) []
          hview := (upto 64).foldl (fun m n => mset 0#64 m n (s.hstate w.core (n / 4) (s.head w.core (n / 4)) (n % 4))) []
          rcount := (s.core w.core).retires } })

/-- n bytes of the data window. -/
def DebugRegs.bytes (d : DebugRegs) (off n : Nat) : List Byte := (upto n).map fun i => mget 0#8 d.slot (off + i)

/-- DEBUG_WRITE: registers, full/empty bits and PC from the data window into the held slot. -/
def execDebugWrite (seq : BitVec 56) (strand : BitVec 13) (s : State) : Out :=
  .next (s.debugHeld seq strand 3#3 fun i w s =>
    let t := s.tenantOf i
    let put (s : State) (off n : Nat) : Option State := s.putAt t (w.slot + off) (s.dbg.bytes off n)
    if [(0x1A, 2), (0x40, 0x280), (0x2C0, 18), (0x1000, 0x4000)].any fun x => s.blocked t true (w.slot + x.1) x.2 = some .waits then
      s.debugWaits 3#3
    else match (put s 0x1A 2).bind fun s => (put s 0x40 0x280).bind fun s => (put s 0x2C0 18).bind fun s => put s 0x1000 0x4000 with
    | some s => s
    | none => s.debugRes 3#2)

/-- DEBUG_RESUME: the debug hold is released; the strand goes on once no hold is left. DESIGN CHOICE (log 28): a request on a strand
that a system stop alone holds finishes as done, and that hold stays. -/
def execDebugResume (seq : BitVec 56) (strand : BitVec 13) (s : State) : Out :=
  .next (s.debugHeld seq strand 4#3 fun i _ s => s.modSaved i fun w => { w with dheld := false })

/-- DEBUG_KILL. -/
def execDebugKill (seq : BitVec 56) (strand : BitVec 13) (s : State) : Out :=
  .next (s.debugHeld seq strand 5#3 fun i _ s => s.killStrand i)

end Sys2Proof.Machine
end

