-- ==== Sys2Proof/Machine/Requests.lean ====
section
/-! DEFINITION. The memory system's own steps: requests (14 R225), migration (R237), Attendance (R236, R238), chart operations
(R234), invalidation (R231) and promotion (R232), refresh windows (R228), errors (R359, 07 R131), and the replay and the
abort of parked requests (09 R171). -/

namespace Sys2Proof.Machine

/-- The address space of the rings and tables of the PF driver: tenant 0xFFFF (15 R246; log 18). -/
def pfAsid : BitVec 16 := 0xFFFF#16

/-! ### Requests -/

/-- What a request of no operation does at a place in its line; a revoked frame drops writes (14 R235). -/
def State.perform (s : State) (p : Place) : LineOp → State
  | .read => s
  | .write mask data => if p.revoked then s else { s with mem := s.mem.writeMask p.addr mask data }
  | .atomic off aop dbl b c =>
    let n := if dbl then 8 else 4
    let q : Place := { p with addr := p.addr + off.toNat / n * n }
    if s.badPlace q then s
    else match atomNew aop.toNat n (leNat (s.readPlace q n)) (b.toNat % 2 ^ (8 * n)) (c.toNat % 2 ^ (8 * n)) with
      | some v => s.writePlace q (leBytes n v)
      | none => s

/-- The access writes, or may. -/
def lineWrites : LineOp → Bool
  | .read => false
  | _ => true

/-- A request of no operation, of core k or of the host as 128, is admitted at a place: it counts, and performs or parks
behind the frame's migration (14 R237); without a credit, or while its walk waits, it waits where it came from, as the input
`again` (R225). -/
def State.request (s : State) (k : Nat) (p : Place) (off : Nat) (act : LineOp) (key : Nat) (count : State → State) (again : Instr) :
    State :=
  let f := p.frame.getD 0
  if p.held || k < 128 && !s.hasCredit k p then { s with inputs := s.inputs ++ [again] }
  else if s.mayRequest p (BitVec.ofNat 57 off) (lineWrites act) then ((count s).activate p.addr).perform p act
  else (count s).parkRequest
    { frame := f, line := off % 65536 / 64, op := 0, write := lineWrites act, act := some (k, act), key := key }

/-- Tag code 0xFF over a block at its tag block's place, its former format code in the scale's place (07 R131). -/
def State.poison (s : State) (p : Place) (b : Nat) : State :=
  let bs := s.readPlace p 64
  let tag := tagOf bs b
  if s.badPlace p || tag % 256 = 0xFF then s else s.writePlace p (retag bs b (0xFF + 256 * (tag % 256)))

/-- The requests of no operation at the head of a frame's queue perform, up to the first access of an operation, which makes a
step of its own (14 R237). -/
def State.performParked (s : State) (f : Nat) : Nat → State
  | 0 => s
  | n + 1 =>
    match s.mem.queue (fun n => (s.op n).isSome) f with
    | e :: _ =>
      match e.act, s.mem.place e.frame (64 * e.line) with
      | some (_, act), some a =>
        let p : Place := ⟨a, some e.frame, chRevoked (s.mem.entry e.frame), 0#64, false⟩
        let t := s.activate a
        let t := match e.poison with | some b => t.poison p b | none => t.perform p act
        { t with mem := { t.mem with parked := t.mem.parked.erase e } }.performParked f n
      | some _, none => { s with mem := { s.mem with parked := s.mem.parked.erase e } }.performParked f n
      | none, _ => s
    | [] => s

/-- The parked requests of no operation whose turn has come perform: no migration holds their frames any more. -/
def State.drainParked (s : State) : State :=
  ((s.mem.parked.filter (·.act.isSome)).map (·.frame)).eraseDups.foldl (fun s f =>
    if chState (s.mem.entry f) = 3 then s else s.performParked f s.mem.parked.length) s

/-- MEMORY_REQUEST, 14 R225: a 64-byte request is admitted and performs, and its credit returns; without a translation it
parks (09 R171), behind a migration it parks too. -/
def execMemoryRequest (r : MemReq) (s : State) : Out :=
  let va : BitVec 57 := r.va &&& ~~~63#57
  let act : LineOp := match r.kind with | .write d => .write (BitVec.allOnes 64) d | _ => .read
  .next (match r.kind with
    | .stage core head => match execHeadBlockFetch core head s with | .next t => t | _ => s
    | _ =>
      match s.placeOf r.asid va (lineWrites act) with
      | none => { s with reqs := s.reqs ++ [(s.parks, r)], parks := s.parks + 1 }.pageFault r.asid va (lineWrites act) false r.core.toNat 0 ⟨0, 0⟩
      | some p => s.request r.core.toNat p va.toNat act (tlbKey r.asid va) (·.enterReq r.asid va p (dieOf r.core.toNat)) (.memoryRequest r))

/-- HOST_MEMORY_ACCESS, 15 R245: a host access of a line of device memory is served at the home controller through the
Seating chart, and parks behind a migration (14 R237); host memory is reached as it lies. A read's data, and what an atomic
operation returns, go to the host, outside the model. DESIGN CHOICE (log 18): an access to a frame that is not mapped has no effect
and leaves no record. -/
def execHostMemoryAccess (addr : BitVec 52) (act : LineOp) (s : State) : Out :=
  let a := addr.toNat / 64 * 64
  let base := s.fab.hdmbase.toNat
  .next (
    if base ≤ a && a < base + 2 ^ 43 then
      let d := a - base
      let f := d / 65536
      match s.mem.place f (d % 65536) with
      | none => s
      | some m =>
        s.request 128 ⟨m, some f, chRevoked (s.mem.entry f), 0#64, false⟩ d act (2 ^ 60) (fun s => { s with mem := s.mem.attend f })
          (.hostMemoryAccess addr act)
    else s.perform ⟨hostMedia a, none, false, 0#64, false⟩ act)

/-! ### Attendance -/

/-- The 128 bits of an Attendance record, 14 Table 14-3, with the frame's chart entry. -/
def AttRec.bits (a : AttRec) (e : Word) : BitVec 128 :=
  a.info ++ 0#16 ++ BitVec.ofNat 16 a.count ++ BitVec.ofNat 2 a.type ++ BitVec.ofBool (chPin e) ++ BitVec.ofNat 2 (chState e)
    ++ BitVec.ofNat 27 a.frame

/-- A record goes to the Attendance ring, behind those that wait there; withheld with ATTOVF when the ring is full, or its line has
no translation (log 18). While the line waits behind a migration, the record waits. ATTWR and ATTRD count modulo N. -/
def State.putAtt (s : State) (a : AttRec) : State :=
  let r := s.mem.regs
  let n := ringSize r.attlog2n.toNat
  let w := r.attwr.toNat % n
  let va := r.attbase.toNat + 16 * w
  let ovf : State := { s with mem := { s.mem with regs := { r with attovf := true } } }
  if r.attbase = 0#57 || !r.aen then s
  else if !s.mem.attRecs.isEmpty then { s with mem := { s.mem with attRecs := s.mem.attRecs ++ [a] } }
  else if (w + 1) % n = r.attrd.toNat % n then ovf
  else match s.blocked pfAsid true va 16, s.putAt pfAsid va (leBytes 16 (a.bits (s.mem.entry a.frame)).toNat) with
    | some .waits, _ => { s with mem := { s.mem with attRecs := s.mem.attRecs ++ [a] } }
    | none, some t => { t with mem := { t.mem with regs := { t.mem.regs with attwr := BitVec.ofNat 16 ((w + 1) % n) } } }
    | _, _ => ovf

/-- A record of the Attendance ring, 14 Table 14-3. -/
def State.attRecord (s : State) (frame type count : Nat) (info : Word) : State := s.putAtt ⟨frame, type, count, info⟩

/-- The Attendance records that waited behind a migration go to the ring. -/
def State.flushAtt (s : State) : State :=
  if s.mem.attRecs.isEmpty then s
  else s.mem.attRecs.foldl (fun s a => s.putAtt a) { s with mem := { s.mem with attRecs := [] } }

/-- Candidates by descending estimate, ties by ascending frame. -/
def sortCands : List (Nat × Nat) → List (Nat × Nat)
  | [] => []
  | c :: l =>
    let r := sortCands l
    let before (d : Nat × Nat) : Bool := c.2 < d.2 || c.2 == d.2 && d.1 < c.1
    (r.takeWhile before) ++ c :: (r.dropWhile before)

/-- The tracker's moves at an interval's end, at most n (14 R238). -/
def MemSys.trackMoves (m : MemSys) : Nat → List (Nat × Nat) → MemSys
  | _, [] => m
  | 0, _ => m
  | n + 1, (f, _) :: l =>
    let t := m.moveNear f
    if t.moves.length = m.moves.length then m.trackMoves (n + 1) l else t.trackMoves n l

/-- ATTENDANCE_INTERVAL_END, 14 R236, R238. DESIGN CHOICE (log 18): while AEN is 0 the sketches and the candidates stay. -/
def execAttendanceIntervalEnd (s : State) : Out :=
  let r := s.mem.regs
  let s := { s with mem := { s.mem with regs := { r with attend := r.attend + 1000 * r.interval.toNat } } }
  .next (if !r.aen then s
    else
      let list := sortCands ((s.mem.cands.flatMap (·.2)).map fun c => (c.1, s.mem.estimate c.1))
      let s := list.foldl (fun s (f, e) => s.attRecord f 0 e s.dtime) s
      let m := if r.migen then s.mem.trackMoves r.migmax.toNat list else s.mem
      { s with mem := { m with sketch := [], cands := [] } })

/-! ### Migration -/

/-- The bytes and the errors of a frame copied from one media address to another; bytes that nothing has written are left
so. -/
def MemSys.copyFrame (m : MemSys) (from_ tgt : Nat) : MemSys :=
  if from_ = tgt then m
  else
    let inside {α : Type} (b n : Nat) (x : Nat × α) : Bool := b ≤ x.1 && x.1 < b + n
    let bytes := (m.bytes.filter (inside from_ 65536)).foldl (fun b x => mset mediaDefault b (x.1 - from_ + tgt) x.2)
      (m.bytes.filter fun x => !inside tgt 65536 x)
    let bad := (m.bad.filter (inside (from_ / 64) 1024)).foldl (fun b x => mset false b (x.1 - from_ / 64 + tgt / 64) x.2)
      (m.bad.filter fun x => !inside (tgt / 64) 1024 x)
    { m with bytes := bytes, bad := bad }

/-- The lines of a frame that a copy reads or writes may activate rows (14 R228). -/
def State.copyActs (s : State) (a : Nat) : State := (upto 1024).foldl (fun s i => s.activate (a + 64 * i)) s

/-- MIGRATION_FLIP, 14 R237: the copy is complete and the entry flips, near media that it frees returning to the pool; or
the new media has not accepted it, and the entry stays. The accesses parked behind it then perform, in arrival order, before any
other: those of no operation at the end of the step (State.drainParked), the others as their operations' turns come. -/
def execMigrationFlip (frame : BitVec 27) (accepted : Bool) (s : State) : Out :=
  let f := frame.toNat
  .next (match s.mem.moves.find? fun v => v.frame == f with
    | none => s
    | some v =>
      let e := s.mem.entry f
      let m := { s.mem with moves := s.mem.moves.filter fun x => x.frame != f }
      if accepted then
        let m := m.copyFrame (mediaAt f v.oldTier (chMedia e) 0) (mediaAt f v.tier v.media 0)
        let m := m.setEntry f (chEntry v.tier (chPin e) (chRevoked e) (chSched e) v.media)
        let m := if v.oldTier = 1 then
            { m with pool := mset [] m.pool (homeOf f) (mget [] m.pool (homeOf f) ++ [chMedia e]) } else m
        let t := ({ s with mem := m }.copyActs (mediaAt f v.oldTier (chMedia e) 0)).copyActs (mediaAt f v.tier v.media 0)
        t.attRecord f 1 0 (BitVec.ofNat 64 (chMedia e * 65536))
      else
        let t := { s with mem := m.setEntry f (chEntry v.oldTier (chPin e) (chRevoked e) (chSched e) (chMedia e)) }
        t.attRecord f 2 0 (BitVec.ofNat 64 (v.media * 65536)))

/-! ### Chart operations, 14 R234 -/

/-- The registers of a chart operation, with CSTAT: 0 done, 1 busy, 2 refused. -/
def State.chartDone (s : State) (frame : BitVec 27) (cop : BitVec 4) (charg : Option Word) (cstat : BitVec 2) : State :=
  { s with mem := { s.mem with regs := { s.mem.regs with
      cframe := frame, cop := cop, cstat := cstat, charg := charg.getD s.mem.regs.charg } } }

/-- An operation on a mapped frame: refused on an unmapped one, busy while it moves or under promotion. -/
def State.chartOn (s : State) (frame : BitVec 27) (cop : BitVec 4) (charg : Option Word) (k : Word → MemSys → MemSys) : State :=
  let e := s.mem.entry frame.toNat
  if s.mem.covered frame.toNat then s.chartDone frame cop charg 1#2
  else match chState e with
  | 0 => s.chartDone frame cop charg 2#2
  | 3 => s.chartDone frame cop charg 1#2
  | _ => { s with mem := k e s.mem }.chartDone frame cop charg 0#2

def argTier (w : Word) : Nat := (w.extractLsb' 0 2).toNat
def argMedia (w : Word) : Nat := (w.extractLsb' 16 36).toNat
/-- The near media frames of a stack are numbered by 20 bits. -/
def nearMedia (tier media : Nat) : Nat := if tier = 1 then media % 2 ^ 20 else media
/-- The 64 MiB in which a stack's controller holds the Seating chart, which no frame can map (14 R224). DESIGN CHOICE (log 18):
they are the last of the stack's 64 GiB, and an operation that names one of their frames is refused. -/
def chartMedia (tier media : Nat) : Bool := tier = 1 && 2 ^ 20 - 1024 ≤ media % 2 ^ 20

/-- MAP. -/
def execChartMap (frame : BitVec 27) (charg : BitVec 64) (s : State) : Out :=
  let e := s.mem.entry frame.toNat
  let t := argTier charg
  .next (
    if chState e = 3 || s.mem.covered frame.toNat then s.chartDone frame 1#4 (some charg) 1#2
    else if chState e != 0 || t = 0 || t = 3 || chartMedia t (argMedia charg) then s.chartDone frame 1#4 (some charg) 2#2
    else
      { s with mem := s.mem.setEntry frame.toNat (chEntry t false false (charg.getLsbD 2) (nearMedia t (argMedia charg))) }.chartDone
        frame 1#4 (some charg) 0#2)

/-- UNMAP: it completes when the admitted requests of the frame have performed, those that a flip has left parked; until then
CGO reads 1. Its end changes CSTAT alone: CFRAME and COP are as they were last written. -/
def execChartUnmap (frame : BitVec 27) (s : State) : Out :=
  let f := frame.toNat
  let waits := !(s.mem.queue (fun n => (s.op n).isSome) f).isEmpty && chState (s.mem.entry f) != 3 && !s.mem.covered f
  let r := s.mem.regs
  let now : MemRegs := if s.mem.unmapping = some f then r else { r with cframe := frame, cop := 2#4 }
  let on (t : State) : State :=
    { t with mem := { t.mem with regs := { t.mem.regs with cframe := now.cframe, cop := now.cop } } }
  .next (if waits then on { s with mem := { s.mem with unmapping := some f } }
    else on ({ s with mem := { s.mem with unmapping := none } }.chartOn frame 2#4 none fun _ m => m.setEntry f 0#64))

/-- PIN. -/
def execChartPin (frame : BitVec 27) (s : State) : Out :=
  .next (s.chartOn frame 3#4 none fun e m => m.setEntry frame.toNat (e ||| 4#64))

/-- UNPIN. -/
def execChartUnpin (frame : BitVec 27) (s : State) : Out :=
  .next (s.chartOn frame 4#4 none fun e m => m.setEntry frame.toNat (e &&& ~~~4#64))

/-- A frame is revoked. -/
def MemSys.revoke (m : MemSys) (f : Nat) : MemSys := m.setEntry f (m.entry f ||| 8#64)

/-- REVOKE. -/
def execChartRevoke (frame : BitVec 27) (s : State) : Out :=
  .next (s.chartOn frame 5#4 none fun _ m => m.revoke frame.toNat)

/-- MOVE: refused for a pinned or revoked frame. DESIGN CHOICE (log 18): it has finished, for CGO and CSTAT, when the move starts. -/
def execChartMove (frame : BitVec 27) (charg : BitVec 64) (s : State) : Out :=
  let e := s.mem.entry frame.toNat
  let t := argTier charg
  .next (if chState e != 3 && (chPin e || chRevoked e || t = 0 || t = 3 || chartMedia t (argMedia charg)) then s.chartDone frame 6#4 (some charg) 2#2
    else s.chartOn frame 6#4 (some charg) fun _ m => m.startMove frame.toNat t (nearMedia t (argMedia charg)))

/-- POOL. -/
def execChartPool (frame : BitVec 27) (charg : BitVec 64) (s : State) : Out :=
  let h := homeOf frame.toNat
  .next (if chartMedia 1 (argMedia charg) then s.chartDone frame 7#4 (some charg) 2#2
    else { s with mem := { s.mem with pool := mset [] s.mem.pool h (mget [] s.mem.pool h ++ [nearMedia 1 (argMedia charg)]) } }.chartDone
    frame 7#4 (some charg) 0#2)

/-- READ: CHARG ← the entry. -/
def execChartRead (frame : BitVec 27) (s : State) : Out :=
  .next (s.chartDone frame 8#4 (some (s.mem.entry frame.toNat)) 0#2)

/-! ### Invalidation and promotion -/

/-- IGO, 14 R231: the translations of the range leave the TLBs, and IGO reads 1 until the requests that were translated through
them, parked behind migrations, have performed. -/
def execIgo (s : State) : Out :=
  let r := s.mem.regs
  let first := r.iva.toNat / 65536
  let gone (key : Nat) : Bool :=
    let asid := key % 2 ^ 57 / 2 ^ 41
    let page := key % 2 ^ 41
    r.ievery || asid == r.iasid.toNat && (r.iall || first ≤ page && page < first + r.ipages.toNat)
  .next { s with mem := { s.mem with
    tlb := s.mem.tlb.filter fun x => !gone x.1
    invalidating := s.mem.parked.filter fun p => p.key < 2 ^ 57 && gone p.key && (p.act.isSome || (s.op p.op).isSome) } }

/-- IGO reads 1. -/
def State.igoBusy (s : State) : Bool :=
  s.mem.invalidating.any fun p => s.mem.parked.contains p && (p.act.isSome || (s.op p.op).isSome)

/-- The table of a level that the walk of a VA reaches: its frame; none when a level above ends the walk. -/
def MemSys.tableAt (m : MemSys) (asid : BitVec 16) (va : BitVec 57) (level : Nat) : Option Nat :=
  let down : Nat → Nat → Option Nat := fun l table =>
    match m.dpaWord (table * 65536 + 8 * pteIndex l va) with
    | some e => if pteValid l e && !e.getLsbD 1 then some (pteAddr e) else none
    | none => none
  match m.dpaWord (m.regs.rootbase.toNat + 8 * asid.toNat) with
  | none => none
  | some e =>
    if !pteValid 4 e then none
    else (down 3 (pteAddr e)).bind fun t => (down 2 t).bind fun t => if level = 1 then some t else down 1 t

/-- A word written at a DPA. -/
def MemSys.putDpa (m : MemSys) (dpa : Nat) (w : Word) : MemSys :=
  match m.place (dpa / 65536) (dpa % 65536) with
  | some a => if chRevoked (m.entry (dpa / 65536)) then m else m.write a (leBytes 8 w.toNat)
  | none => m

/-- A leaf entry: V, LEAF, W, CONTIG and ADDR. -/
def leafEntry (w contig : Bool) (frame : Nat) : Word :=
  (0#12 ++ BitVec.ofNat 36 frame ++ 0#12 ++ BitVec.ofBool contig ++ BitVec.ofBool w ++ 1#1 ++ 1#1 : BitVec 64)

/-- The frames of a promotion's VA range with W; none when a page maps no DPA frame. -/
def MemSys.sourceFrames (m : MemSys) (asid : BitVec 16) (va : Nat) : Nat → Option (List (Nat × Bool))
  | 0 => some []
  | n + 1 =>
    match m.walk asid (BitVec.ofNat 57 va), m.sourceFrames asid (va + 65536) n with
    | some w, some l => if w.getLsbD 4 then none else some ((pteAddr w, w.getLsbD 2) :: l)
    | _, _ => none

/-- PSTAT. -/
def MemSys.pstat (m : MemSys) (v : BitVec 3) : MemSys := { m with regs := { m.regs with pstat := v } }

/-- A request that a predicate of its frame picks has not performed: it is parked. -/
def State.parkedIn (s : State) (p : Nat → Bool) : Bool := s.mem.parked.any fun q => p q.frame && (q.act.isSome || (s.op q.op).isSome)

/-- A request through an old translation of a promotion's range has not performed: it is parked under a source frame. -/
def State.oldRequests (s : State) (p : Promotion) : Bool := s.parkedIn p.sources.contains

/-- A promotion goes on (14 R232). Step 2, one compare-and-swap: the entry is rewritten when it stands as it was read, and the
promotion is abandoned otherwise, once the requests parked under either name of its media have performed in their order; while the
table's line waits behind a migration, nothing happens. Step 3, with the last of
them: the TLBs forget the range, and the requests that were translated through it perform, as IGO would wait for them. Step 4:
the source frames are unmapped. -/
def State.promote (s : State) (p : Promotion) : State :=
  let m := s.mem
  let dpa := p.table * 65536 + 8 * (p.index + p.done)
  let place : Place := ⟨0, some p.table, false, 0#64, false⟩
  if p.done = p.olds.length then
    if s.oldRequests p then s
    else { s with mem := (p.sources.foldl (fun (m : MemSys) f => m.setEntry f 0#64) { m with promotion := none }).pstat 2#3 }
  else if !s.mayRequest place (BitVec.ofNat 57 (dpa % 65536)) true then s
  else if m.dpaWord dpa != p.olds[p.done]? then
    if s.parkedIn m.covered then s else { s with mem := ({ m with promotion := none } : MemSys).pstat 3#3 }
  else
    let s := s.countFrame p.table (dpa % 65536)
    let m := s.mem.putDpa dpa (leafEntry p.w (p.olds.length != 1) (p.target + p.done))
    let lo := tlbKey p.asid p.va
    let tlb := if p.done + 1 < p.olds.length then m.tlb else m.tlb.filter fun x => !(lo ≤ x.1 % 2 ^ 57 && x.1 % 2 ^ 57 < lo + p.sources.length)
    { s with mem := { m with tlb := tlb, promotion := some { p with done := p.done + 1 } } }

/-- A promotion begins (14 R232 step 1): both frames name the same media. -/
def MemSys.startPromotion (m : MemSys) (p : Promotion) : MemSys :=
  let m := ((upto p.sources.length).zip p.sources).foldl (fun m (i, f) => m.setEntry (p.target + i) (m.entry f)) m
  ({ m with promotion := some p } : MemSys).pstat 1#3

/-- The DPAs of the lines of page tables that a promotion of n pages from a VA reads, each once: the walk of its first page, and the
entries of the others, eight to a line. -/
def MemSys.rangeLines (m : MemSys) (asid : BitVec 16) (va n : Nat) : List Nat :=
  m.walkLines asid (BitVec.ofNat 57 va)
    ++ (upto (n / 8)).tail.filterMap fun i => (m.walkLines asid (BitVec.ofNat 57 (va + 524288 * i))).getLast?

/-- PGO, 14 R232: a promotion starts, or one in progress goes on. A range whose base or target is not aligned to its size, or
that no table of the level maps, is refused too (log 18). While a line of its page tables has writes parked before it, it waits. -/
def execPgo (s : State) : Out :=
  let r := s.mem.regs
  let m := s.mem
  let (asid, pva, dpa, size) := m.promoting.getD (r.pasid, r.pva, r.ptarget, r.psize)
  let n : Nat := if size then 8192 else 32
  let va := pva.toNat
  let target := dpa.toNat / 65536
  let level : Nat := if size then 1 else 0
  .next (match m.promotion with
    | some p => s.promote p
    | none =>
      if (upto (n / 8)).any fun i => s.walkWaits asid (BitVec.ofNat 57 (va + 524288 * i)) then
        { s with mem := { m.pstat 1#3 with promoting := some (asid, pva, dpa, size) } }
      else
        let s := { s with mem := { m with promoting := none } }.countLines (m.rangeLines asid va n)
        match m.sourceFrames asid va n, m.tableAt asid pva level with
        | some fs, some table =>
          let w := match fs with | (_, w) :: _ => w | [] => false
          let region := target / 2 ^ 23
          let bad := va % (65536 * n) != 0 || target % n != 0
            || fs.any (fun x => x.1 / 2 ^ 23 != region || x.2 != w || chState (m.entry x.1) == 3)
            || (upto n).any fun i => m.entry (target + i) != 0#64
          let index := pteIndex level pva
          let olds := (upto (if size then 1 else 32)).map fun i => (m.dpaWord (table * 65536 + 8 * (index + i))).getD 0#64
          let p : Promotion :=
            { asid := asid, va := pva, target := target, table := table, index := index, w := w, sources := fs.map (·.1), olds := olds }
          { s with mem := if bad then s.mem.pstat 4#3 else s.mem.startPromotion p }
        | _, _ => { s with mem := s.mem.pstat 4#3 })

/-! ### Windows, errors, stacks -/

/-- REFRESH_WINDOW_END, 14 R228: the activation counts of the stack's rows start again. -/
def execRefreshWindowEnd (stack : BitVec 4) (s : State) : Out :=
  .next { s with mem := { s.mem with acts := s.mem.acts.filter fun x => x.1 / 2 ^ 40 != stack.toNat } }

/-- UNCORRECTABLE_MEDIA_ERROR, 14 R359. -/
def execUncorrectableMediaError (line : Nat) (s : State) : Out :=
  .next { s with mem := { s.mem with bad := mset false s.mem.bad line true } }

/-- SCRUBBER_POISON, 07 R131: tag code 0xFF over a block, its former format code in the scale's place, and the group check
made good. It is one access of the tag block's line, which parks behind a migration (14 R237). -/
def execScrubberPoison (asid : BitVec 16) (group : BitVec 57) (block : BitVec 5) (s : State) : Out :=
  let b := block.toNat
  .next (if b = 0 || group.toNat % 2048 != 0 then s
    else match s.placeOf asid group false with
      | none => s
      | some p =>
        if p.held then { s with inputs := s.inputs ++ [.scrubberPoison asid group block] }
        else if s.mayRequest p group true then (s.countAccess asid group p).poison p b
        else (s.enterReq asid group p).parkRequest
          { frame := p.frame.getD 0, line := group.toNat % 65536 / 64, op := 0, write := true, act := some (129, .read), poison := some b
            key := tlbKey asid group })

/-- A job has something that its packet names in a stack. -/
def State.namesStack (s : State) (j : Job) (stack : Nat) : Bool :=
  [0, 64, 128, 192, 256].any fun lo => match s.placeOf j.tenant (BitVec.ofNat 57 (j.va lo)) false with
    | some { frame := some f, .. } => homeOf f == stack
    | _ => false

/-- MEMORY_STACK_OFFLINE, 15 R247: it interrupts the jobs that depend on the stack: those whose packet names it; whether
another job depends on it is open. -/
def execMemoryStackOffline (stack : BitVec 4) (s : State) : Out :=
  let k := stack.toNat
  .next (
    let hit := (s.jobs.filter fun j => !j.completed && (s.namesStack j k || Config.free s.tick j.seq % 2 = 1)).map (·.seq)
    let s := { s with mem := { s.mem with offline := withBit s.mem.offline k true } }
    hit.foldl (fun s q => s.interrupt q 0x21) s)

/-! ### Replay and abort, 09 R171 -/

/-- The kind of an event record. -/
def recordKind (r : BitVec 256) : Nat := (r.extractLsb' 60 4).toNat

/-- One parked request retries. -/
def State.retry (s : State) (o : Op) : State :=
  match o.parked with
  | none => s
  | some (va, w) =>
    match s.placeOf o.tenant va w with
    | some _ => s.setOp { o with parked := none }
    | none => s.park o va w

/-- A parked request: of an operation, of the check of a context's head command, a reread of ECOUNT, of the command processor or
the Timetable, or of no operation. -/
inductive ParkedReq where
  | op (n : Nat)
  | check (ctx : Nat)
  | reread (core head : Nat)
  | cp (e : CpPark)
  | req (arrival : Nat) (r : MemReq)
deriving DecidableEq, Repr

/-- Things with arrival numbers in arrival order. -/
def byArrival {α : Type} : List (Nat × α) → List (Nat × α)
  | [] => []
  | o :: l => let r := byArrival l; (r.takeWhile (·.1 < o.1)) ++ o :: (r.dropWhile (·.1 < o.1))

/-- Every parked request, in arrival order (09 R171). -/
def State.parkedReqs (s : State) : List ParkedReq :=
  (byArrival ((s.ops.filter (·.parked.isSome)).map (fun o => (o.arrival, ParkedReq.op o.id))
    ++ (s.ctxs.filter (·.2.needs.isSome)).map (fun x => (x.2.needsAt, .check x.1))
    ++ (s.cores.flatMap fun (k, c) => (c.heads.filter (·.2.reread == 2)).map fun x => (x.2.rereadAt, .reread k x.1))
    ++ s.cpParked.map (fun e => (e.arrival, .cp e)) ++ s.reqs.map fun x => (x.1, .req x.1 x.2))).map (·.2)

/-- The parked check of a context's head command retries: the walk of its tags (07 R136). One that parks again has a new place in
the order. -/
def State.retryCheck (s : State) (c : Nat) : State :=
  let x := s.ctx c
  let i := x.strand.getD ⟨0, 0⟩
  match x.needs with
  | none => s
  | some va =>
    if (s.placeOf (s.tenantOf i) va false).isSome then s.modCtx c fun x => { x with needs := none }
    else (({ s with parks := s.parks + 1 }).pageFault (s.tenantOf i) va false false (coreOf c) 0 i).modCtx c fun x =>
      { x with needsAt := s.parks }

/-- The parked reread of a head retries. -/
def State.retryReread (s : State) (k h : Nat) : State :=
  let x := s.head k h
  if (s.placeOf (s.headTenant x) (descLine x.descVa) false).isSome then s.modHead k h fun x => { x with reread := 1 }
  else s.parkReread k h

/-- One parked request retries. -/
def State.retryReq (s : State) : ParkedReq → State
  | .op n => match s.op n with
    | some o => s.retry o
    | none => s
  | .check c => s.retryCheck c
  | .reread k h => s.retryReread k h
  | .cp e =>
    match s.placeOf e.asid (BitVec.ofNat 57 (e.page * 65536)) e.write with
    | some _ => { s with cpParked := s.cpParked.filter (· != e) }
    | none => ({ s with
        cpParked := s.cpParked.map fun x => if x == e then { x with arrival := s.parks } else x
        parks := s.parks + 1 }).pageFault e.asid (BitVec.ofNat 57 (e.page * 65536)) e.write false 0 (if 512 ≤ e.queue then 7 else 5)
        ⟨if 512 ≤ e.queue then 0 else e.seq, 0⟩
  | .req n r => match execMemoryRequest r { s with reqs := s.reqs.filter (· != (n, r)) } with
    | .next t => t
    | _ => s

/-- REPLAY: every parked request retries once, in arrival order; one that parks again is recorded again; the records that
were withheld come with them. -/
def execReplay (s : State) : Out :=
  .next (
    let s := { s with mem := { s.mem with faults := [] }, records := s.records ++ s.withheld.filter fun r => recordKind r != 0
                      withheld := [] }
    s.parkedReqs.foldl (fun s r => s.retryReq r) s)

/-- A parked request of an operation ends: PAGE_FAULT is owed to its context with the VA. -/
def State.abortOp (s : State) (o : Op) (va : BitVec 57) : State :=
  let k := o.core
  let s := s.endUnanswered o
  let s := match o.kind with
    | .hopen h .. => s.modHead k h fun x => { x with mode := 0, opening := false }
    | .hclose h => s.modHead k h fun x => { x with closing := false }
    | .mldb .. => s.cancelLoad k o.id
    | _ => s
  (s.addHoles k o.id o.writes).owe o.owner ⟨cPageFault, va.setWidth 64⟩ (engineOf o.kind)

/-- The parked reread of a head ends: PAGE_FAULT is owed to the strand that asked for it, and the other contexts that wait for it ask
again. -/
def State.abortReread (s : State) (k h : Nat) : State :=
  let x := s.head k h
  let t := (coreCtxs k).foldl (fun s c => s.modCtx c fun y =>
    { y with rereads := if mget 0 y.rereads h = 1 then mset 0 y.rereads h 0 else y.rereads })
    (s.modHead k h fun y => { y with reread := 0, asker := none })
  match x.asker with
  | some i => t.owe i ⟨cPageFault, (descLine x.descVa).setWidth 64⟩ 0
  | none => t

/-- ABORT: the parked requests of a page end. -/
def execAbort (asid : BitVec 16) (page : BitVec 41) (s : State) : Out :=
  .next (
    let hit (t : BitVec 16) (va : BitVec 57) : Bool := t == asid && va.toNat / 65536 == page.toNat
    let s := { s with evq := { s.evq with asid := asid, page := page } }
    let s := s.ops.foldl (fun s o => match o.parked with
      | some (va, _) => if hit o.tenant va then s.abortOp o va else s
      | none => s) s
    let s := s.ctxs.foldl (fun s (c, x) => match x.needs, x.strand with
      | some va, some i =>
        if hit (s.tenantOf i) va then (s.modCtx c fun x => { x with needs := none }).owe i ⟨cPageFault, va.setWidth 64⟩ 0 else s
      | _, _ => s) s
    let s := s.cores.foldl (fun s (k, y) => y.heads.foldl (fun s (h, x) =>
      if x.reread = 2 && hit (s.headTenant x) (descLine x.descVa) then s.abortReread k h else s) s) s
    let s := { s with reqs := s.reqs.filter fun x => !hit x.2.asid x.2.va }
    let gone := s.cpParked.filter fun e => e.asid == asid && e.page == page.toNat
    let s := { s with cpParked := s.cpParked.filter fun e => !(e.asid == asid && e.page == page.toNat) }
    gone.foldl (fun s e => if 512 ≤ e.queue then s else if e.seq = 0 then s.reject e.queue 0x22
      else (s.endJob e.seq 0x22).dropClaims e.seq e.page) s)

end Sys2Proof.Machine
end

