-- ==== Sys2Proof/Machine/HostPort.lean ====
section
/-! DEFINITION. What the host does to the part: register writes under their access codes (00 R8; 03 R47, R358, 09 R169, R178,
14 R240, 15 R252, 17 Table 17-1), SPDM requests (15 R253), and resets: of a function (15 R246, 17 R273), warm (15 R251), cold
(15 R253), and the loss of power. -/

namespace Sys2Proof.Machine

/-- A field of a written value. -/
def fieldAt (v : Word) (lo w : Nat) : BitVec w := v.extractLsb' lo w

/-! ### Queue registers, 03 Table 3-7 -/

/-- Virtual function n, or 0 the PF, reaches the block of a queue (03 R47, R358). -/
def State.reaches (s : State) (vf q : Nat) : Bool := q < 320 && (vf = 0 || q < 256 && (mget 0#6 s.assign q).toNat == vf)

/-- SQWR: an index of N or above is ignored and sets BADIDX. -/
def QueueRegs.writeSqwr (r : QueueRegs) (v : BitVec 16) : QueueRegs :=
  if r.n ≤ v.toNat then { r with badidx := true } else { r with sqwr := v }

/-- CQRD: as SQWR; the records up to the index have been read. -/
def QueueRegs.writeCqrd (r : QueueRegs) (v : BitVec 16) : QueueRegs :=
  if r.n ≤ v.toNat then { r with badidx := true }
  else if r.cqbase = 0#57 || v = r.cqrd then { r with cqrd := v }
  else { r with cqrd := v, unread := (r.cqwr.toNat + r.n - v.toNat) % r.n }

/-- SQWR, 03 R47. -/
def execSqwr (fn : BitVec 6) (queue : BitVec 9) (value : BitVec 16) (s : State) : Out :=
  .next (if s.reaches fn.toNat queue.toNat then s.modQueue queue.toNat (·.writeSqwr value) else s)

/-- CQRD, 03 R47. -/
def execCqrd (fn : BitVec 6) (queue : BitVec 9) (value : BitVec 16) (s : State) : Out :=
  .next (if s.reaches fn.toNat queue.toNat then s.modQueue queue.toNat (·.writeCqrd value) else s)

/-- A write at an offset of a queue's block; `pf` writes the SYS fields too. -/
def QueueRegs.write (r : QueueRegs) (pf : Bool) (off : Nat) (v : Word) : QueueRegs :=
  match off with
  | 0x00 => if r.enable then r else { r with sqbase := fieldAt v 0 57 &&& ~~~63#57 }
  | 0x08 =>
    let r := { r with
      log2n := if r.enable then r.log2n else fieldAt v 0 4
      vector := fieldAt v 4 11, ien := v.getLsbD 15, enable := v.getLsbD 16 }
    if pf then { r with tenant := fieldAt v 32 16, priocap := fieldAt v 48 5 } else r
  | 0x10 => r.writeSqwr (fieldAt v 0 16)
  | 0x20 => if r.enable then r else { r with cqbase := fieldAt v 0 57 &&& ~~~15#57 }
  | 0x30 => r.writeCqrd (fieldAt v 0 16)
  | 0x38 => if v.getLsbD 0 then { r with badidx := false } else r
  | _ => r

/-- A write at an offset of the block of queue q. A queue that is disabled holds no packet that was read for it. -/
def State.writeQueue (s : State) (pf : Bool) (q off : Nat) (v : Word) : State :=
  let t := s.modQueue q (·.write pf off v)
  if (t.queueRegs q).enable then t else (t.dropPacket q).cpUnpark 0 q

/-! ### The event queue, 09 Table 9-1 -/

/-- The state that an outcome leaves. -/
def Out.state (o : Out) (s : State) : State :=
  match o with
  | .next t => t
  | _ => s

/-- A write at an offset of the event block. -/
def State.writeEvent (s : State) (off : Nat) (v : Word) : State :=
  let r := s.evq
  let put (r : EventRegs) : State := { s with evq := r }
  match off with
  | 0x00 => if r.enable then s else put { r with eqbase := fieldAt v 0 57 &&& ~~~31#57 }
  | 0x08 => put { r with log2n := if r.enable then r.log2n else fieldAt v 0 4
                         vector := fieldAt v 4 11, ien := v.getLsbD 15, enable := v.getLsbD 16 }
  | 0x18 => put { r with eqrd := fieldAt v 0 16 }
  | 0x20 => if v.getLsbD 0 then (execReplay s).state s else s
  | 0x28 =>
    if v.getLsbD 63 then (execAbort (fieldAt v 0 16) (fieldAt v 16 41) s).state s
    else put { r with asid := fieldAt v 0 16, page := fieldAt v 16 41 }
  | 0x30 => if v.getLsbD 0 then put { r with eqovf := false } else s
  | 0x38 => put { r with djob := fieldAt v 0 56 }
  | 0x40 =>
    match (fieldAt v 16 2).toNat with
    | 1 => (execDispResume r.djob (fieldAt v 0 13) s).state s
    | 2 => (execDispKill r.djob (fieldAt v 0 13) s).state s
    | _ => put { r with dstrand := fieldAt v 0 13 }
  | _ => s

/-! ### The memory system, 14 Table 14-5 -/

/-- CGO: the operation that COP names; one that Table 14-3 does not list is refused. -/
def State.chartOp (s : State) (frame : BitVec 27) (cop : BitVec 4) : State :=
  let a := s.mem.regs.charg
  let o : Out := match cop.toNat with
    | 1 => execChartMap frame a s
    | 2 => execChartUnmap frame s
    | 3 => execChartPin frame s
    | 4 => execChartUnpin frame s
    | 5 => execChartRevoke frame s
    | 6 => execChartMove frame a s
    | 7 => execChartPool frame a s
    | 8 => execChartRead frame s
    | _ => .next (s.chartDone frame cop none 2#2)
  o.state s

/-- A write at an offset of the memory-system block. While PSTAT = 1 a PGO is ignored, and
a CGO while an UNMAP waits; CFRAME and COP are written then too (14 Table 14-5; log 18). -/
def State.writeMem (s : State) (off : Nat) (v : Word) : State :=
  let r := s.mem.regs
  let put (r : MemRegs) : State := { s with mem := { s.mem with regs := r } }
  match off with
  | 0x00 => put { r with ten := v.getLsbD 0, rootbase := if r.ten then r.rootbase else (fieldAt v 16 27).setWidth 43 <<< 16 }
  | 0x08 =>
    let t := put { r with iasid := fieldAt v 0 16, iall := v.getLsbD 16, ievery := v.getLsbD 17 }
    if v.getLsbD 63 then (execIgo t).state t else t
  | 0x10 => put { r with iva := (fieldAt v 16 41).setWidth 57 <<< 16 }
  | 0x18 => put { r with ipages := fieldAt v 0 32 }
  | 0x20 =>
    let t := put { r with pasid := fieldAt v 0 16, psize := v.getLsbD 16 }
    if v.getLsbD 63 && r.pstat != 1#3 then (execPgo t).state t else t
  | 0x28 => put { r with pva := (fieldAt v 16 41).setWidth 57 <<< 16 }
  | 0x30 => put { r with ptarget := (fieldAt v 16 27).setWidth 43 <<< 16 }
  | 0x38 =>
    if v.getLsbD 63 && s.mem.unmapping.isNone then s.chartOp (fieldAt v 0 27) (fieldAt v 28 4)
    else put { r with cframe := fieldAt v 0 27, cop := fieldAt v 28 4 }
  | 0x40 => put { r with charg := v &&& 0x000FFFFFFFFF0007#64 }
  | 0x48 =>
    let n : BitVec 16 := if fieldAt v 0 16 = 0#16 then 1#16 else fieldAt v 0 16
    put { r with interval := n, aen := v.getLsbD 16, migen := v.getLsbD 17, migmax := fieldAt v 24 8
                 attend := if n = r.interval then r.attend else s.dtime.toNat + 1000 * n.toNat }
  | 0x50 => if r.aen then s else put { r with attbase := fieldAt v 0 57 &&& ~~~15#57 }
  | 0x58 => if r.aen then s else put { r with attlog2n := fieldAt v 0 4 }
  | 0x68 => put { r with attrd := fieldAt v 0 16 }
  | 0x70 => if v.getLsbD 0 then put { r with attovf := false } else s
  | _ => s

/-! ### The fabric, 15 Table 15-2 -/

/-- PORTEN: a port that is disabled goes down. -/
def State.writePorten (s : State) (v : BitVec 16) : State :=
  (upto 16).foldl (fun s p => if !v.getLsbD p && s.fab.portup.getLsbD p then s.portDown p else s)
    { s with fab := { s.fab with porten := v } }

/-- A write at an offset of the fabric block. -/
def State.writeFab (s : State) (off : Nat) (v : Word) : State :=
  let r := s.fab
  let put (r : FabRegs) : State := { s with fab := r }
  match off with
  | 0x00 => (put { r with chip := fieldAt v 0 6, domain := fieldAt v 8 8 }).writePorten (fieldAt v 16 16)
  | 0x08 => put { r with collto := if fieldAt v 0 32 = 0#32 then 1#32 else fieldAt v 0 32 }
  | 0x10 => if r.recen then s else put { r with recbase0 := (fieldAt v 16 41).setWidth 57 <<< 16 }
  | 0x18 => if r.recen then s else put { r with recbase1 := (fieldAt v 16 41).setWidth 57 <<< 16 }
  | 0x20 => put { r with recsize := if r.recen then r.recsize else fieldAt v 0 32, recen := v.getLsbD 63 }
  | 0x28 => put { r with hdmbase := (fieldAt v 16 41).setWidth 57 <<< 16 }
  | _ =>
    if off < 0x100 || 0x500 ≤ off then s
    else
      let n := (off - 0x100) / 16
      let x : Session := mget {} s.sessions n
      let y : Session :=
        if off % 16 = 0 then
          { x with tenant := fieldAt v 0 16, group := fieldAt v 16 8, valid := v.getLsbD 24, total := fieldAt v 25 15 }
        else { x with chips := v }
      { s with sessions := mset {} s.sessions n y }

/-! ### The Timetable and the Bell, 17 Table 17-1 -/

/-- A write at an offset of a stream's block. While EN = 1 only EN acts. -/
def State.writeStream (s : State) (n off : Nat) (v : Word) : State :=
  let x := s.stream n
  if off = 0x10 then
    if x.en then (if v.getLsbD 2 then s else s.streamDisable n)
    else
      let t := s.modStream n fun x => { x with
        policy := fieldAt v 0 2, attach := v.getLsbD 3, cfgerr := x.cfgerr && !v.getLsbD 4, expect := fieldAt v 8 6 }
      if v.getLsbD 2 then (execStreamEnable (BitVec.ofNat 4 n) t).state t else t
  else if x.en then s
  else s.modStream n fun x => match off with
    | 0x00 => { x with period := fieldAt v 0 32, phase := fieldAt v 32 32 }
    | 0x08 => { x with lead := fieldAt v 0 32, grace := fieldAt v 32 32 }
    | 0x18 => { x with tape := fieldAt v 0 57 &&& ~~~63#57 }
    | 0x20 => { x with stepbase := fieldAt v 0 57 &&& ~~~63#57 }
    | 0x28 => { x with steplog2n := fieldAt v 0 4 }
    | _ => x

/-- A write at an offset of the Timetable's block. -/
def State.writeTt (s : State) (off : Nat) (v : Word) : State :=
  let r := s.tt
  let put (r : Timetable) : State := { s with tt := r }
  match off with
  | 0x00 =>
    let t := put { r with bell := v.getLsbD 1, mstream := fieldAt v 2 4, fen := v.getLsbD 6, fsched := fieldAt v 8 6 }
    let t := if r.bell != v.getLsbD 1 || r.mstream != fieldAt v 2 4 then t.rebase.retick s else t
    if v.getLsbD 0 then (execRun t).state t else t.runOff
  | 0x08 => if r.run then s else put { r with schbase := fieldAt v 0 57 &&& ~~~15#57 }
  | 0x10 => if r.run then s else put { r with pendva := fieldAt v 0 57 &&& ~~~63#57 }
  | 0x18 => if r.run then s else put { r with curva := fieldAt v 0 57 &&& ~~~63#57 }
  | 0x30 =>
    if r.clksrc = fieldAt v 0 2 then s
    else { s with slew := 0, tt := { r with clksrc := fieldAt v 0 2, locked := false } }
  | _ =>
    if 0x100 ≤ off && off < 0x300 then put { r with buckets := mset 0#37 r.buckets ((off - 0x100) / 8) (fieldAt v 0 37) }
    else if 0x400 ≤ off && off < 0x800 then s.writeStream ((off - 0x400) / 64) (off % 64) v
    else s

/-! ### The debug block, 09 Table 9-7 -/

/-- A write at an offset of function 1's BAR0: while GO = 1 only DREQ is written. -/
def State.writeDebug (s : State) (off : Nat) (v : Word) : State :=
  let r := s.dbg
  let put (r : DebugRegs) : State := { s with dbg := r }
  match off with
  | 0x08 => if r.go then s else put { r with djob := fieldAt v 0 56 }
  | 0x10 => if r.go then s else put { r with dstrand := fieldAt v 0 13 }
  | 0x18 =>
    let t := put { r with dreq := fieldAt v 0 3 }
    if r.go || !v.getLsbD 63 then t
    else
      let o : Out := match (fieldAt v 0 3).toNat with
        | 1 => execDebugStop r.djob r.dstrand t
        | 2 => execDebugRead r.djob r.dstrand t
        | 3 => execDebugWrite r.djob r.dstrand t
        | 4 => execDebugResume r.djob r.dstrand t
        | 5 => execDebugKill r.djob r.dstrand t
        | _ => .next (t.debugDone r.djob r.dstrand (fieldAt v 0 3) 3#2)
      o.state t
  | _ =>
    if 0x4000 ≤ off && off < 0xA000 && !r.go then
      put { r with slot := msetList 0#8 id r.slot (off - 0x4000) (leBytes 8 v.toNat) }
    else s

/-! ### A register write -/

/-- An aligned 64-bit write at an offset of BAR0 of function fn: 0 the PF, 1 the debug function, 1 + n virtual function n.
Where no register stands it has no effect. -/
def execRegisterWrite (fn : BitVec 7) (off : BitVec 20) (value : BitVec 64) (s : State) : Out :=
  let o := off.toNat
  let vf := fn.toNat - 1
  .next (
    if o % 8 != 0 then s
    else if fn = 1#7 then s.writeDebug o value
    else if 0x10000 ≤ o && o < 0x14000 then
      let q := (o - 0x10000) / 64
      if s.reaches vf q then s.writeQueue (vf = 0) q (o % 64) value else s
    else if vf != 0 then s
    else if 0x20000 ≤ o && o < 0x21000 then s.writeQueue true (256 + (o - 0x20000) / 64) (o % 64) value
    else if 0x30000 ≤ o && o < 0x30048 then s.writeEvent (o - 0x30000) value
    else if 0x40000 ≤ o && o < 0x40078 then s.writeMem (o - 0x40000) value
    else if 0x50000 ≤ o && o < 0x50500 then s.writeFab (o - 0x50000) value
    else if 0x60000 ≤ o && o < 0x60800 then s.writeTt (o - 0x60000) value
    else if 0x70000 ≤ o && o < 0x70800 then
      let q := (o - 0x70000) / 8
      if (s.queueRegs q).enable then s else { s with assign := mset 0#6 s.assign q (fieldAt value 0 6) }
    else s)

/-! ### SPDM -/

/-- SPDM_REQUEST, 15 R253, 09 R177: a session that is mutually authenticated for a tenant opens, or it ends. -/
def execSpdmRequest (tenant : BitVec 16) (open_ : Bool) (s : State) : Out :=
  .next (if s.power != .running then s
    else if open_ then { s with dbg := { s.dbg with unlocked := true, dtenant := tenant } }
    else { s with dbg := { s.dbg with unlocked := false } })

/-! ### Resets -/

/-- The frames that the tables below a table of a level map, by the first n of its entries. -/
def MemSys.framesFrom (m : MemSys) : Nat → Nat → List Nat
  | 0, table => (upto 8192).flatMap fun i => match m.dpaWord (table * 65536 + 8 * i) with
    | some e => if pteValid 0 e && !e.getLsbD 4 then [pteAddr e] else []
    | none => []
  | level + 1, table => (upto (if level = 2 then 4 else 8192)).flatMap fun i => match m.dpaWord (table * 65536 + 8 * i) with
    | some e =>
      if !pteValid (level + 1) e then []
      else if e.getLsbD 1 then (if e.getLsbD 4 then [] else (upto 8192).map (pteAddr e + ·))
      else m.framesFrom level (pteAddr e)
    | none => []

/-- The frames that an ASID's page tables map. -/
def MemSys.mappedFrames (m : MemSys) (asid : BitVec 16) : List Nat :=
  match m.dpaWord (m.regs.rootbase.toNat + 8 * asid.toNat) with
  | some e => if pteValid 4 e then m.framesFrom 3 (pteAddr e) else []
  | none => []

/-- The DPAs of the lines of the tables below a table of a level, its own among them. -/
def MemSys.linesFrom (m : MemSys) : Nat → Nat → List Nat
  | 0, table => (upto 1024).map fun i => table * 65536 + 64 * i
  | level + 1, table =>
    let n := if level = 2 then 4 else 8192
    (upto ((n + 7) / 8)).map (fun i => table * 65536 + 64 * i) ++ (upto n).flatMap fun i =>
      match m.dpaWord (table * 65536 + 8 * i) with
      | some e => if pteValid (level + 1) e && !e.getLsbD 1 then m.linesFrom level (pteAddr e) else []
      | none => []

/-- Those of an ASID's page tables, the root table's first. -/
def MemSys.mapLines (m : MemSys) (asid : BitVec 16) : List Nat :=
  let root := m.regs.rootbase.toNat + 8 * asid.toNat
  root :: match m.dpaWord root with
    | some e => if pteValid 4 e then m.linesFrom 3 (pteAddr e) else []
    | none => []

/-- A shared batch exists: the Timetable runs, or an iteration of it is in flight (17 R260; log 20). -/
def State.sharedBatch (s : State) : Bool := s.tt.run || s.tt.current.isSome || !s.tt.past.isEmpty

/-- The page tables of tenants that a shared batch resets have writes parked before their reads (14 R237). -/
def State.mapWaits (s : State) (ts : List (BitVec 16)) : Bool :=
  s.sharedBatch && !s.mem.parked.isEmpty && ts.any fun t => (s.mem.mapLines t).any s.dpaWaits

/-- A tenant's reset in a shared batch (17 R273): its mapped frames are revoked, and it joins the reset set. -/
def State.resetTenant (s : State) (t : BitVec 16) : State :=
  if !s.sharedBatch then s
  else
    let s := s.countLines (s.mem.mapLines t)
    let m := (s.mem.mappedFrames t).foldl (fun m f => if chState (m.entry f) = 0 then m else m.revoke f) s.mem
    { s with mem := m, tt := { s.tt with resetSet := if s.tt.resetSet.contains t then s.tt.resetSet else s.tt.resetSet ++ [t] } }

/-- An FLR ends a job whether or not it has started: its strands, Pending and saved ones too, are Exited (03 Table 3-1). -/
def State.cutJob (s : State) (seq code : Nat) : State :=
  ((s.modJob seq fun j => { j with started := true }).endJob seq code).modJob seq fun j =>
    { j with strands := j.strands.map fun x => if x.st = .lost then x else { x with st := .exited } }

/-- What a warm reset makes of an unfinished job: a re-run, or an end with NON_REPLAYABLE_PARTIAL; a replayable job that has
not started starts as before. -/
def State.warmJob (s : State) (j : Job) : Job :=
  let off := j.strands.map fun y => match y.st with
    | .resident _ | .saved => { y with st := .pending, saved := none, core := none }
    | _ => y
  if j.removed then { j with strands := off }
  else if !j.started then (if s.startable j then j else { j.fail 0x21 with started := true, removed := true })
  else if s.replayable j then { j with strands := off, rerun := true }
  else { j.fail 0x21 with strands := off, removed := true, rerun := false }

/-- A load in flight has been cancelled (11 R182). -/
def Stage.halted (t : Stage) : Stage := { t with loading := false }

/-- What a warm reset leaves of a core: its memories, its tables and its counts, and of the matrix engine its planes with their stages
and the MCFG word that a cold reset alone takes (11 R182, R199); nothing in flight (log 19). -/
def CoreSt.warm (c : CoreSt) : CoreSt :=
  { dict := c.dict, index := c.index, images := c.images.filter fun x => x.1 < 2 ^ 90, sp := c.sp, tags := c.tags, packed := c.packed.filter (·.open_.isNone)
    progs := c.progs, plane0 := c.plane0, plane1 := c.plane1, swapped := c.swapped, stageA := c.stageA.halted
    stageS := c.stageS.halted, mcfg := c.mcfg, mcfgSet := c.mcfgSet, retires := c.retires, failed := c.failed, ucycle := c.ucycle
    cycle := c.cycle, offline := c.offline }

/-- The reset itself. A job that has finished, and whose completion record is still owed, keeps its status; an entry numbered above
the highest number assigned is torn and discarded (15 R251). The two copies of an entry are written in one step, with one DTIME:
the later is either of them (log 15). -/
def State.warm (s : State) : State :=
  let finished := (s.jobs.filter s.mayComplete).map (·.seq)
  let s := { s with ops := [], reqs := [], mem := { s.mem with parked := [] } }
  let s := (s.jobs.filter fun j => !j.completed).foldl (fun s j => s.closeHeads j.seq j.tenant) s
  let s := { s with
    ctxs := [], ops := [], nets := [], issue := {}, cpParked := [], reqs := [], packets := []
    cores := s.cores.foldl (fun m (x : Nat × CoreSt) => mset {} m x.1 x.2.warm) []
    mem := { s.mem with tlb := [], faults := [], invalidating := [] }
    dbg := { s.dbg with go := false, waits := 0#3, dres := if s.dbg.go then 3#2 else s.dbg.dres } }
  { s with jobs := (s.jobs.filter fun (j : Job) => decide (j.seq < s.nextSeq)).map fun (j : Job) =>
      if j.completed then j else if finished.contains j.seq then { j with removed := true } else s.warmJob j }

/-- WARM_RESET, 15 R251: memory, the launch record and the registers stay; unfinished jobs are re-run or completed. -/
def execWarmReset (s : State) : Out := .next s.warm

/-- The debug session of a tenant whose function is reset ends (09 R177). -/
def State.lockDebug (s : State) (ts : List (BitVec 16)) : State :=
  if ts.contains s.dbg.dtenant then { s with dbg := { s.dbg with unlocked := false } } else s

/-- The queues of virtual function vf. -/
def State.queuesOf (s : State) (vf : BitVec 6) : List Nat :=
  (s.queues.map (·.1)).filter fun q => q < 256 && mget 0#6 s.assign q == vf

/-- The tenants of virtual function vf. -/
def State.tenantsOf (s : State) (vf : BitVec 6) : List (BitVec 16) := ((s.queuesOf vf).map fun q => (s.queueRegs q).tenant).eraseDups

/-- A job is inside a shared batch: the Timetable launched it, or a job inside one did, to a depth. -/
def State.inBatch (s : State) : Nat → Job → Bool
  | 0, j => j.iter.isSome
  | d + 1, j => j.iter.isSome || (match j.parent.bind fun i => findJob i.seq s.jobs with
    | some p => s.inBatch d p
    | none => false)

/-- The unfinished jobs of some tenants that are not inside a shared batch. -/
def State.ownJobs (s : State) (ts : List (BitVec 16)) : List Nat :=
  (s.jobs.filter fun j => ts.contains j.tenant && !s.inBatch 16 j && !j.completed).map (·.seq)

/-- FUNCTION_LEVEL_RESET of virtual function vf, 15 R246, 17 R273: admission from its queues stops; its tenant's jobs end; and
once their records are written, a step of its own clears ENABLE. It waits while page tables that it reads wait behind a migration.
That of the PF is a warm reset. -/
def execFunctionLevelReset (vf : BitVec 6) (s : State) : Out :=
  let qs := s.queuesOf vf
  let ts := s.tenantsOf vf
  .next (if vf = 0#6 then s.warm.lockDebug [pfAsid]
    else if s.flrs.contains vf then
      if (s.ownJobs ts).isEmpty then
        qs.foldl (fun s q => ((s.dropPacket q).cpUnpark 0 q).modQueue q fun r => { r with enable := false, stopped := false }) { s with flrs := s.flrs.erase vf }
      else (s.ownJobs ts).foldl (fun s q => s.cutJob q 0x22) s
    else if s.mapWaits ts then { s with inputs := s.inputs ++ [.functionLevelReset vf] }
    else
      let s := qs.foldl (fun s q => s.modQueue q fun r => { r with stopped := true }) s
      let s := (s.ownJobs ts).foldl (fun s q => s.cutJob q 0x22) s
      let s := (ts.foldl (fun s t => s.resetTenant t) s).lockDebug ts
      { s with flrs := s.flrs ++ [vf] })

/-- The virtual functions whose FLR goes on: their jobs' records are written, or a child has been admitted meanwhile. -/
def State.flrMoves (s : State) : List Instr :=
  (s.flrs.filter fun vf =>
    let l := s.ownJobs (s.tenantsOf vf)
    l.isEmpty || l.any fun q => match findJob q s.jobs with | some j => !j.removed | none => false).map .functionLevelReset

/-- What lies outside the part and what its fuses hold: the host's memory, what the host has been told, what it will do, and the
model's own order of moves. Everything else is as after a cold reset. -/
def State.fresh0 (s : State) (p : Power) : State :=
  { State.reset with
    power := p, fuses := s.fuses, signals := s.signals, inputs := s.inputs, tick := s.tick
    mem := { State.reset.mem with bytes := s.mem.bytes.filter fun x => 2 ^ 52 ≤ x.1, bad := s.mem.bad.filter fun x => 2 ^ 46 ≤ x.1 } }

/-- An image passes its check: its key is the fuses', its signature verifies, and its sequence number is not below the minimum
(15 R253). -/
def Fuses.accept (f : Fuses) (x : Firmware) : Bool := x.keyHash == f.keyHash && x.verifies && f.minSeq ≤ x.seq

/-- COLD_RESET, 15 R253: each stage of the boot chain is checked; a failed check holds the part in reset. -/
def execColdReset (stages : List Firmware) (s : State) : Out :=
  .next (s.fresh0 (if stages.all s.fuses.accept then .running else .heldInReset))

/-- POWER_LOSS, 15 R251, R254. -/
def execPowerLoss (s : State) : Out := .next (s.fresh0 .off)

end Sys2Proof.Machine
end

