-- ==== Sys2Proof/Machine/Dispatch.lean ====
section
/-! DEFINITION. exec: one arm for each row of spec/opcode_table.json, each one call of that instruction's meaning. -/

namespace Sys2Proof.Machine

/-- The effect of one instruction or step. -/
def exec (i : Instr) (s : State) : Host.Outcome State Fault Refusal :=
  match i with
  | .bundleFetch x1 => Sys2Proof.Machine.execBundleFetch x1 s
  | .mergeCycle x1 => Sys2Proof.Machine.execMergeCycle x1 s
  | .resultWriteback x1 => Sys2Proof.Machine.execResultWriteback x1 s
  | .owedTrapTaken x1 => Sys2Proof.Machine.execOwedTrapTaken x1 s
  | .lateMemory x1 => Sys2Proof.Machine.execLateMemory x1 s
  | .add x1 x2 x3 => Sys2Proof.Machine.execAdd x1 x2 x3 s
  | .addi x1 x2 x3 => Sys2Proof.Machine.execAddi x1 x2 x3 s
  | .and x1 x2 x3 => Sys2Proof.Machine.execAnd x1 x2 x3 s
  | .andi x1 x2 x3 => Sys2Proof.Machine.execAndi x1 x2 x3 s
  | .andn x1 x2 x3 => Sys2Proof.Machine.execAndn x1 x2 x3 s
  | .barArrive x1 x2 => Sys2Proof.Machine.execBarArrive x1 x2 s
  | .barWait x1 x2 => Sys2Proof.Machine.execBarWait x1 x2 s
  | .barSync x1 x2 => Sys2Proof.Machine.execBarSync x1 x2 s
  | .br x1 x2 x3 => Sys2Proof.Machine.execBr x1 x2 x3 s
  | .bwaitWait x1 x2 x3 => Sys2Proof.Machine.execBwaitWait x1 x2 x3 s
  | .bwaitTest x1 x2 x3 => Sys2Proof.Machine.execBwaitTest x1 x2 x3 s
  | .call x1 => Sys2Proof.Machine.execCall x1 s
  | .clz x1 x2 => Sys2Proof.Machine.execClz x1 x2 s
  | .cmp x1 x2 x3 x4 => Sys2Proof.Machine.execCmp x1 x2 x3 x4 s
  | .cmpi x1 x2 x3 x4 => Sys2Proof.Machine.execCmpi x1 x2 x3 x4 s
  | .div x1 x2 x3 => Sys2Proof.Machine.execDiv x1 x2 x3 s
  | .exit => Sys2Proof.Machine.execExit s
  | .ifenceWait => Sys2Proof.Machine.execIfenceWait s
  | .ifenceLoad x1 x2 => Sys2Proof.Machine.execIfenceLoad x1 x2 s
  | .ifenceEnter x1 x2 => Sys2Proof.Machine.execIfenceEnter x1 x2 s
  | .jmp x1 x2 => Sys2Proof.Machine.execJmp x1 x2 s
  | .launch x1 x2 x3 => Sys2Proof.Machine.execLaunch x1 x2 x3 s
  | .li x1 x2 => Sys2Proof.Machine.execLi x1 x2 s
  | .loop x1 x2 x3 => Sys2Proof.Machine.execLoop x1 x2 x3 s
  | .max x1 x2 x3 => Sys2Proof.Machine.execMax x1 x2 x3 s
  | .mfsr x1 x2 => Sys2Proof.Machine.execMfsr x1 x2 s
  | .min x1 x2 x3 => Sys2Proof.Machine.execMin x1 x2 x3 s
  | .mov x1 x2 => Sys2Proof.Machine.execMov x1 x2 s
  | .mtsr x1 x2 => Sys2Proof.Machine.execMtsr x1 x2 s
  | .mul x1 x2 x3 => Sys2Proof.Machine.execMul x1 x2 x3 s
  | .mulh x1 x2 x3 => Sys2Proof.Machine.execMulh x1 x2 x3 s
  | .or x1 x2 x3 => Sys2Proof.Machine.execOr x1 x2 x3 s
  | .ori x1 x2 x3 => Sys2Proof.Machine.execOri x1 x2 x3 s
  | .popc x1 x2 => Sys2Proof.Machine.execPopc x1 x2 s
  | .ret x1 => Sys2Proof.Machine.execRet x1 s
  | .rtt => Sys2Proof.Machine.execRtt s
  | .sar x1 x2 x3 => Sys2Proof.Machine.execSar x1 x2 x3 s
  | .sarImm x1 x2 x3 => Sys2Proof.Machine.execSarImm x1 x2 x3 s
  | .sel x1 x2 x3 x4 => Sys2Proof.Machine.execSel x1 x2 x3 x4 s
  | .settle x1 x2 x3 => Sys2Proof.Machine.execSettle x1 x2 x3 s
  | .shl x1 x2 x3 => Sys2Proof.Machine.execShl x1 x2 x3 s
  | .shlImm x1 x2 x3 => Sys2Proof.Machine.execShlImm x1 x2 x3 s
  | .shr x1 x2 x3 => Sys2Proof.Machine.execShr x1 x2 x3 s
  | .shrImm x1 x2 x3 => Sys2Proof.Machine.execShrImm x1 x2 x3 s
  | .sub x1 x2 x3 => Sys2Proof.Machine.execSub x1 x2 x3 s
  | .trap x1 => Sys2Proof.Machine.execTrap x1 s
  | .trigger => Sys2Proof.Machine.execTrigger s
  | .ttnext x1 => Sys2Proof.Machine.execTtnext x1 s
  | .xor x1 x2 x3 => Sys2Proof.Machine.execXor x1 x2 x3 s
  | .xori x1 x2 x3 => Sys2Proof.Machine.execXori x1 x2 x3 s
  | .vabs x1 => Sys2Proof.Machine.execVabs x1 s
  | .vadd x1 => Sys2Proof.Machine.execVadd x1 s
  | .vand x1 => Sys2Proof.Machine.execVand x1 s
  | .vclz x1 => Sys2Proof.Machine.execVclz x1 s
  | .vcmp x1 => Sys2Proof.Machine.execVcmp x1 s
  | .vcvt x1 => Sys2Proof.Machine.execVcvt x1 s
  | .vdiv x1 => Sys2Proof.Machine.execVdiv x1 s
  | .vexp2 x1 => Sys2Proof.Machine.execVexp2 x1 s
  | .vext x1 x2 x3 x4 x5 x6 => Sys2Proof.Machine.execVext x1 x2 x3 x4 x5 x6 s
  | .vfma x1 => Sys2Proof.Machine.execVfma x1 s
  | .vidx x1 => Sys2Proof.Machine.execVidx x1 s
  | .vlog2 x1 => Sys2Proof.Machine.execVlog2 x1 s
  | .vmask x1 x2 => Sys2Proof.Machine.execVmask x1 x2 s
  | .vmaskWrite x1 => Sys2Proof.Machine.execVmaskWrite x1 s
  | .vmax x1 => Sys2Proof.Machine.execVmax x1 s
  | .vmin x1 => Sys2Proof.Machine.execVmin x1 s
  | .vmov x1 => Sys2Proof.Machine.execVmov x1 s
  | .vmul x1 => Sys2Proof.Machine.execVmul x1 s
  | .vneg x1 => Sys2Proof.Machine.execVneg x1 s
  | .vnot x1 => Sys2Proof.Machine.execVnot x1 s
  | .vor x1 => Sys2Proof.Machine.execVor x1 s
  | .vord x1 => Sys2Proof.Machine.execVord x1 s
  | .vperm x1 => Sys2Proof.Machine.execVperm x1 s
  | .vpop x1 x2 x3 x4 => Sys2Proof.Machine.execVpop x1 x2 x3 x4 s
  | .vredadd x1 => Sys2Proof.Machine.execVredadd x1 s
  | .vredmax x1 => Sys2Proof.Machine.execVredmax x1 s
  | .vredmin x1 => Sys2Proof.Machine.execVredmin x1 s
  | .vrng x1 x2 x3 x4 => Sys2Proof.Machine.execVrng x1 x2 x3 x4 s
  | .vsar x1 => Sys2Proof.Machine.execVsar x1 s
  | .vscan x1 => Sys2Proof.Machine.execVscan x1 s
  | .vsel x1 => Sys2Proof.Machine.execVsel x1 s
  | .vshl x1 => Sys2Proof.Machine.execVshl x1 s
  | .vshr x1 => Sys2Proof.Machine.execVshr x1 s
  | .vsqrt x1 => Sys2Proof.Machine.execVsqrt x1 s
  | .vsub x1 => Sys2Proof.Machine.execVsub x1 s
  | .vxor x1 => Sys2Proof.Machine.execVxor x1 s
  | .xmov x1 => Sys2Proof.Machine.execXmov x1 s
  | .fill x1 => Sys2Proof.Machine.execFill x1 s
  | .sld x1 x2 x3 x4 => Sys2Proof.Machine.execSld x1 x2 x3 x4 s
  | .sst x1 x2 x3 x4 => Sys2Proof.Machine.execSst x1 x2 x3 x4 s
  | .taglu x1 x2 => Sys2Proof.Machine.execTaglu x1 x2 s
  | .tagset x1 x2 => Sys2Proof.Machine.execTagset x1 x2 s
  | .vld x1 x2 x3 => Sys2Proof.Machine.execVld x1 x2 x3 s
  | .vldx x1 x2 x3 x4 => Sys2Proof.Machine.execVldx x1 x2 x3 x4 s
  | .vst x1 x2 x3 => Sys2Proof.Machine.execVst x1 x2 x3 s
  | .vstq x1 x2 x3 => Sys2Proof.Machine.execVstq x1 x2 x3 s
  | .vstx x1 x2 x3 x4 => Sys2Proof.Machine.execVstx x1 x2 x3 x4 s
  | .xform x1 x2 x3 x4 => Sys2Proof.Machine.execXform x1 x2 x3 x4 s
  | .dpload x1 x2 x3 => Sys2Proof.Machine.execDpload x1 x2 x3 s
  | .mcfg x1 => Sys2Proof.Machine.execMcfg x1 s
  | .mldb x1 x2 => Sys2Proof.Machine.execMldb x1 x2 s
  | .mldh x1 => Sys2Proof.Machine.execMldh x1 s
  | .mmac x1 => Sys2Proof.Machine.execMmac x1 s
  | .mret x1 x2 x3 => Sys2Proof.Machine.execMret x1 x2 x3 s
  | .mspc x1 => Sys2Proof.Machine.execMspc x1 s
  | .mswap => Sys2Proof.Machine.execMswap s
  | .atom x1 => Sys2Proof.Machine.execAtom x1 s
  | .coll x1 => Sys2Proof.Machine.execColl x1 s
  | .hback x1 x2 => Sys2Proof.Machine.execHback x1 x2 s
  | .hclose x1 => Sys2Proof.Machine.execHclose x1 s
  | .hmark x1 x2 => Sys2Proof.Machine.execHmark x1 x2 s
  | .hopen x1 x2 x3 x4 => Sys2Proof.Machine.execHopen x1 x2 x3 x4 s
  | .hpos x1 x2 => Sys2Proof.Machine.execHpos x1 x2 s
  | .hread x1 x2 x3 x4 x5 x6 x7 x8 x9 => Sys2Proof.Machine.execHread x1 x2 x3 x4 x5 x6 x7 x8 x9 s
  | .hrewind x1 x2 => Sys2Proof.Machine.execHrewind x1 x2 s
  | .hskip x1 x2 => Sys2Proof.Machine.execHskip x1 x2 s
  | .hwrite x1 x2 x3 x4 x5 x6 x7 x8 x9 => Sys2Proof.Machine.execHwrite x1 x2 x3 x4 x5 x6 x7 x8 x9 s
  | .qsend x1 x2 x3 x4 => Sys2Proof.Machine.execQsend x1 x2 x3 x4 s
  | .tbarrive x1 => Sys2Proof.Machine.execTbarrive x1 s
  | .tbexpect x1 x2 => Sys2Proof.Machine.execTbexpect x1 x2 s
  | .tbinit x1 x2 => Sys2Proof.Machine.execTbinit x1 x2 s
  | .tbwait x1 x2 => Sys2Proof.Machine.execTbwait x1 x2 s
  | .xfer x1 => Sys2Proof.Machine.execXfer x1 s
  | .dadd x1 => Sys2Proof.Machine.execDadd x1 s
  | .dcvt x1 => Sys2Proof.Machine.execDcvt x1 s
  | .dend => Sys2Proof.Machine.execDend s
  | .dexp2 x1 => Sys2Proof.Machine.execDexp2 x1 s
  | .dfma x1 => Sys2Proof.Machine.execDfma x1 s
  | .dmax x1 => Sys2Proof.Machine.execDmax x1 s
  | .dmin x1 => Sys2Proof.Machine.execDmin x1 s
  | .dmul x1 => Sys2Proof.Machine.execDmul x1 s
  | .dpush x1 x2 => Sys2Proof.Machine.execDpush x1 x2 s
  | .dqnt x1 => Sys2Proof.Machine.execDqnt x1 s
  | .drcp x1 => Sys2Proof.Machine.execDrcp x1 s
  | .dsto x1 x2 x3 x4 => Sys2Proof.Machine.execDsto x1 x2 x3 x4 s
  | .dploadImageCheck x1 => Sys2Proof.Machine.execDploadImageCheck x1 s
  | .headDescriptorRead x1 => Sys2Proof.Machine.execHeadDescriptorRead x1 s
  | .ecountReread x1 x2 => Sys2Proof.Machine.execEcountReread x1 x2 s
  | .headBlockFetch x1 x2 => Sys2Proof.Machine.execHeadBlockFetch x1 x2 s
  | .headDelivery x1 => Sys2Proof.Machine.execHeadDelivery x1 s
  | .headWritePerform x1 => Sys2Proof.Machine.execHeadWritePerform x1 s
  | .hposComplete x1 => Sys2Proof.Machine.execHposComplete x1 s
  | .headCloseComplete x1 => Sys2Proof.Machine.execHeadCloseComplete x1 s
  | .xferGranule x1 => Sys2Proof.Machine.execXferGranule x1 s
  | .xferComplete x1 => Sys2Proof.Machine.execXferComplete x1 s
  | .tbCredit x1 => Sys2Proof.Machine.execTbCredit x1 s
  | .tbarrivePerform x1 => Sys2Proof.Machine.execTbarrivePerform x1 s
  | .tbexpectPerform x1 => Sys2Proof.Machine.execTbexpectPerform x1 s
  | .qsendWrite x1 => Sys2Proof.Machine.execQsendWrite x1 s
  | .remoteAccessPerform x1 => Sys2Proof.Machine.execRemoteAccessPerform x1 s
  | .atomPerform x1 => Sys2Proof.Machine.execAtomPerform x1 s
  | .xformComplete x1 => Sys2Proof.Machine.execXformComplete x1 s
  | .settleComplete x1 => Sys2Proof.Machine.execSettleComplete x1 s
  | .triggerRelease x1 => Sys2Proof.Machine.execTriggerRelease x1 s
  | .launchPacketWrite x1 => Sys2Proof.Machine.execLaunchPacketWrite x1 s
  | .ttnextReply x1 => Sys2Proof.Machine.execTtnextReply x1 s
  | .barrierPhaseComplete x1 x2 => Sys2Proof.Machine.execBarrierPhaseComplete x1 x2 s
  | .mldbComplete x1 => Sys2Proof.Machine.execMldbComplete x1 s
  | .mldhComplete x1 => Sys2Proof.Machine.execMldhComplete x1 s
  | .mmacRowFetch x1 => Sys2Proof.Machine.execMmacRowFetch x1 s
  | .mmacLastWrite x1 => Sys2Proof.Machine.execMmacLastWrite x1 s
  | .mmacDropped x1 => Sys2Proof.Machine.execMmacDropped x1 s
  | .forcedRetirement x1 x2 => Sys2Proof.Machine.execForcedRetirement x1 x2 s
  | .drainUnit x1 => Sys2Proof.Machine.execDrainUnit x1 s
  | .drainQueueTimeout x1 => Sys2Proof.Machine.execDrainQueueTimeout x1 s
  | .drainComplete x1 => Sys2Proof.Machine.execDrainComplete x1 s
  | .slabFailure x1 x2 => Sys2Proof.Machine.execSlabFailure x1 x2 s
  | .floorThrottle x1 x2 x3 => Sys2Proof.Machine.execFloorThrottle x1 x2 x3 s
  | .thermalShutdown => Sys2Proof.Machine.execThermalShutdown s
  | .preempt x1 x2 => Sys2Proof.Machine.execPreempt x1 x2 s
  | .strandSave x1 => Sys2Proof.Machine.execStrandSave x1 s
  | .strandRestore x1 x2 => Sys2Proof.Machine.execStrandRestore x1 x2 s
  | .pendingResultToSlot x1 => Sys2Proof.Machine.execPendingResultToSlot x1 s
  | .stateMachineCheck x1 => Sys2Proof.Machine.execStateMachineCheck x1 s
  | .jobAdmission => Sys2Proof.Machine.execJobAdmission s
  | .strandPlacement => Sys2Proof.Machine.execStrandPlacement s
  | .jobStart x1 => Sys2Proof.Machine.execJobStart x1 s
  | .jobCompletion x1 => Sys2Proof.Machine.execJobCompletion x1 s
  | .jobRerun x1 => Sys2Proof.Machine.execJobRerun x1 s
  | .memoryRequest x1 => Sys2Proof.Machine.execMemoryRequest x1 s
  | .migrationFlip x1 x2 => Sys2Proof.Machine.execMigrationFlip x1 x2 s
  | .attendanceIntervalEnd => Sys2Proof.Machine.execAttendanceIntervalEnd s
  | .sqwr x1 x2 x3 => Sys2Proof.Machine.execSqwr x1 x2 x3 s
  | .cqrd x1 x2 x3 => Sys2Proof.Machine.execCqrd x1 x2 x3 s
  | .replay => Sys2Proof.Machine.execReplay s
  | .abort x1 x2 => Sys2Proof.Machine.execAbort x1 x2 s
  | .dispResume x1 x2 => Sys2Proof.Machine.execDispResume x1 x2 s
  | .dispKill x1 x2 => Sys2Proof.Machine.execDispKill x1 x2 s
  | .igo => Sys2Proof.Machine.execIgo s
  | .pgo => Sys2Proof.Machine.execPgo s
  | .chartMap x1 x2 => Sys2Proof.Machine.execChartMap x1 x2 s
  | .chartUnmap x1 => Sys2Proof.Machine.execChartUnmap x1 s
  | .chartPin x1 => Sys2Proof.Machine.execChartPin x1 s
  | .chartUnpin x1 => Sys2Proof.Machine.execChartUnpin x1 s
  | .chartRevoke x1 => Sys2Proof.Machine.execChartRevoke x1 s
  | .chartMove x1 x2 => Sys2Proof.Machine.execChartMove x1 x2 s
  | .chartPool x1 x2 => Sys2Proof.Machine.execChartPool x1 x2 s
  | .chartRead x1 => Sys2Proof.Machine.execChartRead x1 s
  | .run => Sys2Proof.Machine.execRun s
  | .streamEnable x1 => Sys2Proof.Machine.execStreamEnable x1 s
  | .debugStop x1 x2 => Sys2Proof.Machine.execDebugStop x1 x2 s
  | .debugRead x1 x2 => Sys2Proof.Machine.execDebugRead x1 x2 s
  | .debugWrite x1 x2 => Sys2Proof.Machine.execDebugWrite x1 x2 s
  | .debugResume x1 x2 => Sys2Proof.Machine.execDebugResume x1 x2 s
  | .debugKill x1 x2 => Sys2Proof.Machine.execDebugKill x1 x2 s
  | .registerWrite x1 x2 x3 => Sys2Proof.Machine.execRegisterWrite x1 x2 x3 s
  | .spdmRequest x1 x2 => Sys2Proof.Machine.execSpdmRequest x1 x2 s
  | .timetableTrigger => Sys2Proof.Machine.execTimetableTrigger s
  | .iterationBoundary => Sys2Proof.Machine.execIterationBoundary s
  | .bellTick x1 => Sys2Proof.Machine.execBellTick x1 s
  | .bellGraceExpiry x1 => Sys2Proof.Machine.execBellGraceExpiry x1 s
  | .dtimeCorrection x1 => Sys2Proof.Machine.execDtimeCorrection x1 s
  | .collBegin x1 => Sys2Proof.Machine.execCollBegin x1 s
  | .collComplete x1 => Sys2Proof.Machine.execCollComplete x1 s
  | .collAbort x1 x2 x3 => Sys2Proof.Machine.execCollAbort x1 x2 x3 s
  | .colltoExpiry x1 => Sys2Proof.Machine.execColltoExpiry x1 s
  | .portDown x1 => Sys2Proof.Machine.execPortDown x1 s
  | .linkRetry x1 => Sys2Proof.Machine.execLinkRetry x1 s
  | .hostMemoryAccess x1 x2 => Sys2Proof.Machine.execHostMemoryAccess x1 x2 s
  | .functionLevelReset x1 => Sys2Proof.Machine.execFunctionLevelReset x1 s
  | .warmReset => Sys2Proof.Machine.execWarmReset s
  | .coldReset x1 => Sys2Proof.Machine.execColdReset x1 s
  | .ifenceLoadComplete x1 => Sys2Proof.Machine.execIfenceLoadComplete x1 s
  | .memoryStackOffline x1 => Sys2Proof.Machine.execMemoryStackOffline x1 s
  | .scrubberPoison x1 x2 x3 => Sys2Proof.Machine.execScrubberPoison x1 x2 x3 s
  | .uncorrectableMediaError x1 => Sys2Proof.Machine.execUncorrectableMediaError x1 s
  | .portUp x1 => Sys2Proof.Machine.execPortUp x1 s
  | .throttleLifted x1 x2 x3 => Sys2Proof.Machine.execThrottleLifted x1 x2 x3 s
  | .refreshWindowEnd x1 => Sys2Proof.Machine.execRefreshWindowEnd x1 s
  | .powerLoss => Sys2Proof.Machine.execPowerLoss s

end Sys2Proof.Machine
end

