-- ==== Sys2Proof/Machine/Moves.lean ====
section
/-! DEFINITION. What may come next in the machine (log 2): the moves of the engines, of the command processor, of the memory
system, of the Timetable and the Bell, of the cores, and of the world outside; and what follows each of them: the clocks, the
commands without a performed effect, and the event queue (09 R169). -/

namespace Sys2Proof.Machine

/-- A move: a step of the opcode table; the next micro-operation of the drain pipe of a core; the first of the inputs; or a
cycle in which no core has anything to do. -/
inductive Turn where
  | step (i : Instr)
  | micro (core : Nat)
  | input (i : Instr)
  | idle
deriving DecidableEq, Repr

/-! ### Operations -/

/-- The core stands still: for a bank conflict (06 R109) or in a memory freeze (09 R167). -/
def State.frozen (s : State) (k : Nat) : Bool := (s.core k).freeze != 0 || !(s.freezing k).isEmpty

/-- A job's group has, or may have, members on other chips: it is of scope FAB, and no session of this chip alone is its (15
R242). -/
def State.abroad (s : State) (seq g : Nat) : Bool :=
  match findJob seq s.jobs, s.jobGroup seq g with
  | some j, some x => x.scope == 7 && ((s.session j.tenant g).isNone || (s.otherChips j.tenant g x).isSome)
  | _, _ => false

/-- A head works on a command in the cycles after the one in which it accepted it: the fetch of a command's block starts at
its acceptance, and the bundle of the next cycle issues before anything of it has arrived (10 R181). -/
def State.mayDeliver (s : State) (o : Op) : Bool := o.since < Nat.max (s.core o.core).cycle s.cclk

/-- What an outstanding operation may do next; its own step does nothing where a scoreboard or a moving frame still holds it
back. DESIGN CHOICE (log 2): an MLDB's deliveries go on and complete in a frozen core, whose floors are gated (02 R32, 09 Table
9-2). -/
def State.opMoves (s : State) (o : Op) : List Instr :=
  let n := o.id
  let k := o.core
  let front (h : Nat) (i : Instr) : List Instr := if s.headFront o h && s.mayDeliver o then [i] else []
  let ready (i : Instr) : List Instr := if s.ready o then [i] else []
  match o.kind with
  | .hopen .. => ready (.headDescriptorRead n)
  | .hread h .. => front h (.headDelivery n)
  | .mldb h _ m _ => front h (if o.prog = m then .mldbComplete n else .headDelivery n)
  | .hwrite h .. => front h (.headWritePerform n)
  | .hpos h _ => front h (.hposComplete n)
  | .hskip h _ _ => front h (.headBlockFetch (BitVec.ofNat 7 k) (BitVec.ofNat 4 h))
  | .hmove _ | .mswap => []
  | .hclose h => front h (.headCloseComplete n)
  | .xfer _ _ _ m _ _ _ _ => if o.prog < m then ready (.xferGranule n) else ready (.xferComplete n)
  | .credit .. => ready (.tbCredit n)
  | .tbarrive _ => ready (.tbarrivePerform n)
  | .tbexpect .. => ready (.tbexpectPerform n)
  | .qsend .. => ready (.qsendWrite n)
  | .rload .. | .rstore .. => ready (.remoteAccessPerform n)
  | .atom .. => ready (.atomPerform n)
  | .xform .. => ready (.xformComplete n)
  | .settle sc kd _ => if s.peerWaits o.owner sc kd n then [] else ready (.settleComplete n)
  | .trigger _ => ready (.triggerRelease n)
  | .launch _ _ _ _ _ none => ready (.launchPacketWrite n)
  | .launch _ _ _ _ _ (some _) => []
  | .ttnext => ready (.ttnextReply n)
  | .ifenceLoad _ => ready (.ifenceLoadComplete n)
  | .coll g _ _ _ _ _ _ _ none =>
    (match s.collEnded o.owner.seq g o.prog with
      | some (reason, rank) => [.collAbort n (BitVec.ofNat 4 reason) (BitVec.ofNat 15 rank)]
      | none => [])
    ++ (if s.abroad o.owner.seq g then [] else ready (.collBegin n)) ++ (if s.collExpired o then [.colltoExpiry n] else [])
  | .coll _ _ _ _ _ _ _ _ (some _) => [.collComplete n]
  | .dpload .. => if s.frozen k then [] else ready (.dploadImageCheck n)
  | .mldh .. => if s.frozen k then [] else ready (.mldhComplete n)
  | .mmac m =>
    if s.mmacLost o m then [.mmacDropped n]
    else if s.frozen k then []
    else if o.prog = m.rows then (if s.engineRuns o.owner then [.mmacLastWrite n] else [])
    else if s.mayFetchRow o m then [.mmacRowFetch n] else []
  | .drain d =>
    if s.unretired o then (if s.mayRetire o && !s.frozen k then [.drainUnit n] else [])
    else if !s.ready o || d.stopped || !s.drainTurn o || s.frozen k then []
    else if 8 * d.rmax ≤ o.prog then [.drainComplete n]
    else match (s.core k).pipe with
      | none => [.drainUnit n]
      | some p => if !p.done then [] else if 1024 ≤ p.waited then [.drainUnit n, .drainQueueTimeout n] else [.drainUnit n]
  | .result _ | .noResult => [.pendingResultToSlot n]

/-- A command that has no performed effect and whose turn has come: a movement at the front of its head's queue, and an MSWAP
(21 Table 21-3, 11 R190). -/
def State.spent (s : State) (o : Op) : Bool :=
  match o.kind with
  | .hmove h => s.headFront o h
  | .mswap => s.performed o.waits
  | _ => false

/-! ### Cores -/

/-- The cores that have anything to count: a bound context, a drain that waits for queue entries, or a bank conflict. -/
def State.activeCores (s : State) : List Nat :=
  ((s.ctxs.filter fun x => x.2.strand.isSome).map (coreOf ·.1)
    ++ (s.cores.filter fun x => x.2.freeze != 0 || match x.2.pipe with | some p => p.done | none => false).map (·.1)).eraseDups

/-- The steps of a core's heads, barriers and reductions. -/
def State.coreMoves (s : State) (k : Nat) (c : CoreSt) : List Instr :=
  (c.heads.flatMap fun (h, x) =>
    (if x.reread = 1 && s.mayReread k h then [.ecountReread (BitVec.ofNat 7 k) (BitVec.ofNat 4 h)] else [])
    ++ (if x.mode != 0 && (s.prefetch k h).isSome then [.headBlockFetch (BitVec.ofNat 7 k) (BitVec.ofNat 4 h)] else []))
  ++ (c.bars.filterMap fun (b, job, g) =>
    if !s.abroad job g && s.phaseReady (s.net b job g) then some (.barrierPhaseComplete (BitVec.ofNat 7 k) (BitVec.ofNat 7 b)) else none)
  ++ ([false, true].filterMap fun a => match (c.set a).reds.find? fun r => !r.closed with
    | some r => match s.ctxOf r.owner with
      | some x => if (s.ctx x).sr.redlim.toNat ≤ r.elapsed && !s.frozen k then some (.forcedRetirement (BitVec.ofNat 7 k) a) else none
      | none => none
    | none => none)

/-- The micro-operation that the drain pipe of core k runs next: its word, decoded (12 R211). A code of 16 words without DEND
is not loaded (R209). -/
def State.microOf (s : State) (k : Nat) : Option Instr :=
  let c := s.core k
  match c.pipe with
  | none => none
  | some p =>
    if p.done || s.frozen k then none
    else match s.op p.op with
      | some { kind := .drain d, .. } =>
        (decodeDrain ((nth 0#32 (mget {} c.progs d.prog).code p.step).setWidth 24)).toOption
      | _ => none

/-! ### Jobs and strands -/

/-- The steps of a job and its strands. -/
def State.jobMoves (s : State) (j : Job) : List Instr :=
  if j.completed then []
  else
    let own : List Instr :=
      if !s.jobFree j.seq then []
      else if j.rerun then (if s.working j.seq then [] else [.jobRerun j.seq])
      else if !j.started then (if s.dependences j = .wait then [] else [.jobStart j.seq])
      else if s.mayComplete j then [.jobCompletion j.seq] else []
    own ++ (upto j.strands.length).flatMap fun n => match j.strands[n]? with
      | some x =>
        if !x.waits then []
        else (if (s.wantsPreempt j n).isSome then [Instr.preempt j.seq n] else [])
          ++ (if s.mayRestore j n then [.strandRestore j.seq n] else [])
      | none => []

/-- Admission, placement, saves, and what a promotion, an UNMAP or a function-level reset in progress does next. While the
packet of the queue whose turn it is waits for a translation, no other queue is admitted: DESIGN CHOICE (log 16), the rotation
of 03 R49 says nothing of it. -/
def State.systemMoves (s : State) : List Instr :=
  (match s.admitting, s.turnOf with
    | true, some q => if s.cpParked.any fun e => e.seq == 0 && e.queue == q then [] else [.jobAdmission]
    | _, _ => [])
  ++ (if s.placing.isEmpty then [] else [.strandPlacement])
  ++ (s.ctxs.filterMap fun (c, x) => if x.stop.isSome && s.maySave c then some (Instr.strandSave (BitVec.ofNat 9 c)) else none)
  ++ (if s.mem.promotion.isSome || s.mem.promoting.isSome then [.pgo] else [])
  ++ (match s.dbg.waits.toNat with
    | 1 => [.debugStop s.dbg.djob s.dbg.dstrand]
    | 2 => [.debugRead s.dbg.djob s.dbg.dstrand]
    | 3 => [.debugWrite s.dbg.djob s.dbg.dstrand]
    | _ => [])
  ++ (match s.mem.unmapping with
    | some f => if (s.mem.queue (fun n => (s.op n).isSome) f).isEmpty then [.chartUnmap (BitVec.ofNat 27 f)] else []
    | none => [])
  ++ s.flrMoves

/-! ### Time -/

/-- What falls due by DTIME: the Timetable, and Attendance; and the moves of frames, whose copies end at any time. -/
def State.timeMoves (s : State) : List Instr :=
  (if s.mayTrigger then [.timetableTrigger] else [])
  ++ (if s.ttFree && (s.tt.starting || (match s.tt.current with | some i => s.iterDone i | none => false) || s.pastDone.isSome)
      then [.iterationBoundary] else [])
  ++ (if s.mem.regs.attend ≤ s.dtime.toNat then [.attendanceIntervalEnd] else [])
  ++ s.mem.moves.flatMap fun v => [.migrationFlip (BitVec.ofNat 27 v.frame) true, .migrationFlip (BitVec.ofNat 27 v.frame) false]

/-! ### The world outside -/

/-- The steps that come from outside the part, or from its environment, and not from a rule of its own: accesses and register
writes of the host, resets, errors, throttles, links, the source of DTIME, and collectives with members on other chips. -/
def isInput : Instr → Bool
  | .sqwr .. | .cqrd .. | .replay | .abort .. | .dispResume .. | .dispKill .. | .igo | .pgo | .chartMap .. | .chartUnmap _
  | .chartPin _ | .chartUnpin _ | .chartRevoke _ | .chartMove .. | .chartPool .. | .chartRead _ | .run | .streamEnable _
  | .debugStop .. | .debugRead .. | .debugWrite .. | .debugResume .. | .debugKill .. | .registerWrite .. | .spdmRequest ..
  | .dtimeCorrection _ | .collBegin _ | .collAbort .. | .barrierPhaseComplete .. | .portDown _ | .portUp _ | .linkRetry _
  | .hostMemoryAccess .. | .functionLevelReset _ | .warmReset | .coldReset _ | .powerLoss | .memoryStackOffline _
  | .scrubberPoison .. | .uncorrectableMediaError _ | .refreshWindowEnd _ | .memoryRequest _ | .stateMachineCheck _
  | .slabFailure .. | .floorThrottle .. | .throttleLifted .. | .thermalShutdown => true
  | _ => false

/-! ### The moves -/

/-- Every move that the machine may make now. What falls due at the Bell comes before every other. A core that has had its merge
cycle of the current CCLK cycle has no other before the active cores have all had theirs (02 R32). A cycle of no core passes
only when no core is active and no drain pipe runs. -/
def State.moves (s : State) : List Turn :=
  if !s.bellMoves.isEmpty then s.bellMoves.map .step else
  let active := s.activeCores
  let micro := (s.cores.filter fun x => x.2.pipe.isSome && (s.microOf x.1).isSome).map (·.1)
  (s.ops.flatMap s.opMoves).map .step
  ++ micro.map .micro
  ++ (s.cores.flatMap fun (k, c) => s.coreMoves k c).map .step
  ++ (s.jobs.flatMap s.jobMoves).map .step
  ++ s.systemMoves.map .step
  ++ s.timeMoves.map .step
  ++ (active.filter fun k => (s.core k).cycle ≤ s.cclk).map (fun k => .step (.mergeCycle (BitVec.ofNat 7 k)))
  ++ (match s.inputs with | i :: _ => [.input i] | [] => [])
  ++ (if active.isEmpty && micro.isEmpty then [.idle] else [])

/-- The move that comes next: the only one, or a free choice. -/
def State.choose (s : State) : Turn :=
  match s.moves with
  | [] => .idle
  | [m] => m
  | ms => nth .idle ms (Config.pick s.tick % ms.length)

/-! ### After a move -/

/-- An event record goes to the ring, behind those that wait there. It is withheld when the ring is full, or its line has no
translation; behind a migration it waits. EQWR and EQRD count modulo N (09 R169). The rings of the PF driver are in tenant
0xFFFF's space (log 18). -/
def State.putRecord (s : State) (r : BitVec 256) : State :=
  let q := s.evq
  let n := ringSize q.log2n.toNat
  let w := q.eqwr.toNat % n
  let va := q.eqbase.toNat + 32 * w
  let late : State := { s with withheld := s.withheld ++ [r], evq := { q with eqovf := true } }
  let held : State := { s with records := s.records ++ [r] }
  if !q.enable then s
  else if !s.records.isEmpty then held
  else if (w + 1) % n = q.eqrd.toNat % n then late
  else match s.blocked pfAsid true va 32, s.putAt pfAsid va (leBytes 32 (stampRecord r s.dtime).toNat) with
    | some .waits, _ => held
    | none, some t =>
      let t := { t with evq := { t.evq with eqwr := BitVec.ofNat 16 ((w + 1) % n) } }
      if q.ien then { t with signals := t.signals ++ [.msix q.vector.toNat] } else t
    | _, _ => late

/-- The event records go to the ring, 09 R169. -/
def State.flush (s : State) : State :=
  if s.records.isEmpty then s else s.records.foldl (fun s r => s.putRecord r) { s with records := [] }

/-- The commands without a performed effect whose turn has come leave. -/
def State.purge (s : State) : State :=
  if s.ops.any s.spent then { s with ops := s.ops.filter fun o => !s.spent o } else s

/-- The CCLK count after a move: it goes on when every active core has had its merge cycle (02 R32). -/
def State.clock (s : State) : Nat :=
  let ahead (k : Nat) : Bool := s.cclk < (s.core k).cycle
  if s.cores.any (fun x => ahead x.1) && s.activeCores.all ahead then s.cclk + 1 else s.cclk

/-- After every move: the commands without a performed effect leave, the parked requests of no operation whose turn has come
perform, the clock goes on, and event and Attendance records are written. -/
def State.after (s : State) : State :=
  let t := s.purge.drainParked
  let t := (t.advance t.clock).flush.flushAtt
  { t with tick := t.tick + 1 }

/-- A move is made. -/
def State.move (s : State) (m : Turn) : Out :=
  match m with
  | .step i => exec i s
  | .micro k => match s.microOf k with
    | some i => exec i { s with drainCore := k }
    | none => .next s
  | .input i =>
    let t := { s with inputs := s.inputs.drop 1 }
    if isInput i then exec i t else .next t
  | .idle => .next (s.advance (s.cclk + 1))

/-- A part that is not running answers only a cold reset, and SPDM while the boot chain holds it (15 R253, R254). -/
def State.dark (s : State) : Out :=
  match s.inputs with
  | [] => .fault .off
  | i :: l =>
    let t := { s with inputs := l }
    match i with
    | .coldReset v => exec (.coldReset v) t
    | .spdmRequest a b => if s.power = .heldInReset then exec (.spdmRequest a b) t else .next t
    | _ => .next t

/-- One step of the machine. -/
def State.next (s : State) : Out :=
  if s.power != .running then s.dark
  else match s.move s.choose with
    | .next t => .next t.after
    | .fault r => .fault r
    | .refused r => .refused r

/-! ### Placing an instruction where the next step runs it -/

/-- A bundle that holds one scalar word: in S1 when it may stand there only, otherwise in S0. -/
def soloBundle (w : BitVec 32) : Bundle :=
  let b := w.setWidth 384
  let none_ : Bundle := 7#384 <<< 374
  if onlyS1 (w.setWidth 48) then (1#384 <<< 382) ||| none_ ||| (b <<< 256) else (1#384 <<< 383) ||| none_ ||| (b <<< 288)

/-- A started job with one strand. -/
def soloJob (st : StrandSt) : Job := { seq := 1, packet := 0#512, queue := none, slot := 0, tenant := 0#16, prio := 0,
                                       started := true, strands := [{ st := st, core := some 0 }] }

/-- Context 0 holds the only strand, whose kernel is the bundle alone. -/
def State.withBundle (s : State) (b : Bundle) : State :=
  let r : Ranges := { idxlen := 1#16, dictlen := 1#13 }
  let x := s.ctx 0
  let ctx : Ctx := { x with
    sr := { x.sr with dictbase := 0#12, dictlen := 1#13 }, pc := 0#16, oor := false, idxbase := 0#16, idxlen := 1#16, kernel := r
    strand := some ⟨1, 0⟩, stop := none, hold := none, offered := none, reenter := none, owed := [], fpHold := 0, settles := [] }
  { s with
    ctxs := [(0, ctx)], jobs := [soloJob (.resident 0)], nextSeq := 2, ops := [], inputs := [], power := .running
    cores := mset {} s.cores 0 { s.core 0 with dict := mset 0#384 (s.core 0).dict 0 b, index := mset 0#16 (s.core 0).index 0 0#16
                                               freeze := 0, pipe := none } }

/-- Core 0's drain pipe holds a unit of a drain whose program's first word is the word. -/
def State.withDrainWord (s : State) (w : BitVec 24) : State :=
  let n := s.nextOp
  let d : Drain := { set := false, prog := 0, rq := 0, rmax := 1 }
  let o : Op := { id := n, core := 0, owner := ⟨1, 0⟩, tenant := 0#16, kind := .drain d }
  let g : DrainProg := { loaded := true, job := 1, code := [w.setWidth 32] }
  { s with
    ctxs := [], jobs := [soloJob .exited], nextSeq := 2, ops := [o], nextOp := n + 1, inputs := [], power := .running
    cores := mset {} s.cores 0 { s.core 0 with
      progs := mset {} (s.core 0).progs 0 g, drains := [n], freeze := 0, pipe := some { op := n } } }

/-- The instruction that the opcode table's bits give, placed so that the next step runs it. -/
def State.placeWord (s : State) (nbits w : Nat) : State :=
  match nbits with
  | 32 => s.withBundle (soloBundle (BitVec.ofNat 32 w))
  | 24 => s.withDrainWord (BitVec.ofNat 24 w)
  | _ => s

end Sys2Proof.Machine
end

