-- ==== Sys2Proof/Machine/Step.lean ====
section
/-! DEFINITION. One step of the machine, and the placing of an instruction where the next step runs it. -/

namespace Sys2Proof.Machine

/-- One step: a move of the machine, or the fault of a part that is not running. -/
def step (s : State) : Host.Outcome State Fault Refusal := s.next

/-- s with an instruction of the opcode table placed where the next step runs it. -/
def State.withFetchWord (s : State) (nbits w : Nat) : State := s.placeWord nbits w

end Sys2Proof.Machine
end

