-- ==== Sys2Proof/Safety.lean ====
section
/-! DEFINITION. The terms in which claims are stated: when a slot's sources are full, what a step leaves unchanged, and
when the part runs safely. A running part never stops (15 R253, R254): every trap, stop and refusal of a command that the
spec describes is a next state, so the one fault is a step of a part that is off. -/

namespace Sys2Proof.Machine

/-- Every source of the list is full, as the issuing bundle read it (04 R69). -/
def State.full (s : State) (l : List Source) : Prop := ∀ x ∈ l, s.issue.regs.isEmpty x.reg = false

/-- A register that exists: 64 s registers, 32 va, 32 vb and 16 m (02 R31). -/
def realReg (n : RegName) : Prop := n.num.toNat < (match n.file.toNat with | 0 => 64 | 3 => 16 | _ => 32)

/-- A value of the register's kind: a word for s and m, 64 lanes for va and vb. -/
def RegVal.fits : RegVal → RegName → Prop
  | .word _, n => n.file = 0#2 ∨ n.file = 3#2
  | .lanes _, n => n.file = 1#2 ∨ n.file = 2#2

/-- Every byte of media reads as before. -/
def SameMemory (s t : State) : Prop := ∀ a, t.mem.byte a = s.mem.byte a

/-- Every byte of every scratchpad reads as before. -/
def SameScratch (s t : State) : Prop := ∀ k a, (t.core k).spByte a = (s.core k).spByte a

/-- Every scratchpad byte reads as before, but those of core k whose addresses satisfy p. -/
def SameScratchBut (s t : State) (k : Nat) (p : Nat → Prop) : Prop :=
  ∀ j a, ¬(j = k ∧ p (a % spSize)) → (t.core j).spByte a = (s.core j).spByte a

/-- Every context but c is as before. -/
def SameContextsBut (s t : State) (c : Nat) : Prop := ∀ d, d ≠ c → t.ctx d = s.ctx d

/-- Every general register of context c holds the value it held. -/
def SameRegs (s t : State) (c : Nat) : Prop := ∀ n, (t.ctx c).regs.get n = (s.ctx c).regs.get n

/-- Every general register of context c but those of the list is as full or as empty as it was. -/
def SameEmptyBut (s t : State) (c : Nat) (l : List RegName) : Prop :=
  ∀ n, n ∉ l → (t.ctx c).regs.isEmpty n = (s.ctx c).regs.isEmpty n

/-- Every special register that context c stores is as before. -/
def SameSpecial (s t : State) (c : Nat) : Prop := (t.ctx c).sr = (s.ctx c).sr

/-- What every slot instruction leaves alone: device memory, every other context, and the value of every register of its
own; the registers of the list may turn empty, and nothing else of a special register changes unless the slot traps. -/
def SlotFrame (s t : State) (dests : List RegName) : Prop :=
  SameMemory s t ∧ SameContextsBut s t s.issue.ctx ∧ SameRegs s t s.issue.ctx
  ∧ SameEmptyBut s t s.issue.ctx dests ∧ (t.issue.stop ≠ .trapped → SameSpecial s t s.issue.ctx)

/-- The matrix engine of the issuing core takes a command of the issuing strand: it is free or the strand owns it, and fewer
than four accepted commands have not begun (11 R183, R202). -/
def State.engineTakes (s : State) : Prop :=
  ((s.core s.curCore).engine = none ∨ (s.core s.curCore).engine = some s.curStrand) ∧ s.matrixQueued s.curCore < 4

/-- A head that takes a command of the issuing strand (07 R136 check 1, 21 R303): it is open, owned by the strand's job, and
neither waiting, closing, faulted nor full. -/
def State.headTakes (s : State) (h : Nat) : Prop :=
  s.headBusy s.curCore h = false ∧ (s.head s.curCore h).mode ≠ 0 ∧ (s.head s.curCore h).job = s.curStrand.seq

/-- Every head but head h of core k is as before. -/
def SameHeadsBut (s t : State) (k h : Nat) : Prop := ∀ j g, ¬(j = k ∧ g = h) → t.head j g = s.head j g

/-- An access of operation o to the line of a VA performs now at a place: it is parked behind a migration and its turn has come
(14 R237), or the page is mapped, its walk waits for nothing, the core has a credit of the frame's controller (14 R225) and no
move of the frame holds the access back. -/
def State.mayReach (s : State) (o : Op) (va : BitVec 57) (write : Bool) (p : Place) : Prop :=
  let free f := s.mem.mayAccess (fun n => (s.op n).isSome) o.id f (va.toNat % 65536 / 64) write = true
  (∃ q, s.parkedAt o va = some (q, p) ∧ free q.frame)
  ∨ s.parkedAt o va = none ∧ s.placeOf o.tenant va write = some p ∧ p.held = false
    ∧ ∀ f, p.frame = some f → s.creditsUsed o.core (homeOf f) < 32 ∧ free f

/-- Context c is the only one of an unfrozen core that holds a strand or waits; nothing holds it back, is owed to it or is in
flight; it stands at an entry of its dictionary that decodes to d, and no IFENCE LOAD of the core is copying. -/
def State.standsAt (s : State) (c : Nat) (d : Decoded) : Prop :=
  let k := coreOf c
  let x := s.ctx c
  let e := (s.core k).halfword (x.idxbase.toNat + x.pc.toNat)
  s.frozen k = false ∧ (∃ i, x.strand = some i ∧ s.ctxOf i = some c ∧ s.faultHead k i = none)
  ∧ x.stop = none ∧ x.hold = none ∧ x.offered = none ∧ x.owed = [] ∧ x.flight = [] ∧ x.settles = [] ∧ x.reenter = none
  ∧ x.needs = none ∧ x.fpHold ≤ (s.core k).ucycle + 1
  ∧ (∀ j, coreOf j = k → j ≠ c → (s.ctx j).strand = none ∧ (s.ctx j).hold = none)
  ∧ (∀ o ∈ s.ops, o.core = k → o.copying = none)
  ∧ x.oor = false ∧ x.pc.toNat < x.idxlen.toNat ∧ e.toNat < 4096 ∧ e.toNat < x.sr.dictlen.toNat
  ∧ x.sr.dictbase.toNat + e.toNat ≤ 4095
  ∧ decodeBundle (mget 0#384 (s.core k).dict (x.sr.dictbase.toNat + e.toNat)) = .ok d

/-- Every byte of media but n bytes from address a reads as before. -/
def SameMemoryBut (s t : State) (a n : Nat) : Prop := ∀ b, b < a ∨ a + n ≤ b → t.mem.byte b = s.mem.byte b

/-- The operations have numbers of their own, all below the counter: what lets a step name one. -/
def State.numbered (s : State) : Prop := (s.ops.map (·.id)).Nodup ∧ ∀ o ∈ s.ops, o.id < s.nextOp

/-- The device memory is in canonical form, and so is every scratchpad and every accumulator set. -/
def State.canonical (s : State) : Prop :=
  Memory.wf s.mem = true ∧ ∀ x ∈ s.cores, mwf spDefault x.2.sp = true ∧ ∀ y ∈ x.2.sets, mwf 0#32 y.2.acc = true

end Sys2Proof.Machine
end

