-- ==== Sys2Proof/Certificates/Slice0/Obligations.lean ====
section
/-! DEFINITION. The statements for the provers: what the instructions and the steps of the machine do, what they leave
unchanged, and what every step keeps. Each docstring names the rules of spec/ that it rests on. -/

open Sys2Proof Sys2Proof.Machine

/-! ### Scalar slots -/

/-- 20 R282, R296, 21 R310, 22 R317, R322, 23 R357: with both sources full each of these instructions issues, and SD receives
the value that its entry gives, after its latency: 1 cycle, 3 for the multiplications, 14 for the division. 20 R282, R290, 21
R310, 22 R317, R322, 23 R357, 04 R76: the scalar instructions with one register source, and those whose second operand is an
immediate: 13 bits sign-extended, or XIMM sign-extended where the bundle gives it to the slot. LI has no source. The words
of CLZ, DIV, XOR and XORI: any other value of a field that must be zero fails check 7, and so does an immediate beside XIMM. -/
def Obligations.ScalarResults : Prop :=
  (∀ (d : BitVec 6) (a b : Src) (s : State), s.full [srcOf a 0, srcOf b 1] →
     let x := s.sVal a
     let y := s.sVal b
     exec (.add d a b) s = .next (s.resultS d 1 (x + y))
     ∧ exec (.sub d a b) s = .next (s.resultS d 1 (x - y))
     ∧ exec (.and d a b) s = .next (s.resultS d 1 (x &&& y))
     ∧ exec (.andn d a b) s = .next (s.resultS d 1 (x &&& ~~~y))
     ∧ exec (.or d a b) s = .next (s.resultS d 1 (x ||| y))
     ∧ exec (.xor d a b) s = .next (s.resultS d 1 (x ^^^ y))
     ∧ exec (.mul d a b) s = .next (s.resultS d 3 (x * y))
     ∧ exec (.mulh d a b) s = .next (s.resultS d 3 ((x.signExtend 128 * y.signExtend 128).extractLsb' 64 64))
     ∧ exec (.div d a b) s = .next (s.resultS d 14 (if y = 0#64 then BitVec.allOnes 64 else x.sdiv y))
     ∧ exec (.max d a b) s = .next (s.resultS d 1 (if x.slt y then y else x))
     ∧ exec (.min d a b) s = .next (s.resultS d 1 (if y.slt x then y else x))
     ∧ exec (.shl d a b) s = .next (s.resultS d 1 (x <<< y.toNat))
     ∧ exec (.shr d a b) s = .next (s.resultS d 1 (x >>> y.toNat))
     ∧ exec (.sar d a b) s = .next (s.resultS d 1 (x.sshiftRight y.toNat)))
  ∧ (∀ (d : BitVec 6) (a : Src) (imm : BitVec 13) (c : BitVec 6) (s : State), s.full [srcOf a 0] →
       let x := s.sVal a
       let v : Word := match s.issue.ximm with | some e => e.signExtend 64 | none => imm.signExtend 64
       exec (.addi d a imm) s = .next (s.resultS d 1 (x + v))
       ∧ exec (.andi d a imm) s = .next (s.resultS d 1 (x &&& v))
       ∧ exec (.ori d a imm) s = .next (s.resultS d 1 (x ||| v))
       ∧ exec (.xori d a imm) s = .next (s.resultS d 1 (x ^^^ v))
       ∧ exec (.li d imm) s = .next (s.resultS d 1 v)
       ∧ exec (.mov d a) s = .next (s.resultS d 1 x)
       ∧ exec (.clz d a) s = .next (s.resultS d 1 x.clz)
       ∧ exec (.popc d a) s = .next (s.resultS d 1 x.cpop)
       ∧ exec (.shlImm d a c) s = .next (s.resultS d 1 (x <<< c.toNat))
       ∧ exec (.shrImm d a c) s = .next (s.resultS d 1 (x >>> c.toNat))
       ∧ exec (.sarImm d a c) s = .next (s.resultS d 1 (x.sshiftRight c.toNat)))
  ∧ (∀ (d ra rb fn : BitVec 6) (pa pb : Bool) (imm x : BitVec 13),
       let a : Src := ⟨ra, pa⟩
       let p := BitVec.ofBool pa
       let sr (opc : BitVec 6) : BitVec 32 := opc ++ d ++ ra ++ p ++ rb ++ BitVec.ofBool pb ++ fn
       let only (ok : Bool) (i : Instr) : Except SlotReject Instr := if ok then .ok i else .error .badField
       decodeScalar (0x0A#6 ++ d ++ ra ++ p ++ x) = only (x == 0#13) (.clz d a)
       ∧ decodeScalar (sr 0x0D#6) = only (fn == 0#6) (.div d a ⟨rb, pb⟩)
       ∧ decodeScalar (sr 0x29#6) = only (fn == 0#6) (.xor d a ⟨rb, pb⟩)
       ∧ decodeScalar (0x2A#6 ++ d ++ ra ++ p ++ imm) = .ok (.xori d a imm)
       ∧ ximmFieldZero (.xori d a imm) = (imm == 0#13))

/-- 20 R291, 22 R323: CMP and CMPI write 1 when their condition holds and 0 otherwise, for each of the six conditions: eq,
ne, and the signed and unsigned lt and ge; SEL writes SA's value when the condition register is not zero, else SB's, and its
word holds the condition register in FN. The condition register has the block policy: SEL yields while it alone is empty. -/
def Obligations.CompareAndSelectResults : Prop :=
  ∀ (d : BitVec 6) (a b : Src) (imm : BitVec 10) (c : BitVec 6) (s : State),
    let x := s.sVal a
    let y := s.sVal b
    let v : Word := match s.issue.ximm with | some e => e.signExtend 64 | none => imm.signExtend 64
    let holds (n : Nat) (p q : Word) : Word :=
      if (match n with
        | 0 => p == q
        | 1 => p != q
        | 2 => p.slt q
        | 3 => q.sle p
        | 4 => p.ult q
        | _ => q.ule p) then 1#64 else 0#64
    (s.full [srcOf a 0, srcOf b 1] → ∀ n : BitVec 6, n.toNat < 6 →
      exec (.cmp d a b n) s = .next (s.resultS d 1 (holds n.toNat x y)))
    ∧ (s.full [srcOf a 0] → ∀ n : BitVec 3, n.toNat < 6 →
      exec (.cmpi d a imm n) s = .next (s.resultS d 1 (holds n.toNat x v)))
    ∧ (s.full [srcOf a 0, srcOf b 1, ⟨sReg c, false, 3⟩] →
      exec (.sel d a b c) s = .next (s.resultS d 1 (if s.issue.regs.sGet c = 0#64 then y else x)))
    ∧ (s.full [srcOf a 0, srcOf b 1] → s.issue.regs.isEmpty (sReg c) = true →
      ∃ t, exec (.sel d a b c) s = .next t ∧ t.issue.stop = .yields ∧ t.ctxs = s.ctxs ∧ t.cores = s.cores ∧ t.mem = s.mem)
    ∧ decodeScalar (0x21#6 ++ d ++ a.reg ++ BitVec.ofBool a.pol ++ b.reg ++ BitVec.ofBool b.pol ++ c) = .ok (.sel d a b c)

/-- 04 R69, R70, 05 R98: a result of latency lat turns its destination empty at issue, the value unchanged; once the core has
counted lat unfrozen cycles it lands, the last of the results in flight: the register is full and holds the value, and its
flags are merged into FFLAGS. Before that no result that is not the destination's latest lands in it. s0 and m0 take no
result. -/
def Obligations.ResultLandsAfterItsLatency : Prop :=
  ∀ (s : State) (n : RegName) (lat : Nat) (v : RegVal) (f : BitVec 5), realReg n → v.fits n →
    let t := s.result n lat v f
    (n.discards = true → t = s)
    ∧ (n.discards = false →
      t.cur.regs.isEmpty n = true
      ∧ (∀ m, t.cur.regs.get m = s.cur.regs.get m)
      ∧ (∀ u, s.now + lat ≤ u →
          let x := t.cur.landDue u
          x.regs.isEmpty n = false ∧ x.regs.get n = v ∧ x.sr.fflags &&& f = f)
      ∧ (∀ u, u < s.now + lat → (∀ p ∈ s.cur.flight, p.tag ≠ s.nextOp) →
          (t.cur.landDue u).regs.get n = s.cur.regs.get n ∧ (t.cur.landDue u).regs.isEmpty n = true))

/-- 04 R69, Table 4-15: an empty source with the trap policy raises EMPTY_READ, whose XINFO names the register, the slot and
the lowest such field; with only block-policy sources empty the bundle yields. Shown for ADD: the destination is not claimed,
and the handler is entered when the strand has one. -/
def Obligations.EmptySourceTrapsOrYields : Prop :=
  ∀ (d : BitVec 6) (a b : Src) (s : State),
    let emptyA := s.issue.regs.isEmpty (sReg a.reg)
    let emptyB := s.issue.regs.isEmpty (sReg b.reg)
    (emptyA = true → a.pol = true → exec (.add d a b) s =
      .next (s.trap 0x03#8 (emptyReadInfo (sReg a.reg) s.issue.slot 0)))
    ∧ ((emptyA = false ∨ a.pol = false) → emptyB = true → b.pol = true → exec (.add d a b) s =
      .next (s.trap 0x03#8 (emptyReadInfo (sReg b.reg) s.issue.slot 1)))
    ∧ ((emptyA = true ∨ emptyB = true) → (emptyA = true → a.pol = false) → (emptyB = true → b.pol = false) →
      ∃ t, exec (.add d a b) s = .next t ∧ t.issue.stop = .yields ∧ t.ctxs = s.ctxs ∧ t.cores = s.cores ∧ t.mem = s.mem)

/-! ### Control transfers -/

/-- 04 R64, R76, 20 R287, R289, 21 R307, R311, 22 R320: the control transfers. A branch taken, a call, a jump and a return
put the low 16 bits of the target into PC and mark the next fetch out of range when the target lies outside 0 to IDXLEN − 1;
a branch not taken leaves the context as it is. CALL and JMP write the halfword after the bundle as their link, LOOP writes
the decremented counter. -/
def Obligations.ControlTransfersSetPc : Prop :=
  ∀ (d : BitVec 6) (a : Src) (cc : BitVec 3) (off : BitVec 16) (s : State),
    let offset : Int := match s.issue.ximm with | some x => x.toInt | none => off.toInt
    let target : Int := s.issue.pcb.toNat + offset
    let link : Word := BitVec.ofNat 64 (s.issue.pcb.toNat + s.issue.len)
    let goes (u : State) (t : Int) : State := u.modCur fun x =>
      { x with pc := BitVec.ofInt 16 t, oor := decide (t < 0 ∨ (x.idxlen.toNat : Int) ≤ t) }
    let cond (v : Word) : Bool := match cc.toNat with
      | 0 => v == 0#64
      | 1 => v != 0#64
      | 2 => v.slt 0#64
      | 3 => (0#64).sle v
      | 4 => v.sle 0#64
      | _ => (0#64).slt v
    exec (.call off) s = .next (goes (s.resultS 63#6 1 link) target)
    ∧ (s.full [srcOf a 0] →
      (cc.toNat < 6 → exec (.br a cc off) s = .next (if cond (s.sVal a) then goes s target else s))
      ∧ (cc.toNat = 6 → exec (.br a cc off) s = .next (goes s target))
      ∧ (cc.toNat < 6 → exec (.loop a cc off) s =
          .next (let u := s.resultS a.reg 1 (s.sVal a - 1#64)
                 if cond (s.sVal a - 1#64) then goes u target else u))
      ∧ exec (.jmp d a) s = .next (goes (s.resultS d 1 link) (s.sVal a).toNat)
      ∧ exec (.ret a) s = .next (goes s (s.sVal a).toNat))

/-! ### Traps and the return from one -/

/-- 09 R164, 04 R74: a trap that the strand takes first, at slot k of its bundle. XPC, XCAUSE and XINFO take the bundle's PC,
the cause and the detail, SLOTRES the slot and SNAPV 1 with the operands latched; PC goes to XVEC and HACT is set. PL, PRIO
and the registers stay. 09 R166, Table 4-14: a trap that is not delivered to the strand first, or that comes without a
handler or inside one, is a system stop: the context offers no further bundle, its save is due with reason 1, the cause and
the detail, at the bundle's PC; 04 R74, 19 R280: XPC, XCAUSE and XINFO take its own, which is DEDUCED (log 12);
09 R165: inside a handler they stay those of the first trap. -/
def Obligations.TrapEntersOrStops : Prop :=
  (∀ (s : State) (k : Nat) (cause : BitVec 8) (info : Word),
     strandFirst cause = true → s.hasExited s.curStrand = false → s.cur.sr.xvec ≠ 0#16 → s.cur.hact = false →
     let t := (s.trapAt k cause info).cur
     t.sr = { s.cur.sr with xpc := s.issue.pcb, xcause := cause, xinfo := info, slotres := BitVec.ofNat 3 k, snapv := true }
     ∧ t.pc = s.cur.sr.xvec ∧ t.hact = true ∧ t.stop = s.cur.stop ∧ t.regs = s.cur.regs
     ∧ t.snap = some ⟨s.issue.regs, s.issue.bp, s.issue.pcb⟩ ∧ t.owed = s.cur.owed ∧ t.flight = s.cur.flight
     ∧ (s.trapAt k cause info).mem = s.mem ∧ (s.trapAt k cause info).cores = s.cores
     ∧ SameContextsBut s (s.trapAt k cause info) s.issue.ctx)
  ∧ (∀ (s : State) (k : Nat) (cause : BitVec 8) (info : Word), s.hasExited s.curStrand = false →
       strandFirst cause = false ∨ s.cur.sr.xvec = 0#16 ∨ s.cur.hact = true →
       let t := (s.trapAt k cause info).cur
       t.stop = some { reason := 1, cause := cause, info := info, pc := s.issue.pcb, debug := debugPending s.cur.stop,
                       gang := gangPending s.cur.stop }
       ∧ t.pc = s.issue.pcb ∧ t.hact = s.cur.hact ∧ t.regs = s.cur.regs
       ∧ t.sr = (let r := { s.cur.sr with slotres := BitVec.ofNat 3 k, snapv := true }
                 if s.cur.hact then r else { r with xpc := s.issue.pcb, xcause := cause, xinfo := info })
       ∧ (s.trapAt k cause info).mem = s.mem ∧ (s.trapAt k cause info).cores = s.cores
       ∧ SameContextsBut s (s.trapAt k cause info) s.issue.ctx)

/-- 22 R321, 04 R75: RTT, permitted in a handler or at PL 1 and above, clears HACT and goes back to XPC: at slot SLOTRES with
the latched operands when SNAPV is set and they are those of XPC's bundle, else with none; SLOTRES becomes 7 and SNAPV 0.
Otherwise it raises PRIVILEGE and nothing of the context is restored. 22 R331: TRAP commits and raises SW_TRAP with its
immediate, split after S1: the strand re-enters at slot 2. -/
def Obligations.TrapAndReturnFromTrap : Prop :=
  (∀ (s : State),
     ((s.issue.sr.pl ≠ 0#2 ∨ s.cur.hact = true) → ∃ t, exec .rtt s = .next t
       ∧ t.cur.hact = false ∧ t.cur.pc = s.issue.sr.xpc
       ∧ t.cur.sr = { s.cur.sr with slotres := 7#3, snapv := false } ∧ t.cur.regs = s.cur.regs
       ∧ (s.issue.sr.slotres = 7#3 → t.cur.reenter = none)
       ∧ (s.issue.sr.slotres ≠ 7#3 → s.issue.sr.snapv = false → t.cur.reenter = some (s.issue.sr.slotres.toNat, none))
       ∧ (s.issue.sr.slotres ≠ 7#3 → s.issue.sr.snapv = true → ∀ p, s.cur.snap = some p → p.pc = s.issue.sr.xpc →
           t.cur.reenter = some (s.issue.sr.slotres.toNat, some p))
       ∧ (s.issue.sr.snapv = true → ∀ p, s.cur.snap = some p → p.pc ≠ s.issue.sr.xpc → t.cur.reenter = none)
       ∧ t.mem = s.mem ∧ t.cores = s.cores ∧ SameContextsBut s t s.issue.ctx)
     ∧ (s.issue.sr.pl = 0#2 → s.cur.hact = false → exec .rtt s = .next (s.trap 0x04#8 0x100#64)))
  ∧ (∀ (imm : BitVec 13) (s : State), exec (.trap imm) s = .next (s.trapAt 2 0x38#8 (imm.setWidth 64)))

/-! ### Special registers -/

/-- 04 Table 4-13, 04 R81, 21 R314: MFSR writes the value of each special register at issue, latency 1: the stored registers
and heads as the bundle found them, the strand's identity and groups (03 R46, Table 3-6), and the counters of the part. -/
def Obligations.SpecialRegistersRead : Prop :=
  ∀ (d : BitVec 6) (s : State),
    let x := s.issue.sr
    let reads (r : BitVec 6) (v : Word) : Prop := exec (.mfsr d r) s = .next (s.resultS d 1 v)
    reads 0x00 (0#43 ++ x.prio ++ 0#10 ++ BitVec.ofBool x.snapv ++ x.slotres ++ x.pl)
    ∧ reads 0x01 (x.xpc.setWidth 64) ∧ reads 0x02 (x.xcause.setWidth 64) ∧ reads 0x03 x.xinfo
    ∧ reads 0x04 (x.xvec.setWidth 64) ∧ reads 0x05 (x.fflags.setWidth 64) ∧ reads 0x06 (x.fctl.setWidth 64)
    ∧ reads 0x07 x.rcard ∧ reads 0x08 x.mxcnt ∧ reads 0x09 x.mdpc
    ∧ reads 0x0A (BitVec.ofNat 64 s.issue.ctx) ∧ reads 0x0B (BitVec.ofNat 64 (s.curStrand.idx % 8192))
    ∧ reads 0x0C (BitVec.ofNat 64 s.curStrand.seq) ∧ reads 0x0E s.dtime
    ∧ reads 0x0F x.tickn ∧ reads 0x10 x.occ ∧ reads 0x11 x.draft ∧ reads 0x12 x.bellst
    ∧ reads 0x13 ((s.tenantOf s.curStrand).setWidth 64) ∧ reads 0x14 (x.dictbase.setWidth 64)
    ∧ reads 0x15 (x.dictlen.setWidth 64) ∧ reads 0x16 (x.redlim.setWidth 64) ∧ reads 0x17 (x.hmlim.setWidth 64)
    ∧ reads 0x18 (x.xsave.setWidth 64) ∧ reads 0x19 (BitVec.ofNat 64 (s.core s.curCore).cycle)
    ∧ (∀ j, findJob s.curStrand.seq s.jobs = some j →
      let ids := (List.range j.groups.length).filter fun g => (j.groups[g]?).any (·.members.contains s.curStrand.idx)
      ∃ w : Word, reads 0x0D w ∧ w.toNat < 2 ^ 36 ∧ ∀ k : Nat, k < 4 →
        w.extractLsb' (8 * k) 8 = BitVec.ofNat 8 (ids.getD k 0) ∧ w.getLsbD (32 + k) = decide (k < ids.length))
    ∧ ∀ h : Nat, h < 16 →
      reads (BitVec.ofNat 6 (0x20 + h)) (BitVec.ofNat 64 (s.wmk s.curCore h))
      ∧ reads (BitVec.ofNat 6 (0x30 + h))
          (s.hstate s.curCore h (mget {} s.issue.heads h) (mget 0#2 s.issue.hview h).toNat)

/-- 04 Table 4-13, 21 R314, Table 21-6: MTSR of each special register, the fields that the table lets software write and the
limits it sets: FCTL's rounding field is cleared above 4, DICTLEN is at most 4,096, REDLIM and HMLIM at least 256, XSAVE is
64-byte aligned. At every PL XPC, XVEC, FFLAGS, FCTL, MXCNT, DICTBASE and DICTLEN are written, and a write to a read-only
register, WMK0 to WMK15 among them, has no effect. 04 R81, Table 21-6: at PL 0 a write to REDLIM, HMLIM, XSAVE or a head's
HSTATE, and a write to STATUS that changes PL or PRIO, raises PRIVILEGE with the register number in XINFO, split at the slot;
at PL 1 a write to STATUS of PL 2 or above, or of a priority of 24 or above, does. Any other write to STATUS at PL 0 changes
SLOTRES and SNAPV only. 07 R150: HSTATE at PL 1 and above: bit 63 selects the head's view; without it the selected view is
written, views 0 to 2 only while no command of the head is outstanding; POS discards the stage, DEPTH is held in 1 to 32, and
POISON drops the poisoned blocks. That the selection belongs to the context is the model's choice of log 13. -/
def Obligations.SpecialRegisterWrites : Prop :=
  (∀ (a : Src) (s : State), s.full [srcOf a 0] →
     let v := s.sVal a
     let writes (r : BitVec 6) (f : SpecRegs → SpecRegs) : Prop :=
       exec (.mtsr r a) s = .next (s.modCur fun x => { x with sr := f x.sr })
     writes 0x01 (fun x => { x with xpc := v.setWidth 16 })
     ∧ writes 0x04 (fun x => { x with xvec := v.setWidth 16 })
     ∧ writes 0x05 (fun x => { x with fflags := v.setWidth 5 })
     ∧ ((v.extractLsb' 5 3).toNat ≤ 4 → writes 0x06 fun x => { x with fctl := v.setWidth 8 })
     ∧ (4 < (v.extractLsb' 5 3).toNat → writes 0x06 fun x => { x with fctl := (v.setWidth 5).setWidth 8 })
     ∧ writes 0x08 (fun x => { x with mxcnt := v })
     ∧ writes 0x14 (fun x => { x with dictbase := v.setWidth 12 })
     ∧ writes 0x15 (fun x => { x with dictlen := if 4096 < (v.setWidth 13).toNat then 4096#13 else v.setWidth 13 })
     ∧ (∀ r ∈ [0x02, 0x03, 0x07, 0x09, 0x0A, 0x0B, 0x0C, 0x0D, 0x0E, 0x0F, 0x10, 0x11, 0x12, 0x13, 0x19],
         writes (BitVec.ofNat 6 r) fun x => x)
     ∧ (∀ h : Nat, h < 16 → writes (BitVec.ofNat 6 (0x20 + h)) fun x => x)
     ∧ (s.issue.sr.pl ≠ 0#2 →
       ((v.extractLsb' 0 2).toNat < 2 → (v.extractLsb' 16 5).toNat < 24 → writes 0x00 fun x =>
         { x with pl := v.extractLsb' 0 2, slotres := v.extractLsb' 2 3, snapv := v.getLsbD 5, prio := v.extractLsb' 16 5 })
       ∧ writes 0x16 (fun x => { x with redlim := if (v.setWidth 32).toNat < 256 then 256#32 else v.setWidth 32 })
       ∧ writes 0x17 (fun x => { x with hmlim := if (v.setWidth 32).toNat < 256 then 256#32 else v.setWidth 32 })
       ∧ writes 0x18 (fun x => { x with xsave := (v.extractLsb' 6 51 ++ 0#6).setWidth 57 })
       ∧ ∀ h : Nat, h < 16 →
         let i : Instr := .mtsr (BitVec.ofNat 6 (0x30 + h)) a
         let x := s.head s.curCore h
         let idle := s.headOps s.curCore h = []
         let view := mget 0#2 s.cur.hview h
         let pos := (v.extractLsb' 0 48).toNat
         let depth := max 1 (min 32 (v.extractLsb' 0 6).toNat)
         let sets (y : Head) : Prop := ∃ t, exec i s = .next t ∧ t.head s.curCore h = y ∧ SameHeadsBut s t s.curCore h
           ∧ t.ctxs = s.ctxs ∧ t.mem = s.mem ∧ SameScratch s t
         (v.getLsbD 63 = true →
           exec i s = .next (s.modCur fun c => { c with hview := mset 0#2 c.hview h (v.extractLsb' 0 2) }))
         ∧ (v.getLsbD 63 = false →
           (view ≠ 3#2 → ¬idle → exec i s = .next s)
           ∧ (view = 0#2 → idle → sets { x with pos := pos, stage := [] })
           ∧ (view = 1#2 → idle → sets { x with markA := (pos, v.getLsbD 48) })
           ∧ (view = 2#2 → idle → sets { x with markB := (pos, v.getLsbD 48) })
           ∧ (view = 3#2 → v.getLsbD 6 = false → sets { x with depth := depth })
           ∧ (view = 3#2 → v.getLsbD 6 = true →
             sets { x with depth := depth, poison := false, stage := x.stage.filter fun b => !b.poison }))))
  ∧ (∀ (a : Src) (s : State), s.full [srcOf a 0] →
       let v := s.sVal a
       let denied (r : BitVec 6) : Prop := exec (.mtsr r a) s = .next (s.trap 0x04#8 (r.setWidth 64))
       let pl := v.extractLsb' 0 2
       let prio := v.extractLsb' 16 5
       (s.issue.sr.pl = 0#2 →
         denied 0x16 ∧ denied 0x17 ∧ denied 0x18 ∧ (∀ h : Nat, h < 16 → denied (BitVec.ofNat 6 (0x30 + h)))
         ∧ (pl ≠ 0#2 ∨ prio ≠ s.issue.sr.prio → denied 0x00)
         ∧ (pl = 0#2 → prio = s.issue.sr.prio → exec (.mtsr 0x00 a) s = .next (s.modCur fun x =>
             { x with sr := { x.sr with slotres := v.extractLsb' 2 3, snapv := v.getLsbD 5 } })))
       ∧ (s.issue.sr.pl ≠ 0#2 → 2 ≤ pl.toNat ∨ 24 ≤ prio.toNat → denied 0x00))

/-! ### Ordering, barriers and the strand's end -/

/-- 08 R155, 22 R324, 07 R147: SETTLE with nothing to order completes at once; otherwise it is outstanding, in its context's
list, and waits for every outstanding operation of the strand in its domains: the writes for rel, the reads for acq, both for
full. At PEER and SYS, rel and full are outstanding too while a write of the strand to a peer's memory is (R161). A drain that
stands stopped is none of them. With acq or full the core's heads drop every block they had staged. No register and no byte
changes. It rests on the model's reading of log 32. -/
def Obligations.SettleOrdersTheStrandsAccesses : Prop :=
  ∀ (scope : BitVec 4) (kind : BitVec 2) (domains : BitVec 7) (s : State), kind ≠ 0#2 →
    let mine (o : Op) : Prop := o ∈ s.ops ∧ o.owner = s.curStrand ∧ o.kind.standsStopped = false
    let ordered (o : Op) : Prop := mine o ∧ o.domains &&& domains ≠ 0#7
      ∧ (kind = 3#2 ∨ kind = 1#2 ∧ o.kind.isWrite = true ∨ kind = 2#2 ∧ o.kind.isRead = true)
    let toPeer (o : Op) : Prop := mine o ∧ (scope = 6#4 ∨ scope = 8#4) ∧ kind ≠ 2#2 ∧ o.id < s.nextOp ∧ s.peerWrite o = true
    ∃ t, exec (.settle scope kind domains) s = .next t
      ∧ ((∀ o, ¬ordered o ∧ ¬toPeer o) → t.ops = s.ops ∧ t.ctxs = s.ctxs)
      ∧ ((∃ o, ordered o ∨ toPeer o) → ∃ p, t.ops = s.ops ++ [p] ∧ p.owner = s.curStrand
          ∧ p.kind = .settle scope.toNat kind.toNat domains ∧ (∀ o, ordered o → o.id ∈ p.waits)
          ∧ (∀ n ∈ p.waits, ∃ o, ordered o ∧ o.id = n) ∧ t.cur.settles = s.cur.settles ++ [p.id])
      ∧ (kind ≠ 1#2 → ∀ h, h < 16 → (t.head s.curCore h).stage = [])
      ∧ t.mem = s.mem ∧ SameScratch s t ∧ t.cur.regs = s.cur.regs ∧ t.cur.sr = s.cur.sr ∧ t.issue = s.issue

/-- 20 R286, R288, 06 R118, R119: BAR and BWAIT on a barrier that is unbound on the core, or bound to the strand's group.
ARRIVE records an arrival of the strand; BWAIT test writes the phase count and acquires; WAIT records at its first offer the
phase of the strand's latest arrival, or the current phase when the strand has not arrived in it, and goes on, and acquires,
once that phase has completed; SYNC records its arrival at its first offer and goes on once the phase of that arrival has
completed; BWAIT wait goes on once PHC has reached the target in the source's upper half, counted modulo 2^32. The barrier is
bound afterwards. 03 R45, 04 R67: BAR and BWAIT of a group that the strand may not use, or on a barrier bound to another job
or group, raise ILLEGAL_BUNDLE reason 6 with the slot and the group id. It rests on the model's reading of log 11. -/
def Obligations.BarriersArriveAndWait : Prop :=
  (∀ (d : BitVec 6) (bar : BitVec 7) (a : Src) (s : State) (x : Group), s.full [srcOf a 0] →
     let g := ((s.sVal a).extractLsb' 0 8).toNat
     let i := s.curStrand
     let b := bar.toNat
     s.groupOf i g = some x → (s.binding s.curCore b = none ∨ s.binding s.curCore b = some (i.seq, g)) →
     let n := s.net b i.seq g
     let seen := mget 0 n.arrivals i.idx
     let bound (t : State) : Prop := t.binding s.curCore b = some (i.seq, g)
     (∃ t, exec (.barArrive bar a) s = .next t ∧ bound t ∧ (t.net b i.seq g).phc = n.phc
       ∧ mget 0 (t.net b i.seq g).arrivals i.idx = seen + 1 ∧ t.ctxs = s.ctxs ∧ t.mem = s.mem ∧ SameScratch s t
       ∧ (∀ o ∈ s.ops, o.owner = i → o.kind.standsStopped = false → (seen + 1, o.id) ∈ (t.net b i.seq g).waits))
     ∧ (let mine := s.cur.waitAt.filter fun y => y.1 == s.issue.pcb && y.2.1 == s.issue.slot
       let r : BarRec := { slot := s.issue.slot, bar := bar, group := BitVec.ofNat 8 g, holds := true
                           wait := some (Nat.max (n.phc + 1) seen) }
       (mine = [] → ∃ t, exec (.barWait bar a) s = .next t ∧ bound t ∧ t.ctxs = s.ctxs ∧ t.mem = s.mem ∧ SameScratch s t
         ∧ t.issue.waiting = true ∧ ∃ l, t.issue.recs = s.issue.recs ++ l ++ [.bar r])
       ∧ (∀ y l, mine = y :: l → ∃ t, exec (.barWait bar a) s = .next t ∧ bound t ∧ t.ctxs = s.ctxs ∧ t.mem = s.mem
         ∧ SameScratch s t ∧ t.issue.waiting = (s.issue.waiting || decide (n.phc < y.2.2))
         ∧ (y.2.2 ≤ n.phc → ∀ h, h < 16 → (t.head s.curCore h).stage = [])))
     ∧ (s.cur.syncAt = some s.issue.pcb → ∃ t, exec (.barSync bar a) s = .next t ∧ bound t ∧ t.ctxs = s.ctxs
       ∧ t.issue.waiting = (s.issue.waiting || decide (n.phc < seen))
       ∧ mget 0 (t.net b i.seq g).arrivals i.idx = seen
       ∧ (seen ≤ n.phc → ∀ h, h < 16 → (t.head s.curCore h).stage = []))
     ∧ (s.cur.syncAt ≠ some s.issue.pcb → ∃ t, exec (.barSync bar a) s = .next t ∧ bound t ∧ t.issue.waiting = true
       ∧ mget 0 (t.net b i.seq g).arrivals i.idx = seen + 1)
     ∧ (∃ t, exec (.bwaitTest d bar a) s = .next (t.resultS d 1 ((BitVec.ofNat 32 n.phc).setWidth 64)) ∧ bound t
       ∧ (∀ h, h < 16 → (t.head s.curCore h).stage = []) ∧ t.ctxs = s.ctxs ∧ t.mem = s.mem ∧ SameScratch s t)
     ∧ ((BitVec.ofNat 32 n.phc - (s.sVal a).extractLsb' 32 32).toNat < 2 ^ 31 →
       ∃ t, exec (.bwaitWait d bar a) s = .next (t.resultS d 1 ((BitVec.ofNat 32 n.phc).setWidth 64)) ∧ bound t
       ∧ (∀ h, h < 16 → (t.head s.curCore h).stage = []) ∧ t.ctxs = s.ctxs ∧ t.mem = s.mem ∧ SameScratch s t)
     ∧ (2 ^ 31 ≤ (BitVec.ofNat 32 n.phc - (s.sVal a).extractLsb' 32 32).toNat →
       ∃ t, exec (.bwaitWait d bar a) s = .next t ∧ bound t ∧ t.issue.waiting = true ∧ t.ctxs = s.ctxs))
  ∧ (∀ (d : BitVec 6) (bar : BitVec 7) (a : Src) (s : State), s.full [srcOf a 0] →
       let g := ((s.sVal a).extractLsb' 0 8).toNat
       (s.groupOf s.curStrand g = none
         ∨ ∃ y, s.binding s.curCore bar.toNat = some y ∧ y ≠ (s.curStrand.seq, g)) →
       let traps (j : Instr) : Prop := exec j s = .next (s.trap 0x01#8
         (0#48 ++ 6#4 ++ 0#1 ++ BitVec.ofNat 3 s.issue.slot ++ BitVec.ofNat 8 g : BitVec 64))
       traps (.barArrive bar a) ∧ traps (.barWait bar a) ∧ traps (.barSync bar a) ∧ traps (.bwaitTest d bar a)
       ∧ traps (.bwaitWait d bar a))

/-- 21 R300, R309, R306, 17 R261, 22 R332: LAUNCH, IFENCE LOAD and TTNEXT claim SD and become outstanding operations that
return a value to it; LAUNCH and TTNEXT wait for every earlier access of the strand. IFENCE WAIT goes on once no LOAD of the
strand is outstanding. TRIGGER, of a strand that has not triggered, leaves a release that waits for every earlier access; a
second one changes nothing. EXIT leaves the same release, and the strand is Exited; a trap still owed to it then leaves a
record of kind 1 (log 12). 21 R306: IFENCE ENTER, once no LOAD of
the strand is outstanding: the fetch ranges become the kernel's, or the overlay's where the strand has one, and PC goes to
the source. -/
def Obligations.ChildAndStrandRequests : Prop :=
  (∀ (d : BitVec 6) (a : Src) (q : BitVec 6) (s : State),
     let i := s.curStrand
     let earlier (p : Op) : Prop := ∀ o ∈ s.ops, o.owner = i → o.kind.standsStopped = false → o.id ∈ p.waits
     let asked (t : State) (p : Op) : Prop := t.ops = s.ops ++ [p] ∧ p.owner = i ∧ p.id = s.nextOp + 1
       ∧ p.dest = some (sReg d, s.nextOp) ∧ t.mem = s.mem ∧ t.cores = s.cores ∧ SlotFrame s t [sReg d]
       ∧ (d ≠ 0#6 → t.cur.regs.isEmpty (sReg d) = true)
     (s.full [srcOf a 0] → s.recordsUsed s.curCore < 64 →
       (∃ t p, exec (.launch d a q) s = .next t ∧ asked t p ∧ earlier p ∧ p.record = true
         ∧ ∃ e, p.kind = .launch (((s.sVal a).extractLsb' 0 57).toNat / 64 * 64) q.toNat s.issue.sr.pl e none none)
       ∧ (∃ t p, exec (.ifenceLoad d a) s = .next t ∧ asked t p ∧ p.record = true
         ∧ p.kind = .ifenceLoad (((s.sVal a).extractLsb' 0 57).toNat / 64 * 64)))
     ∧ (∃ t p, exec (.ttnext d) s = .next t ∧ asked t p ∧ earlier p ∧ p.kind = .ttnext)
     ∧ ((∀ o ∈ s.ops, o.owner = i → ∀ va, o.kind ≠ .ifenceLoad va) → exec .ifenceWait s = .next s)
     ∧ (∀ j, findJob i.seq s.jobs = some j → s.hasTriggered i = false →
       ∃ t p, exec .trigger s = .next t ∧ t = { s with ops := s.ops ++ [p], nextOp := s.nextOp + 1 } ∧ earlier p
         ∧ p.owner = i ∧ p.kind = .trigger (j.packet.extractLsb' 124 4).toNat)
     ∧ (s.hasTriggered i = true → exec .trigger s = .next s)
     ∧ (∀ x, s.strand i = some x →
       let clear := ∀ h, h < 16 → ∀ o, (s.head s.curCore h).fault ≠ some (o, i)
       ∃ t, exec .exit s = .next t ∧ t.hasExited i = true ∧ t.hasTriggered i = true ∧ t.mem = s.mem ∧ SameScratch s t
         ∧ (∀ c, t.ctx c = if c = s.issue.ctx then { s.ctx c with owed := [] } else s.ctx c)
         ∧ (clear → t.cores = s.cores)
         ∧ (clear → s.cur.owed = [] → t.records = s.records)
         ∧ (∀ o, clear → s.cur.owed = [o] → o.cause ≠ 0x1A#8 →
           ∃ r : EventRec, t.records = s.records ++ [r.bits s.dtime] ∧ r.kind = 1#4 ∧ r.cause = o.cause)))
  ∧ (∀ (a : Src) (overlay : Bool) (s : State), s.full [srcOf a 0] →
       (∀ o ∈ s.ops, o.owner = s.curStrand → ∀ va, o.kind ≠ .ifenceLoad va) →
       ∃ t, exec (.ifenceEnter a overlay) s = .next t ∧ t.cur.pc = (s.sVal a).setWidth 16
         ∧ t.cur.oor = decide (t.cur.idxlen.toNat ≤ (s.sVal a).toNat) ∧ t.cur.regs = s.cur.regs
         ∧ (∀ r : Ranges, (overlay = false ∧ r = s.cur.kernel ∨ overlay = true ∧ s.cur.overlay = some r) →
           t.cur.idxbase = r.idxbase ∧ t.cur.idxlen = r.idxlen
           ∧ t.cur.sr = { s.cur.sr with dictbase := r.dictbase, dictlen := r.dictlen })
         ∧ t.mem = s.mem ∧ t.cores = s.cores ∧ SameContextsBut s t s.issue.ctx)

/-! ### Vector slots -/

/-- 04 R69, R77, 23 R335, Table 23-3, R337, R341, R350: the vector instructions that move or combine bits. Each active lane
of VD receives the lane that the entry gives, each masked-off lane keeps its old value, no flag is raised, and the latency is
4 cycles, 2 for XMOV. Shift counts of 32 or more give 0, or the sign for VSAR. -/
def Obligations.VectorBitLanes : Prop :=
  ∀ (o : VR) (s : State),
    let d := vReg s.clusterB o.vd
    let m := s.mVal o.msk
    let a (i : Nat) : Lane := lane (s.vrA o) i
    let b (i : Nat) : Lane := lane (s.vrB o) i
    let gives (j : Instr) (lat : Nat) (r : Nat → Lane) : Prop := exec j s = .next (s.result d lat
      (.lanes (lanesOf fun i => if m.getLsbD i then r i else lane (s.oldVec d) i)) 0#5)
    (s.full (s.vrSources o 1) →
      gives (.vmov o) 4 a ∧ gives (.vnot o) 4 (fun i => ~~~a i) ∧ gives (.vclz o) 4 (fun i => (a i).clz))
    ∧ (s.full (s.vrSources o 2) →
      gives (.vand o) 4 (fun i => a i &&& b i) ∧ gives (.vor o) 4 (fun i => a i ||| b i)
      ∧ gives (.vxor o) 4 (fun i => a i ^^^ b i) ∧ gives (.vshl o) 4 (fun i => a i <<< (b i).toNat)
      ∧ gives (.vshr o) 4 (fun i => a i >>> (b i).toNat) ∧ gives (.vsar o) 4 (fun i => (a i).sshiftRight (b i).toNat)
      ∧ gives (.vperm o) 4 (fun i => a ((b i).toNat % 64)))
    ∧ (s.full (s.vrSources o 2 ++ [⟨mReg (o.vc.setWidth 4), false, 2⟩]) →
      gives (.vsel o) 4 fun i => if (s.mVal (o.vc.setWidth 4)).getLsbD i then a i else b i)
    ∧ (s.full (s.vrSources o 0) → gives (.vidx o) 4 fun i =>
      (if o.bsel = 1#2 then s.bpVal.setWidth 32 else 0#32) + BitVec.ofNat 32 i)
    ∧ (s.full [⟨vReg (!s.clusterB) o.va, o.pa, 0⟩, ⟨mReg o.msk, false, 3⟩] →
      gives (.xmov o) 2 fun i => lane (s.vVal (!s.clusterB) o.va) i)

/-- 05 R89, 23 R336, R337: integer lanes, i32 (TY 1) signed and n32 (TY 2) unsigned. The result is exact, then taken modulo
2^32, or with SAT clamped to the range of the type; a division by 0 gives all ones; the maximum and minimum compare as the
type says. Latency 4, 14 for VDIV; no flag. -/
def Obligations.VectorIntegerLanes : Prop :=
  ∀ (o : VR) (s : State), o.ty = 1#4 ∨ o.ty = 2#4 →
    let d := vReg s.clusterB o.vd
    let m := s.mVal o.msk
    let val (x : Lane) : Int := if o.ty = 1#4 then x.toInt else x.toNat
    let fit (v : Int) : Lane := BitVec.ofInt 32 (if o.sat then
        (if o.ty = 1#4 then max (-2147483648) (min 2147483647 v) else max 0 (min 4294967295 v)) else v)
    let a (i : Nat) : Int := val (lane (s.vrA o) i)
    let b (i : Nat) : Int := val (lane (s.vrB o) i)
    let c (i : Nat) : Int := val (lane (s.vrC o) i)
    let gives (j : Instr) (lat : Nat) (r : Nat → Lane) : Prop := exec j s = .next (s.result d lat
      (.lanes (lanesOf fun i => if m.getLsbD i then r i else lane (s.oldVec d) i)) 0#5)
    (s.full (s.vrSources o 1) → gives (.vabs o) 4 (fun i => fit (a i).natAbs) ∧ gives (.vneg o) 4 (fun i => fit (-a i)))
    ∧ (s.full (s.vrSources o 2) →
      gives (.vadd o) 4 (fun i => fit (a i + b i)) ∧ gives (.vsub o) 4 (fun i => fit (a i - b i))
      ∧ gives (.vmul o) 4 (fun i => fit (a i * b i))
      ∧ gives (.vdiv o) 14 (fun i => if b i = 0 then 0xFFFFFFFF#32 else fit ((a i).tdiv (b i)))
      ∧ gives (.vmax o) 4 (fun i => BitVec.ofInt 32 (max (a i) (b i)))
      ∧ gives (.vmin o) 4 (fun i => BitVec.ofInt 32 (min (a i) (b i))))
    ∧ (s.full (s.vrSources o 3) → gives (.vfma o) 4 fun i => fit (a i * b i + c i))

/-- 05 R94 to R99, 23 R336: f32 lanes. Each active lane is the exact value of the operation, its operands read under ZI,
rounded once under RM, SAT and ZO. When a lane raises a flag whose enable is set in FCTL, FP_TRAP is raised with the lowest
such lane and every flag raised, and nothing is written; otherwise the result lands with the union of the flags, and SRCNT
advances by 64 under stochastic rounding of an instruction that rounds by RM. -/
def Obligations.VectorFloatLanes : Prop :=
  ∀ (o : VR) (s : State), o.ty = 0#4 →
    let d := vReg s.clusterB o.vd
    let m := s.mVal o.msk
    let num (v : Vec) (i : Nat) : ExactNum := rd o.zi (lane v i)
    let a := num (s.vrA o)
    let b := num (s.vrB o)
    let c := num (s.vrC o)
    let runs (j : Instr) (n lat : Nat) (rounds : Bool) (f : Nat → ExactNum × Flags) : Prop :=
      let draws := rounds && o.rm == 4#3
      let one (i : Nat) : Lane × Flags := wr (f i) o.rm.toNat (if draws then s.draw i else 0) o.sat o.zo
      let raised (i : Nat) : Flags := if m.getLsbD i then (one i).2 else 0#5
      let all : Flags := (List.range 64).foldl (fun w i => w ||| raised i) 0#5
      let enabled (i : Nat) : Prop := i < 64 ∧ raised i &&& s.issue.sr.fctl.setWidth 5 ≠ 0#5
      s.full (s.vrSources o n) →
        ((∀ i, ¬enabled i) → exec j s = .next
          (let t := s.result d lat (.lanes (lanesOf fun i => if m.getLsbD i then (one i).1 else lane (s.oldVec d) i)) all
           if draws then t.modCur fun x => { x with srcnt := x.srcnt + 64#64 } else t))
        ∧ (∀ i, enabled i → (∀ k, k < i → ¬enabled k) →
          exec j s = .next (s.trap 0x30#8 (0#50 ++ BitVec.ofNat 6 i ++ 0#3 ++ all : BitVec 64)))
    runs (.vadd o) 2 4 true (fun i => (a i).add o.rm.toNat (b i))
    ∧ runs (.vsub o) 2 4 true (fun i => (a i).add o.rm.toNat (b i).negate)
    ∧ runs (.vmul o) 2 4 true (fun i => (a i).mul (b i))
    ∧ runs (.vfma o) 3 4 true (fun i => (a i).fma o.rm.toNat (b i) (c i))
    ∧ runs (.vdiv o) 2 14 true (fun i => (a i).div (b i))
    ∧ runs (.vsqrt o) 1 14 true (fun i => (a i).sqrt)
    ∧ runs (.vexp2 o) 1 8 false (fun i => ((a i).exp2, 0#5))
    ∧ runs (.vlog2 o) 1 8 false (fun i => (a i).log2)

/-- 23 R337: VABS and VNEG of f32 lanes clear and invert the sign bit, and give the canonical NaN for a NaN; VMAX and VMIN
give the larger and the smaller operand, and a NaN operand gives the canonical NaN, or the other operand with the num
modifier. No flag is raised. -/
def Obligations.FloatSignAndExtremes : Prop :=
  ∀ (o : VR) (s : State), o.ty = 0#4 → o.zi = false →
    let d := vReg s.clusterB o.vd
    let m := s.mVal o.msk
    let a (i : Nat) : Lane := lane (s.vrA o) i
    let b (i : Nat) : Lane := lane (s.vrB o) i
    let nan (x : Lane) : Bool := (x &&& 0x7FFFFFFF#32).ult 0x7F800001#32 == false
    -- the total order of the non-NaN codes, −0 below +0
    let key (x : Lane) : Int := if x.getLsbD 31 then -1 - (x &&& 0x7FFFFFFF#32).toNat else x.toNat
    let gives (j : Instr) (r : Nat → Lane) : Prop := exec j s = .next (s.result d 4
      (.lanes (lanesOf fun i => if m.getLsbD i then r i else lane (s.oldVec d) i)) 0#5)
    let pick (larger : Bool) (i : Nat) : Lane :=
      if nan (a i) && nan (b i) then 0x7FC00000#32
      else if nan (a i) then (if o.vc = 1#5 then b i else 0x7FC00000#32)
      else if nan (b i) then (if o.vc = 1#5 then a i else 0x7FC00000#32)
      else if larger == decide (key (b i) ≤ key (a i)) then a i else b i
    (s.full (s.vrSources o 1) →
      gives (.vabs o) (fun i => if nan (a i) then 0x7FC00000#32 else a i &&& 0x7FFFFFFF#32)
      ∧ gives (.vneg o) (fun i => if nan (a i) then 0x7FC00000#32 else a i ^^^ 0x80000000#32))
    ∧ (s.full (s.vrSources o 2) → gives (.vmax o) (pick true) ∧ gives (.vmin o) (pick false))

/-- 05 R94: a value that f32 holds is rounded to itself, in every mode and without a flag. -/
def Obligations.RoundingKeepsF32Values : Prop :=
  ∀ (x : BitVec 32) (rm r : Nat) (sat : Bool), isNan32 x = false →
    f32.round (f32.dec x.toNat) rm r sat false = (x.toNat, 0#5)

/-- 23 R338, R341, R351, R352: VCMP writes the mask of the lanes whose condition holds, the old bits where the lane is masked
off, and raises no flag; of f32 lanes a NaN makes every condition but ne false, −0 is +0, and ZI reads a subnormal as 0. VEXT
writes one lane to an s register; VMASK moves a mask to an s register, or the broadcast value to a mask; VPOP removes the oldest
entry of the queue and writes its active lanes; VRNG writes counter-based random lanes. -/
def Obligations.MasksLanesAndQueues : Prop :=
  ∀ (o : VR) (d : BitVec 6) (va vd : BitVec 5) (pa bp qp : Bool) (ln : BitVec 6) (ty mk : BitVec 4) (q : BitVec 3) (s : State),
    let m := s.mVal o.msk
    (o.ty = 1#4 ∨ o.ty = 2#4 → s.full (s.vrSources o 2) →
      let val (x : Lane) : Int := if o.ty = 1#4 then x.toInt else x.toNat
      let a (i : Nat) : Int := val (lane (s.vrA o) i)
      let b (i : Nat) : Int := val (lane (s.vrB o) i)
      let holds (i : Nat) : Bool := match o.vc.toNat with
        | 0 => a i == b i
        | 1 => a i != b i
        | 2 => a i < b i
        | 3 => a i ≤ b i
        | 4 => b i < a i
        | _ => b i ≤ a i
      ∃ w : Word, exec (.vcmp o) s = .next (s.result (mReg (o.vd.setWidth 4)) 4 (.word w) 0#5)
        ∧ ∀ i, i < 64 → w.getLsbD i = if m.getLsbD i then holds i else (s.cur.regs.mGet (o.vd.setWidth 4)).getLsbD i)
    ∧ (o.ty = 0#4 → s.full (s.vrSources o 2) →
      let mag (x : Lane) : Nat := (x &&& 0x7FFFFFFF#32).toNat
      let num (x : Lane) : Int := if o.zi && mag x < 0x800000 then 0 else if x.getLsbD 31 then -(mag x : Int) else mag x
      let holds (i : Nat) : Bool :=
        let a := lane (s.vrA o) i
        let b := lane (s.vrB o) i
        if 0x7F800000 < mag a || 0x7F800000 < mag b then o.vc.toNat == 1 else match o.vc.toNat with
        | 0 => num a == num b
        | 1 => num a != num b
        | 2 => num a < num b
        | 3 => num a ≤ num b
        | 4 => num b < num a
        | _ => num b ≤ num a
      ∃ w : Word, exec (.vcmp o) s = .next (s.result (mReg (o.vd.setWidth 4)) 4 (.word w) 0#5)
        ∧ ∀ i, i < 64 → w.getLsbD i = if m.getLsbD i then holds i else (s.cur.regs.mGet (o.vd.setWidth 4)).getLsbD i)
    ∧ (s.full [⟨vReg s.clusterB va, pa, 0⟩] →
      let x := lane (s.vVal s.clusterB va) (if bp then s.bpVal.toNat % 64 else ln.toNat)
      exec (.vext d va pa ln ty bp) s = .next (s.resultS d 4 (if ty = 1#4 then x.signExtend 64 else x.setWidth 64)))
    ∧ (s.full [⟨mReg mk, false, 3⟩] → exec (.vmask d mk) s = .next (s.resultS d 4 (s.mVal mk)))
    ∧ exec (.vmaskWrite mk) s = .next (s.result (mReg mk) 4 (.word s.bpVal) 0#5)
    ∧ (s.full [⟨mReg mk, false, 3⟩] → ∀ e l, s.queue q = e :: l →
      let u := s.popQueue q
      let w := vReg s.clusterB vd
      exec (.vpop vd q qp mk) s = .next (u.result w 4
          (.lanes (lanesOf fun i => if (s.mVal mk).getLsbD i then lane e i else lane (s.oldVec w) i)) 0#5)
      ∧ u.queue q = l ∧ SameScratch s u ∧ u.mem = s.mem ∧ u.ctxs = s.ctxs)
    ∧ (s.full [⟨mReg mk, false, 3⟩] → s.queue q = [] →
      exec (.vpop vd q true mk) s = .next (s.trap 0x11#8 (q.setWidth 64)) ∧ exec (.vpop vd q false mk) s = .next s.yields)
    ∧ (∀ (x : BitVec 14) (y : BitVec 13), decodeVector (0x17#8 ++ vd ++ q ++ BitVec.ofBool qp ++ x ++ mk ++ y) =
      if x = 0#14 ∧ y = 0#13 then .ok (.vpop vd q qp mk) else .error .badField)
    ∧ (s.full ((if s.issue.ximm.isSome then [] else [⟨vReg s.clusterB va, pa, 0⟩]) ++ [⟨mReg mk, false, 3⟩]) →
      let v := s.vVal s.clusterB va
      let base : Word := match s.issue.ximm with
        | some x => x.setWidth 64
        | none => (lane v 1).setWidth 64 <<< 32 ||| (lane v 0).setWidth 64
      let w := vReg s.clusterB vd
      exec (.vrng vd va pa mk) s = .next (s.result w 4 (.lanes (lanesOf fun i =>
        if (s.mVal mk).getLsbD i then mix s.bpVal (base + BitVec.ofNat 64 i) else lane (s.oldVec w) i)) 0#5))

/-- 23 R346 to R349: the cross-lane instructions, f32, i32 and n32. VREDADD adds 64 lanes, the identity where one is masked
off, in six levels of neighbouring pairs, each sum rounded once, or clamped with SAT, into every active lane; VREDMAX and
VREDMIN give the greatest and the least active lane, −0 below +0, the canonical NaN with a NaN; with no active lane nothing
changes and no flag is raised. VSCAN writes the inclusive prefix sums, each rounded from the one before. ZI reads the sources.
The flags of a tree are of the lowest active lane; an enabled flag raises FP_TRAP with the lowest lane that raised one. VORD
writes the numbers of the active lanes in the order of their values, ascending or descending, equal ones by lane number, a NaN
above all, into the first lanes. -/
def Obligations.CrossLaneResults : Prop :=
  ∀ (o : VR) (s : State), o.ty.toNat ≤ 2 → s.full (s.vrSources o 1) →
    let d := vReg s.clusterB o.vd
    let m := s.mVal o.msk
    let active := (List.range 64).filter fun i => m.getLsbD i
    let a (i : Nat) : Lane := lane (s.vrA o) i
    let float := o.ty == 0#4
    let mag (x : Lane) : Nat := (x &&& 0x7FFFFFFF#32).toNat
    let nan (x : Lane) : Bool := 0x7F800000 < mag x
    let src (i : Nat) : Lane := if float && o.zi && mag (a i) < 0x800000 then a i &&& 0x80000000#32 else a i
    let val (x : Lane) : Int := if o.ty = 1#4 then x.toInt else x.toNat
    let fit (v : Int) : Lane := BitVec.ofInt 32 (if o.sat then
        (if o.ty = 1#4 then max (-2147483648) (min 2147483647 v) else max 0 (min 4294967295 v)) else v)
    let plus (x y : Lane) : Lane × Flags :=
      if float then wr ((rd false x).add o.rm.toNat (rd false y)) o.rm.toNat 0 o.sat o.zo else (fit (val x + val y), 0#5)
    let level (k : Nat) : Nat → Lane := (List.range k).foldl (fun v _ j => (plus (v (2 * j)) (v (2 * j + 1))).1)
      fun i => if m.getLsbD i then src i else if float then 0x80000000#32 else 0#32
    let union (l : List Flags) : Flags := l.foldl (fun x y => x ||| y) 0#5
    let inTree : Flags := if active = [] then 0#5 else union ((List.range 6).flatMap fun k =>
      (List.range (32 / 2 ^ k)).map fun j => (plus (level k (2 * j)) (level k (2 * j + 1))).2)
    let enabled (g : Flags) : Prop := g &&& s.issue.sr.fctl.setWidth 5 ≠ 0#5
    let gives (j : Instr) (lat : Nat) (r : Nat → Lane) (g : Flags) : Prop := exec j s = .next (s.result d lat
      (.lanes (lanesOf fun i => if m.getLsbD i then r i else lane (s.oldVec d) i)) g)
    let traps (j : Instr) (i : Nat) (g : Flags) : Prop :=
      exec j s = .next (s.trap 0x30#8 (0#50 ++ BitVec.ofNat 6 i ++ 0#3 ++ g : BitVec 64))
    let key (i : Nat) : Int := if float then (if (src i).getLsbD 31 then -1 - (mag (src i) : Int) else mag (src i)) else val (a i)
    let rank (i : Nat) : Int :=
      if float then (if nan (a i) then 2 ^ 33 else if (src i).getLsbD 31 then -(mag (src i) : Int) else mag (src i)) else val (a i)
    (¬enabled inTree → gives (.vredadd o) 6 (fun _ => level 6 0) inTree)
    ∧ (∀ i, active.head? = some i → enabled inTree → traps (.vredadd o) i inTree)
    ∧ (active = [] → gives (.vredmax o) 6 a 0#5 ∧ gives (.vredmin o) 6 a 0#5)
    ∧ (float = true → (∃ i ∈ active, nan (a i) = true) →
      gives (.vredmax o) 6 (fun _ => 0x7FC00000#32) 0#5 ∧ gives (.vredmin o) 6 (fun _ => 0x7FC00000#32) 0#5)
    ∧ ((float = true → ∀ i ∈ active, nan (a i) = false) → ∀ k ∈ active,
      ((∀ i ∈ active, key i ≤ key k) → gives (.vredmax o) 6 (fun _ => src k) 0#5)
      ∧ ((∀ i ∈ active, key k ≤ key i) → gives (.vredmin o) 6 (fun _ => src k) 0#5))
    ∧ (∃ r : Nat → Lane × Flags,
      (∀ i ∈ active, (∀ k ∈ active, i ≤ k) → r i = if float then wr (rd o.zi (a i), 0#5) o.rm.toNat 0 o.sat o.zo else (a i, 0#5))
      ∧ (∀ k ∈ active, ∀ i ∈ active, k < i → (∀ l ∈ active, l ≤ k ∨ i ≤ l) → r i = plus (r k).1 (src i))
      ∧ ((∀ i ∈ active, ¬enabled (r i).2) → gives (.vscan o) 8 (fun i => (r i).1) (union (active.map fun i => (r i).2)))
      ∧ ∀ i ∈ active, enabled (r i).2 → (∀ k ∈ active, k < i → ¬enabled (r k).2) →
        traps (.vscan o) i (union (active.map fun i => (r i).2)))
    ∧ ∃ order : List Nat, order.Perm active
      ∧ order.Pairwise (fun i k => (if o.vc = 1#5 then rank k < rank i else rank i < rank k) ∨ rank i = rank k ∧ i < k)
      ∧ exec (.vord o) s = .next (s.result d 4 (.lanes (lanesOf fun i =>
          if i < order.length then BitVec.ofNat 32 (nth 0 order i) else lane (s.oldVec d) i)) 0#5)

/-- 23 R339, R340: VCVT between any two of its formats. The registers are strings of 2,048 bits, of which element j of a format
of w bits takes bits [wj + w − 1 : wj]; lane i stands for element i + 64·PART of a format narrower than 32 bits, and for
element i of one of 32 bits. Each active lane's source element, read under ZI, is rounded once to the destination format into
its element, and every other element keeps its bits. Without an enabled flag the result lands after 4 cycles with the union of
the flags, and SRCNT advances under stochastic rounding; an enabled flag raises FP_TRAP with the lowest lane that raised one
and every flag raised. -/
def Obligations.VectorConversions : Prop :=
  ∀ (o : VCvt) (s : State) (sf df : Fmt), Fmt.ofCode o.sf.toNat = some sf → Fmt.ofCode o.df.toNat = some df →
    (∀ f ∈ [sf, df], f.width < 32 → o.part.toNat < 32 / f.width) → (sf.width = 32 → df.width = 32 → o.part = 0#3) →
    s.full [⟨vReg s.clusterB o.va, o.pa, 0⟩, ⟨mReg o.msk, false, 3⟩] →
    let d := vReg s.clusterB o.vd
    let m := s.mVal o.msk
    let draws := o.rm == 4#3
    let index (f : Fmt) (i : Nat) : Nat := if f.width < 32 then i + 64 * o.part.toNat else i
    let elem (f : Fmt) (v : Vec) (j : Nat) : Nat := (lane v (f.width * j / 32)).toNat / 2 ^ (f.width * j % 32) % 2 ^ f.width
    let one (i : Nat) : Nat × Flags := roundTo (sf.decZi o.zi (elem sf (s.vVal s.clusterB o.va) (index sf i))) df o.rm.toNat
      (if draws then s.draw i else 0) o.sat o.zo
    let raised (i : Nat) : Flags := if m.getLsbD i then (one i).2 else 0#5
    let all : Flags := (List.range 64).foldl (fun w i => w ||| raised i) 0#5
    let enabled (i : Nat) : Prop := i < 64 ∧ raised i &&& s.issue.sr.fctl.setWidth 5 ≠ 0#5
    ((∀ i, ¬enabled i) → ∃ v : Vec, exec (.vcvt o) s = .next
        (let t := s.result d 4 (.lanes v) all
         if draws then t.modCur fun x => { x with srcnt := x.srcnt + 64#64 } else t)
      ∧ v.length = 64
      ∧ (∀ i, i < 64 → m.getLsbD i = true → elem df v (index df i) = (one i).1 % 2 ^ df.width)
      ∧ ∀ j, j < 2048 / df.width → (∀ i, i < 64 → m.getLsbD i = true → j ≠ index df i) → elem df v j = elem df (s.oldVec d) j)
    ∧ (∀ i, enabled i → (∀ k, k < i → ¬enabled k) →
      exec (.vcvt o) s = .next (s.trap 0x30#8 (0#50 ++ BitVec.ofNat 6 i ++ 0#3 ++ all : BitVec 64)))

/-! ### The L slot -/

/-- 06 R108, R110, R112, R113, 22 R326, R327, 23 R343, R344: the local loads, when no engine's unperformed write and no packed
granule meets what they read, and program order holds them behind no outstanding operation (log 23). SLD reads the bytes that TY
names at base plus offset, rounded down to the natural alignment, sign- or zero-extended; VLD reads 64 words, consecutive or
along a row or a column of a skewed tile; VLDX reads the word that each active lane's index names. TAGLU finds the lowest entry
of the tag table that matches key and tenant, 0xFFFF with none. -/
def Obligations.LocalLoadsReadTheScratchpad : Prop :=
  ∀ (d vr : BitVec 6) (vi : VSrc) (a : Src) (ty : BitVec 3) (off : BitVec 16) (mode : BitVec 2) (mx : BitVec 4) (s : State),
    let k := s.curCore
    let c := s.core k
    let clear (common : Bool) (l : List Range) : Prop := s.lReadBlocked k l common = false ∧ ∀ r ∈ l, c.isPacked r = false
    (s.full [srcOf a 0] → ty ≠ 7#3 →
      let n := 2 ^ (ty.toNat / 2)
      let x := (s.sVal a + off.signExtend 64).toNat % 0x4000000 / n * n
      let p := x % 0x400000
      let v := leNat (c.spBytes p n)
      x < 0x2000000 → clear true [⟨p, n⟩] → exec (.sld d a ty off) s = .next (s.resultS d 6
        (if ty.toNat % 2 = 0 ∧ ty.toNat < 6 then (BitVec.ofNat (8 * n) v).signExtend 64 else BitVec.ofNat 64 v)))
    ∧ (s.full [srcOf a 0] → mode ≠ 3#2 →
      let x := (s.sVal a).toNat
      let tile := x / 16384 % 256 * 16384
      let rc := x / 256 % 64
      let at_ (i : Nat) : Nat := match mode.toNat with
        | 0 => (x % 0x400000 / 4 * 4 + 4 * i) % 0x400000
        | 1 => tile + 256 * rc + 4 * ((rc + i) % 64)
        | _ => tile + 256 * i + 4 * ((i + rc) % 64)
      (mode = 0#2 → (s.sVal a).getLsbD 25 = false) → clear true ((List.range 64).map fun i => ⟨at_ i, 4⟩) →
        exec (.vld vr a mode) s = .next (s.result (vReg6 vr) 6 (.lanes (lanesOf fun i => c.spWord (at_ i))) 0#5))
    ∧ (s.full [srcOf a 0, ⟨vReg6 vi.reg, vi.pol, 1⟩, ⟨mReg mx, false, 3⟩] →
      let at_ (i : Nat) : Nat :=
        ((s.sVal a).toNat % 0x400000 / 4 * 4 + 4 * ((lane (s.vsVal vi) i).toNat % 0x100000)) % 0x400000
      let m := s.mVal mx
      let as := ((List.range 64).filter fun i => m.getLsbD i).map at_
      clear false (as.map fun p => ⟨p, 4⟩) → exec (.vldx vr vi a mx) s = .next ((s.result (vReg6 vr) 6 (.lanes (lanesOf fun i =>
        if m.getLsbD i then c.spWord (at_ i) else lane (s.cur.regs.get (vReg6 vr)).toVec i)) 0#5).bankFreeze as))
    ∧ (s.full [srcOf a 0] →
      let hit (i : Nat) : Prop := (c.tagEntry i).valid = true ∧ (c.tagEntry i).key = (s.sVal a).setWidth 63
        ∧ (c.tagEntry i).tenant = s.tenantOf s.curStrand
      (∀ i, i < 256 → hit i → (∀ j, j < i → ¬hit j) → exec (.taglu d a) s = .next (s.resultS d 3 (BitVec.ofNat 64 i)))
      ∧ ((∀ i, i < 256 → ¬hit i) → exec (.taglu d a) s = .next (s.resultS d 3 0xFFFF#64)))

/-- 06 R108, R112, 21 R302, 22 R326, R327, 23 R343 to R345: the local stores, when no engine's unperformed access meets what
they write, and program order holds them behind no outstanding operation (log 23). Each byte or word of the stored addresses
reads as stored: the low bytes of SST's register, the lanes of VST, the active lanes of VSTX (the higher lane remains where two
name one address), the removed queue entry of VSTQ, the constant of FILL in lanes f to f + n − 1; EVERY OTHER BYTE of every
scratchpad, and device memory, reads as before, and the registers keep their values. TAGSET writes one entry of the tag table.
-/
def Obligations.LocalStoresWriteTheirBytes : Prop :=
  ∀ (v : Src) (vv vi : VSrc) (a : Src) (ty : BitVec 3) (off : BitVec 16) (mode : BitVec 2) (mx : BitVec 4) (q : BitVec 3)
    (qp : Bool) (o : FillF) (s : State),
    let k := s.curCore
    let clear (common : Bool) (l : List Range) : Prop := s.lWriteBlocked k l common = false
    -- the words `at_ i` of the lanes that `on` holds read as `w i`, the last such lane at an address; every other byte stays
    let stores (j : Instr) (on : Nat → Prop) (at_ : Nat → Nat) (w : Nat → Lane) : Prop :=
      ∃ t, exec j s = .next t ∧ SlotFrame s t []
        ∧ (∀ i, i < 64 → on i → (∀ l, i < l → l < 64 → on l → at_ l ≠ at_ i) → (t.core k).spWord (at_ i) = w i)
        ∧ SameScratchBut s t k fun b => ∃ i, i < 64 ∧ on i ∧ at_ i ≤ b ∧ b < at_ i + 4
    (s.full [srcOf a 0, srcOf v 3] → ty ≠ 7#3 →
      let n := 2 ^ (ty.toNat / 2)
      let x := (s.sVal a + off.signExtend 64).toNat % 0x4000000 / n * n
      let p := x % 0x400000
      x < 0x2000000 → clear true [⟨p, n⟩] → ∃ t, exec (.sst v a ty off) s = .next t ∧ SlotFrame s t []
        ∧ (∀ i, i < n → (t.core k).spByte (p + i) = (s.sVal v >>> (8 * i)).setWidth 8)
        ∧ SameScratchBut s t k fun b => p ≤ b ∧ b < p + n)
    ∧ (s.full [srcOf a 0, ⟨vReg6 vv.reg, vv.pol, 3⟩] → mode ≠ 3#2 → (mode = 0#2 → (s.sVal a).getLsbD 25 = false) →
      let at_ (i : Nat) : Nat := laneAddr mode.toNat (s.sVal a) i
      clear true ((List.range 64).map fun i => ⟨at_ i, 4⟩) →
        stores (.vst vv a mode) (fun _ => True) at_ (lane (s.vsVal vv)))
    ∧ (s.full [srcOf a 0, ⟨vReg6 vi.reg, vi.pol, 1⟩, ⟨vReg6 vv.reg, vv.pol, 3⟩, ⟨mReg mx, false, 3⟩] →
      let at_ (i : Nat) : Nat :=
        ((s.sVal a).toNat % 0x400000 / 4 * 4 + 4 * ((lane (s.vsVal vi) i).toNat % 0x100000)) % 0x400000
      let m := s.mVal mx
      clear false (((List.range 64).filter fun i => m.getLsbD i).map fun i => ⟨at_ i, 4⟩) →
        stores (.vstx vv vi a mx) (fun i => m.getLsbD i = true) at_ (lane (s.vsVal vv)))
    ∧ (s.full [srcOf a 0] → ∀ e l, s.queue q = e :: l →
      let at_ (i : Nat) : Nat := ((s.sVal a).toNat % 0x400000 / 4 * 4 + 4 * i) % 0x400000
      clear false ((List.range 64).map fun i => ⟨at_ i, 4⟩) →
        stores (.vstq q a qp) (fun _ => True) at_ (lane e)
        ∧ ∃ t, exec (.vstq q a qp) s = .next t ∧ t.queue q = l)
    ∧ (s.full ([srcOf o.a 0, srcOf o.b 1] ++ if o.bps then [] else [srcOf o.c 2]) → o.mode ≠ 3#2 →
      let n := (s.sVal o.b).toNat % 128
      let f := (s.sVal o.b).toNat / 256 % 64
      let at_ (i : Nat) : Nat := laneAddr o.mode.toNat (s.sVal o.a) i
      f + n ≤ 64 → clear false ((List.range n).map fun i => ⟨at_ (f + i), 4⟩) →
        stores (.fill o) (fun i => f ≤ i ∧ i < f + n) at_ fun _ => ((if o.bps then s.bpVal else s.sVal o.c).setWidth 32))
    ∧ (s.full [srcOf a 0, srcOf v 1] → ∃ t, exec (.tagset a v) s = .next t ∧ SlotFrame s t [] ∧ SameScratch s t
        ∧ (t.core k).tagEntry ((s.sVal a).toNat % 256)
          = ⟨(s.sVal v).getLsbD 63, (s.sVal v).setWidth 63, s.tenantOf s.curStrand⟩
        ∧ ∀ i, i ≠ (s.sVal a).toNat % 256 → (t.core k).tagEntry i = (s.core k).tagEntry i)

/-- 06 R125, R115, 04 Table 4-16: an L-slot access that meets an engine's unperformed access, or that program order
holds behind an outstanding one of its strand (08 R154, log 23), yields; a load that meets a packed granule raises
PACKED_READ with the lowest packed byte that it reads. FILL of more than 64 lanes, or beyond lane 63, raises XFER_SIZE
reason 6. Shown for SLD and SST, and for FILL. -/
def Obligations.LocalAccessesYieldOrTrap : Prop :=
  ∀ (d : BitVec 6) (v a : Src) (ty : BitVec 3) (off : BitVec 16) (o : FillF) (s : State), ty ≠ 7#3 →
    let n := 2 ^ (ty.toNat / 2)
    let x := (s.sVal a + off.signExtend 64).toNat % 0x4000000 / n * n
    let r : Range := ⟨x % 0x400000, n⟩
    let c := s.core s.curCore
    (x < 0x2000000 →
      (s.full [srcOf a 0] → s.lReadBlocked s.curCore [r] true = true → exec (.sld d a ty off) s = .next s.yields)
      ∧ (s.full [srcOf a 0, srcOf v 3] → s.lWriteBlocked s.curCore [r] true = true → exec (.sst v a ty off) s = .next s.yields)
      ∧ (s.full [srcOf a 0] → s.lReadBlocked s.curCore [r] true = false → c.isPacked r = true →
        exec (.sld d a ty off) s = .next (s.trap 0x19#8 (BitVec.ofNat 64 (r.start * 256)))))
    ∧ (s.full ([srcOf o.a 0, srcOf o.b 1] ++ if o.bps then [] else [srcOf o.c 2]) →
      64 < (s.sVal o.b).toNat / 256 % 64 + (s.sVal o.b).toNat % 128 → exec (.fill o) s = .next (s.trap 0x18#8 6#64))

/-- 06 R110, R111, 22 R326, 23 R343: SLD, SST, VLD and VST at a cluster address become an outstanding operation, one of the
core's 32 remote accesses, and yield while all are in use. It performs at the core and offset that the address names: a store
writes its bytes there, 256 for VST, and changes no other byte of any scratchpad; a load returns the bytes, or 64 consecutive
words, to its register, until which it stays one of the 32. -/
def Obligations.RemoteAccessesPerformAtTheirTarget : Prop :=
  (∀ (d vr : BitVec 6) (v a : Src) (vv : VSrc) (ty : BitVec 3) (off : BitVec 16) (s : State),
    let n := 2 ^ (ty.toNat / 2)
    let x := (s.sVal a + off.signExtend 64).toNat % 0x4000000 / n * n
    let y := (s.sVal a).toNat % 0x4000000 / 4 * 4
    let free := s.slotsUsed s.curCore < 32
    let taken (i : Instr) (k : OpKind) (dest : Option RegName) : Prop :=
      (free → ∃ t p, exec i s = .next t ∧ t.ops = s.ops ++ [p] ∧ p.kind = k ∧ p.slot = true
        ∧ p.dest = dest.map (·, s.nextOp) ∧ SlotFrame s t dest.toList ∧ SameScratch s t)
      ∧ (¬free → exec i s = .next s.yields)
    (ty ≠ 7#3 → 0x2000000 ≤ x →
      (s.full [srcOf a 0] → taken (.sld d a ty off) (.rload x n (decide (ty.toNat % 2 = 0 ∧ ty.toNat < 6)) false) (some (sReg d)))
      ∧ (s.full [srcOf a 0, srcOf v 3] → taken (.sst v a ty off) (.rstore x (leBytes n (s.sVal v).toNat)) none))
    ∧ ((s.sVal a).getLsbD 25 = true →
      (s.full [srcOf a 0] → taken (.vld vr a 0#2) (.rload y 256 false true) (some (vReg6 vr)))
      ∧ (s.full [srcOf a 0, ⟨vReg6 vv.reg, vv.pol, 3⟩] →
        taken (.vst vv a 0#2) (.rstore y ((s.vsVal vv).flatMap fun l => leBytes 4 l.toNat)) none)))
  ∧ (∀ (op : Nat) (o : Op) (s : State) (y : Nat) (bs : List Byte), s.op op = some o → s.ready o = true →
      y < 0x4000000 → 0x2000000 ≤ y →
      let k := 8 * (o.core / 8) + y / 0x400000 % 8
      let p := y % 0x400000
      (o.kind = .rstore y bs → bs.length ≤ 256 → ∃ t, exec (.remoteAccessPerform op) s = .next t
        ∧ (∀ i (h : i < bs.length), (t.core k).spByte (p + i) = bs[i])
        ∧ (SameScratchBut s t k fun b => ∃ i, i < bs.length ∧ b = (p + i) % 0x400000)
        ∧ t.mem = s.mem ∧ t.ctxs = s.ctxs ∧ t.op op = none)
      ∧ (∀ m sg, o.kind = .rload y m sg false → exec (.remoteAccessPerform op) s = .next ((s.deliver o.owner o.dest
          (.word (if sg then (BitVec.ofNat (8 * m) (leNat ((s.core k).spBytes p m))).signExtend 64
            else BitVec.ofNat 64 (leNat ((s.core k).spBytes p m)))) o.slot).endOp op))
      ∧ (∀ m sg, o.kind = .rload y m sg true → exec (.remoteAccessPerform op) s = .next ((s.deliver o.owner o.dest
          (.lanes (lanesOf fun i => (s.core k).spWord (p + 4 * i))) o.slot).endOp op)))

/-- 06 R125 to R128, R115, 23 R356: XFORM with a job card that the Rubric passes, a source that holds no packed granule unless
the card starts with EXPD, and fewer than four jobs running becomes an outstanding operation that reads its source and writes
its destination and side array; EXPD clears the marks of its source, PACK marks its output. A card that breaks a rule raises
RUBRIC with the rule and its position, an oversized source XFER_SIZE reason 3, a packed source PACKED_READ; with four jobs
running the bundle yields, and so it does while an EXPD with PACK whose output may reach the source is at work. Once ready and clear of
earlier accesses it completes: the operation leaves, its destination holds what the stages make of its source, its side array
theirs, no other byte changes, and a mark that it had reserved covers its output. CVT, SCALE and NEG convert, scale and
negate each element. It rests on the model's readings of log 17. -/
def Obligations.XformRunsItsCard : Prop :=
  ∀ (c x d n : Src) (s : State),
    let k := s.curCore
    let card := s.sVal c
    let src := (s.sVal x).toNat % 0x400000
    let dst := (s.sVal d).toNat % 0x400000
    let len := (s.sVal n).toNat
    let m := (s.core k).streamCount card src len
    let out := outBytes card m
    (s.full [srcOf c 0, srcOf x 1, srcOf d 2, srcOf n 3] →
      (0x400000 < len → exec (.xform c x d n) s = .next (s.trap 0x18#8 3#64))
      ∧ (len ≤ 0x400000 → ∀ r p, rubric card src dst len out = some (r, p) →
        exec (.xform c x d n) s = .next (s.trap 0x1B#8 (BitVec.ofNat 64 (r + 16 * p))))
      ∧ (len ≤ 0x400000 → rubric card src dst len out = none → (s.core k).unsettled ⟨src, len⟩ = true →
        exec (.xform c x d n) s = .next s.yields)
      ∧ (len ≤ 0x400000 → rubric card src dst len out = none → (s.core k).unsettled ⟨src, len⟩ = false → cardHas card 1 = false →
        ∀ p, (s.core k).packedByte ⟨src, len⟩ = some p →
        exec (.xform c x d n) s = .next (s.trap 0x19#8 (packedInfo 0 2 p)))
      ∧ (len ≤ 0x400000 → rubric card src dst len out = none → (s.core k).unsettled ⟨src, len⟩ = false →
        let expd := cardHas card 1
        let pack := cardHas card 5
        let cleared := if expd then (s.core k).clearPacked ⟨src, len⟩ else s.core k
        let most := s.rangeCount k card.toNat src len
        let running := (s.ops.filter fun o => o.core == k && (match o.kind with | .xform .. => true | _ => false)).length
        (expd = false → (s.core k).packedByte ⟨src, len⟩ = none) →
        ∀ core, (if !pack then some cleared else if !s.openSource k card src len then cleared.markPacked ⟨dst, out⟩ s.curStrand.seq
          else cleared.reservePacked ⟨dst, outBytes card most⟩ s.curStrand.seq s.nextOp) = some core →
        (4 ≤ running → exec (.xform c x d n) s = .next s.yields)
        ∧ (running < 4 → ∃ t p, exec (.xform c x d n) s = .next t ∧ t.ops = s.ops ++ [p]
          ∧ p.kind = .xform card src dst len s.engineRm ∧ p.owner = s.curStrand ∧ p.reads = [⟨src, len⟩] ∧ p.domains = 64#7
          ∧ (p.writes.head? = some ⟨dst, outBytes card most⟩
             ∧ (0 < sideBytes card most → ⟨cardSide card, sideBytes card most⟩ ∈ p.writes)
             ∧ (s.openSource k card src len = false → most = m))
          ∧ (t.core k).packed = core.packed ∧ SlotFrame s t [] ∧ SameScratch s t)))
    ∧ (∀ (op : Nat) (o : Op) (rm : Nat), s.op op = some o → o.kind = .xform card src dst len rm → s.ready o = true →
      (∀ r ∈ o.reads, s.readBlocked o.core op r = false) → (∀ r ∈ o.writes, s.writeBlocked o.core op r = false) →
      let w := s.core o.core
      let y := (upto 6).foldl (fun y p => stageStep card s.tick rm p y) { codes := w.stream card src len s.tick rm }
      let bs := if cardHas card 5 then packGroups card y else streamBytes (outFmt card) y.codes
      let within (b a l : Nat) : Prop := ∃ i, i < l ∧ b = (a + i) % 0x400000
      ∃ t, exec (.xformComplete op) s = .next t ∧ t.op op = none ∧ t.mem = s.mem ∧ t.ctxs = s.ctxs
        ∧ (SameScratchBut s t o.core fun b => within b dst bs.length ∨ within b (cardSide card) y.side.length)
        ∧ (bs.length ≤ 0x400000 → ∀ i (h : i < bs.length), ¬within ((dst + i) % 0x400000) (cardSide card) y.side.length →
            (t.core o.core).spByte (dst + i) = bs[i])
        ∧ (y.side.length ≤ 0x400000 → ∀ i (h : i < y.side.length), (t.core o.core).spByte (cardSide card + i) = y.side[i])
        ∧ (let mine (q : Packed) : Bool := q.open_.any (·.1 == op)
           let now := (t.core o.core).packed
           (∀ q, mine q = false → q ∈ w.packed → q ∈ now)
           ∧ (∀ q ∈ w.packed, mine q = true → bs.length ≠ 0 → { q with len := (bs.length + 63) / 64, open_ := none } ∈ now)
           ∧ (∀ q ∈ now, mine q = false ∧ (bs.length = 0 → q ∈ w.packed))))
    ∧ (∀ (t rm p : Nat) (y : Stream6), let z := stageStep card t rm p y
      let f := streamFmt card p
      (cardStage card p = 2 → z.codes = y.codes.map fun v => codeOf (cardFmt card) rm (codeVal f v))
      ∧ (cardStage card p = 3 → z.codes = y.codes.map fun v => codeOf f rm ((codeVal f v).scale (cardK card)))
      ∧ (cardStage card p = 8 → z.codes = y.codes.map fun v => codeOf f rm (codeVal f v).negate)
      ∧ (cardStage card p = 0 → z = y))

/-! ### The matrix engine -/

/-- 11 R184, R189 to R191, 12 R208: the matrix commands that the engine takes. MCFG stores an accepted word and refuses
another with MATRIX_BUSY reason 2; MSPC sets MDPC to an even offset inside the kernel; MSWAP exchanges the two stages; MLDH,
with a dense configuration of 512 positions and a size of 64 to 512, and DPLOAD, from an aligned image without packed
granules, become outstanding operations, and a DPLOAD changes nothing but the ranges of the core's drains, that they may reach
what its program stores (12 R215; log 22); a DPLOAD of an image that a delivery has yet to write (07 R142), or that may turn out
packed, yields. 11 R183,
R202, 21 R312: every M-slot command yields, with nothing of the machine
changed, while another strand owns the core's matrix engine or four accepted commands have not begun. It rests on the model's
readings of log 21. -/
def Obligations.MatrixCommandsAreTaken : Prop :=
  (∀ (a : Src) (prog : BitVec 6) (part : BitVec 2) (s : State), s.engineTakes →
     let k := s.curCore
     let c := s.core k
     let v := s.sVal a
     let added (t : State) (p : Op) : Prop := t.ops = s.ops ++ [p] ∧ p.owner = s.curStrand ∧ p.core = k ∧ p.domains = 64#7
       ∧ SlotFrame s t [] ∧ SameScratch s t
     (s.full [srcOf a 0] →
       (mcfgOk v = true → exec (.mcfg a) s = .next (s.modCore k fun x => { x with mcfg := v, mcfgSet := true }))
       ∧ (mcfgOk v = false → exec (.mcfg a) s = .next (s.trap 0x15#8 (s.matrixInfo k 2 false 0)))
       ∧ (v.toNat % 2 = 0 → v.toNat + 2 ≤ s.cur.kernel.idxlen.toNat →
         exec (.mspc a) s = .next (s.modCur fun x => { x with sr := { x.sr with mdpc := v } }))
       ∧ (v.toNat % 2 = 1 ∨ s.cur.kernel.idxlen.toNat < v.toNat + 2 →
         exec (.mspc a) s = .next (s.trap 0x15#8 (s.matrixInfo k 5 false 0)))
       ∧ (let live := mcFreq c.mcfg &&& s.availFloors k
         c.mcfgSet = true → mcSparse c.mcfg = 0 → mcKunits c.mcfg = 8 → v.toNat ∈ [64, 128, 256, 512] →
         holdsMinusOne (mcBfmt c.mcfg) = true → live ≠ 0#4 → (mcStrict c.mcfg = true → live = mcFreq c.mcfg) →
         ∃ t p g, exec (.mldh a) s = .next t ∧ added t p ∧ p.kind = .mldh v.toNat g ∧ g.deal = [(floorsOf live).headD 0]
           ∧ (t.core k).stageS = g ∧ g.loading = true ∧ g.ks = 512 ∧ g.bfmt = mcBfmt c.mcfg)
       ∧ (v.toNat % 64 = 0 → c.unsettled ⟨v.toNat % 0x400000, imageSize part.toNat⟩ = true →
         exec (.dpload a prog part) s = .next s.yields)
       ∧ (v.toNat % 64 = 0 → c.unsettled ⟨v.toNat % 0x400000, imageSize part.toNat⟩ = false →
         c.packedByte ⟨v.toNat % 0x400000, imageSize part.toNat⟩ = none →
         s.aboveWatermark k ⟨v.toNat % 0x400000, imageSize part.toNat⟩ = true → exec (.dpload a prog part) s = .next s.yields)
       ∧ (v.toNat % 64 = 0 → c.unsettled ⟨v.toNat % 0x400000, imageSize part.toNat⟩ = false →
         c.packedByte ⟨v.toNat % 0x400000, imageSize part.toNat⟩ = none →
         s.aboveWatermark k ⟨v.toNat % 0x400000, imageSize part.toNat⟩ = false →
         ∃ t p, exec (.dpload a prog part) s = .next (t.reviseLoads k) ∧ added t p ∧ t.cores = s.cores
           ∧ SlotFrame s (t.reviseLoads k) [] ∧ (t.reviseLoads k).cores = s.cores
           ∧ (t.reviseLoads k).ops.map (fun o => { o with writes := [] }) = t.ops.map (fun o => { o with writes := [] })
           ∧ p.kind = .dpload prog.toNat (v.toNat % 0x400000) part.toNat
           ∧ p.reads = [⟨v.toNat % 0x400000, imageSize part.toNat⟩]))
     ∧ ∃ t p, exec .mswap s = .next t ∧ added t p ∧ p.kind = .mswap ∧ (t.core k).stageA = c.stageS
         ∧ (t.core k).stageS = c.stageA ∧ (t.core k).swapped = !c.swapped)
  ∧ (∀ (a : Src) (o : MmacF) (h : BitVec 4) (lur set : Bool) (p : BitVec 6) (q : BitVec 3) (part : BitVec 2) (s : State),
       (∃ i, (s.core s.curCore).engine = some i ∧ i ≠ s.curStrand) ∨ 4 ≤ s.matrixQueued s.curCore →
       exec (.mcfg a) s = .next s.yields ∧ exec (.mspc a) s = .next s.yields ∧ exec .mswap s = .next s.yields
       ∧ exec (.mldb h lur) s = .next s.yields ∧ exec (.mldh a) s = .next s.yields ∧ exec (.mmac o) s = .next s.yields
       ∧ exec (.mret set p q) s = .next s.yields ∧ exec (.dpload a p part) s = .next s.yields)

/-- 11 R198 to R200: MMAC that passes its checks (a configuration, 1 to 256 rows of an aligned A, a valid stage of the
strand's job and of the configuration, FIRST exactly when the set has no open reduction, the floors that strictness asks for
and no failed one, no packed granule, and the reduction limit) becomes an outstanding operation, and the strand owns the
engine; FIRST opens a reduction on the set; mode S takes its zeroing mask at MDPC and advances MDPC by 2. 03 R56, 07 R142: one
whose first row, or the scales of it, lies above the watermark of a delivery yields. It rests on the model's readings of log 21. -/
def Obligations.MmacIsTaken : Prop :=
  ∀ (o : MmacF) (s : State), s.numbered → s.engineTakes →
    s.full [⟨sReg o.rows, false, 0⟩, ⟨sReg o.abase, false, 1⟩, ⟨sReg o.ascale, false, 2⟩] →
    let k := s.curCore
    let c := s.core k
    let i := s.curStrand
    let g := c.stageA
    let rows := (s.issue.regs.sGet o.rows).toNat
    let abase := (s.issue.regs.sGet o.abase).toNat % 0x400000
    let ascale := (s.issue.regs.sGet o.ascale).toNat % 0x400000
    let red := (c.set o.aset).openBy i
    let elapsed := match red with | some r => if o.first then 0 else r.elapsed | none => 0
    c.mcfgSet = true → 1 ≤ rows → rows ≤ 256 → abase % 64 = 0 →
    (g.valid = true ∨ g.loading = true ∨ g.failed = true) → g.job = i.seq → g.bfmt = mcBfmt c.mcfg → g.mode = mcSparse c.mcfg →
    g.ks = mcKs c.mcfg → (o.first = true ↔ red = none) →
    (g.mode = 2 → s.cur.sr.mdpc.toNat + 1 < s.cur.kernel.idxlen.toNat) →
    (mcStrict c.mcfg = true ∨ o.strict = true → g.used = maskOfFloors (dealOf g.freq g.deal.length)) →
    g.used &&& c.failed = 0#4 →
    (∀ r ∈ mmacReads rows abase ascale g.ks (mcAfmt c.mcfg), c.isPacked r = false ∧ c.unsettled r = false) →
    s.lastWriteAt elapsed rows g.passes (mcAfmt c.mcfg) ≤ s.issue.sr.redlim.toNat → s.stoppedDrain k o.aset = none →
    let above := ∃ r ∈ (mmacReads rows abase ascale g.ks (mcAfmt c.mcfg)).take 2, s.aboveWatermark k r = true
    (above → exec (.mmac o) s = .next s.yields)
    ∧ (¬above → ∃ t p m, exec (.mmac o) s = .next t ∧ t.ops = s.ops ++ [p] ∧ p.kind = .mmac m ∧ p.owner = i
      ∧ p.reads = mmacReads rows abase ascale g.ks (mcAfmt c.mcfg)
      ∧ m.set = o.aset ∧ m.first = o.first ∧ m.last = o.last ∧ m.rows = rows ∧ m.abase = abase ∧ m.ascale = ascale ∧ m.stage = g
      ∧ (t.core k).engine = some i
      ∧ (o.first = true → ∃ r ∈ ((t.core k).set o.aset).reds, r.id = m.red ∧ r.owner = i ∧ r.closed = o.last)
      ∧ (∀ r, o.first = false → red = some r → m.red = r.id)
      ∧ t.cur.sr = (if g.mode = 2 then { s.cur.sr with mdpc := s.cur.sr.mdpc + 2#64 } else s.cur.sr)
      ∧ t.cur.regs = s.cur.regs ∧ SameMemory s t ∧ SameScratch s t ∧ SameContextsBut s t s.issue.ctx)

/-- 21 R313, 11 R183, R203: MRET of a set on which the strand has an open reduction leaves a drain outstanding, with the program
and queue that it names. With no earlier command of the engine outstanding it retires the reduction: that leaves the set, the
core counts a retirement, RCARD shows its report card and MXCNT takes its events. Behind an earlier command the drain waits for
it, and the reduction stays on the set, closed, until then. Without an open reduction or a stopped drain of its own it raises
MATRIX_BUSY reason 0. -/
def Obligations.MretRetiresTheReduction : Prop :=
  ∀ (set : Bool) (prog : BitVec 6) (q : BitVec 3) (s : State) (r : Reduction), s.numbered → s.engineTakes →
    s.stoppedDrain s.curCore set = none →
    let k := s.curCore
    let c := s.core k
    let i := s.curStrand
    let taken (t : State) (p : Op) (d : Drain) : Prop := exec (.mret set prog q) s = .next t ∧ t.ops = s.ops ++ [p] ∧ p.owner = i
      ∧ p.kind = .drain d ∧ d.set = set ∧ d.prog = prog.toNat ∧ d.rq = q.toNat ∧ t.cur.regs = s.cur.regs ∧ SameMemory s t
      ∧ SameScratch s t
    ((c.set set).openBy i = none → exec (.mret set prog q) s = .next (s.trap 0x15#8 (s.matrixInfo k 0 set 0)))
    ∧ ((c.set set).reds = [r] → r.closed = false → r.owner = i → s.earlierMatrix k = [] → s.nextOp ∉ c.drains →
      (∀ o ∈ s.ops, s.nextOp ∉ o.waits) → s.ctxOf i = some s.issue.ctx → s.cur.stop = none →
      ∃ t p d, taken t p d ∧ d.rmax = r.rmax ∧ d.nanStop = s.cur.sr.fctl.getLsbD 0
        ∧ ((t.core k).set set).reds = [] ∧ (t.core k).retires = c.retires + 1#16 ∧ p.id ∈ (t.core k).drains
        ∧ t.cur.sr = { s.cur.sr with mxcnt := addCounts s.cur.sr.mxcnt r.shadow, rcard := reportCard r (c.retires + 1#16) })
    ∧ ((c.set set).reds = [r] → r.closed = false → r.owner = i → s.earlierMatrix k ≠ [] →
      ∃ t p d, taken t p d ∧ (∀ n ∈ s.earlierMatrix k, n ∈ p.waits) ∧ t.cur.sr = s.cur.sr
        ∧ ((t.core k).set set).reds = [{ r with closed := true, retire := some p.id }] ∧ (t.core k).retires = c.retires
        ∧ (t.core k).drains = c.drains)

/-! ### Drain programs -/

/-- 12 R211 to R214, Table 12-2: the micro-operations on the unit in the drain pipe. Each writes one temporary of every
element of the unit and leaves the others, or adds stores or queue entries to the unit, or, for DEND, ends the program. DQNT
does both: for each 64-byte block of its format it stores the block's scale in a byte, one after the other, unless that lies
beyond the scratchpad or in a packed granule, and its temporary takes the elements scaled and rounded into the format. The
next micro-operation follows. Nothing else of the machine changes: no context, no byte of a scratchpad or of memory, no
queue. The arithmetic is fp32, rounded to nearest even, with the modifiers of F. -/
def Obligations.DrainMicroOperations : Prop :=
  ∀ (o : DrainF) (a : BitVec 4) (kc : BitVec 5) (skew : Bool) (sz : BitVec 2) (s : State) (p : Pipe) (d : Drain) (x : Op),
    let c := s.core s.drainCore
    c.pipe = some p → s.op p.op = some x → x.kind = .drain d →
    let g := mget {} c.progs d.prog
    let n := 64 * p.width
    let leaves (j : Instr) (q : Pipe) : Prop :=
      exec j s = .next (s.setCore s.drainCore { c with pipe := some { q with step := p.step + 1 } })
    let va (e : Nat) : Lane := p.operand c d g o.a e
    let vb (e : Nat) : Lane := if o.f.getLsbD 3 then nth 0#32 g.consts o.k.toNat else p.operand c d g o.b e
    let vk : Lane := nth 0#32 g.consts o.k.toNat
    let val (y : Lane) : ExactNum := rd (o.f.getLsbD 0) y
    let round (v : ExactNum) : Lane := (wr (v, 0#5) 0 0 (o.f.getLsbD 2) (o.f.getLsbD 1)).1
    let writes (j : Instr) (f : Nat → Lane) : Prop := ∃ q, leaves j q ∧ q.stores = p.stores ∧ q.pushes = p.pushes
      ∧ q.refused = p.refused ∧ q.done = p.done
      ∧ (∀ e, e < n → mget 0#32 q.x (e * 8 + o.d.toNat) = f e)
      ∧ ∀ y, (∀ e, e < n → y ≠ e * 8 + o.d.toNat) → mget 0#32 q.x y = mget 0#32 p.x y
    writes (.dadd o) (fun e => round ((val (va e)).add 0 (val (vb e))).1)
    ∧ writes (.dmul o) (fun e => round ((val (va e)).mul (val (vb e))).1)
    ∧ writes (.dfma o) (fun e => round ((val (va e)).fma 0 (val (p.operand c d g o.b e)) (val vk)).1)
    ∧ writes (.dexp2 o) (fun e => round (val (va e)).exp2)
    ∧ writes (.drcp o) (fun e => round ((ExactNum.fin false 1 0 false).div (val (va e))).1)
    ∧ writes (.dmax o) (fun e => pickF32 o true (va e) (vb e))
    ∧ writes (.dmin o) (fun e => pickF32 o false (va e) (vb e))
    ∧ (∀ f, Fmt.ofCode (vk.toNat % 256) = some f → writes (.dcvt o) fun e =>
        BitVec.ofNat 32 (roundTo (val (va e)) f 0 0 (o.f.getLsbD 2) (o.f.getLsbD 1)).1)
    ∧ (∀ f, Fmt.ofCode (vk.toNat % 256) = some f → ∃ q, leaves (.dqnt o) q ∧ q.pushes = p.pushes ∧ q.done = p.done
        ∧ (let m := if g.wide o.k.toNat then 32 else 64
           let scale (b : Nat) : Nat := blockScale f ((List.range m).map fun e => val (va (b * m + e)))
           let at_ (b : Nat) : Nat := g.addr (o.k.toNat + 1) + p.row * (512 / m) + 64 * p.group / m + b
           let fits (b : Nat) : Prop := at_ b < 0x400000 ∧ c.isPacked ⟨at_ b, 1⟩ = false
           (∀ e, e < n → mget 0#32 q.x (e * 8 + o.d.toNat)
              = BitVec.ofNat 32 (roundTo ((val (va e)).scale (127 - (scale (e / m) : Int))) f 0 0 (o.f.getLsbD 2) (o.f.getLsbD 1)).1)
           ∧ (∀ y, (∀ e, e < n → y ≠ e * 8 + o.d.toNat) → mget 0#32 q.x y = mget 0#32 p.x y)
           ∧ q.stores.length + q.refused.length = p.stores.length + p.refused.length + n / m
           ∧ (∀ b, b < n / m → fits b → ∃ y ∈ q.stores, y.addr = at_ b ∧ y.size = 1 ∧ y.val = BitVec.ofNat 32 (scale b)
              ∧ y.group = p.group + b * m / 64 ∧ y.stage = p.step)
           ∧ (∀ b, b < n / m → ¬fits b → (p.group + b * m / 64, p.step, if at_ b < 0x400000 then 2 else 1) ∈ q.refused)
           ∧ ∀ y ∈ q.stores, y ∈ p.stores ∨ ∃ b, b < n / m ∧ fits b ∧ y.addr = at_ b))
    ∧ (∃ q, leaves (.dsto a kc skew sz) q ∧ q.x = p.x ∧ q.pushes = p.pushes ∧ q.done = p.done
        ∧ q.stores.length + q.refused.length = p.stores.length + p.refused.length + n
        ∧ ∀ y ∈ q.stores, y ∈ p.stores ∨ ∃ e, e < n
          ∧ (y.addr, true) = dstoAddr g kc skew (2 ^ (2 - sz.toNat)) p.row (p.col e)
          ∧ y.val = p.operand c d g a e ∧ y.size = 2 ^ (2 - sz.toNat))
    ∧ (∃ q, leaves (.dpush a sz) q ∧ q.x = p.x ∧ q.stores = p.stores ∧ q.done = p.done
        ∧ q.pushes.length = p.pushes.length + ((p.group + p.width) / 2 ^ sz.toNat - p.group / 2 ^ sz.toNat)
        ∧ (sz = 0#2 → ∀ u, u < p.width → ∃ y ∈ q.pushes,
            y = (p.group + u, p.step, lanesOf fun i => p.operand c d g a (64 * u + i))))
    ∧ leaves .dend { p with done := true }

/-! ### Heads -/

/-- 07 R132, R136, R137, 21 R303, R304: the head commands without a transfer, of a head that takes them. HSKIP and HBACK move
P forward and back inside 0 to ECOUNT, HMARK sets a mark to P, HREWIND goes to a set mark and raises HEAD_RANGE reason 1
without one; HPOS claims SD and asks for P, HCLOSE closes the head. Other heads, memory and scratchpad stay. It rests on the
model's readings of log 13. -/
def Obligations.HeadMovementsAndPosition : Prop :=
  ∀ (h : BitVec 4) (n : Src) (d : BitVec 6) (mark : Bool) (s : State), s.headTakes h.toNat →
    let k := s.curCore
    let x := s.head k h.toNat
    let c := (s.sVal n).toNat
    let marked (y : Head) : Nat × Bool := if mark then y.markB else y.markA
    let keeps (t : State) (l : List RegName) : Prop := SlotFrame s t l ∧ SameScratch s t ∧ SameHeadsBut s t k h.toNat
    let moved (j : Instr) (p : Nat) : Prop := ∃ t, exec j s = .next t ∧ (t.head k h.toNat).pos = p
      ∧ (t.head k h.toNat).markA = x.markA ∧ (t.head k h.toNat).markB = x.markB ∧ keeps t []
    let queued (j : Instr) (o : OpKind) (l : List RegName) : Prop := ∃ t p, exec j s = .next t ∧ t.ops = s.ops ++ [p]
      ∧ p.kind = o ∧ p.owner = s.curStrand ∧ p.core = k ∧ (t.head k h.toNat).pos = x.pos ∧ keeps t l
      ∧ (∀ r ∈ l, r.discards = false → p.dest = some (r, s.nextOp) ∧ t.cur.regs.isEmpty r = true)
      ∧ (l = [] → (t.head k h.toNat).closing = true)
    (s.full [srcOf n 1] → c < 2 ^ 48 →
      (x.pos + c ≤ x.ecount → moved (.hskip h n) (x.pos + c))
      ∧ (x.mode ≠ 2 → c ≤ x.pos → x.pos - c ≤ x.ecount → moved (.hback h n) (x.pos - c)))
    ∧ (∀ p, marked x = (p, true) → moved (.hrewind h mark) p)
    ∧ ((marked x).2 = false → exec (.hrewind h mark) s = .next (s.headTrap h.toNat 0x09#8 1))
    ∧ (∃ t, exec (.hmark h mark) s = .next t ∧ marked (t.head k h.toNat) = (x.pos, true) ∧ (t.head k h.toNat).pos = x.pos ∧ keeps t [])
    ∧ queued (.hpos h d) (.hpos h.toNat x.pos) [sReg d]
    ∧ queued (.hclose h) (.hclose h.toNat) []

/-- 07 R136 to R140, 21 R303: the head commands that reach memory, when their checks pass. HOPEN of a closed head takes the
descriptor's address, the position and the mode, and the head waits for its descriptor. HREAD and HWRITE move P over the
elements or groups, and their operation holds the scratchpad range that it writes or reads; an APPEND adds its elements to the
head's ECOUNT, and a write drops the staged blocks of the tape. It rests on the model's readings of log 13. -/
def Obligations.HeadTransfersAreAccepted : Prop :=
  ∀ (h : BitVec 4) (a n e : Src) (fmt : BitVec 8) (bk raw sat lur : Bool) (mode : BitVec 2) (s : State),
    let k := s.curCore
    let x := s.head k h.toNat
    let c := (s.sVal n).toNat
    let base := (s.sVal a).toNat % 0x400000
    let bytes := if raw then 2048 * c else bytesFor c (codeWidth fmt.toNat)
    let owned (t : State) (p : Op) : Prop := p.owner = s.curStrand ∧ p.core = k ∧ SlotFrame s t [] ∧ SameScratch s t
    (s.headBusy k h.toNat = false → x.mode = 0 → s.full [srcOf a 0, srcOf n 1] → mode ≠ 0#2 →
      ∃ t p, exec (.hopen h a n mode) s = .next t ∧ t.ops = s.ops ++ [p] ∧ owned t p ∧ SameHeadsBut s t k h.toNat
        ∧ p.kind = .hopen h.toNat ((s.sVal a).toNat % 2 ^ 57) c mode.toNat
        ∧ (let y := t.head k h.toNat
           y.mode = mode.toNat ∧ y.opening = true ∧ y.pos = c % 2 ^ 48 ∧ y.descVa = (s.sVal a).toNat % 2 ^ 57
             ∧ y.job = s.curStrand.seq ∧ y.markA = (0, false) ∧ y.markB = (0, false) ∧ y.stage = []))
    ∧ (s.headTakes h.toNat → x.mode ≠ 2 → (raw = true → bk = false) → s.full [srcOf a 0, srcOf n 1, srcOf e 2] →
      (raw = false → c ≤ 2 ^ 22 ∧ base % Nat.max 1 (codeWidth fmt.toNat / 8) = 0) → bytes ≤ 0x400000 →
      (e.reg ≠ 0#6 → (s.sVal e).toNat % 16 = 0) →
      (raw = true → ((s.core k).markPacked ⟨base, bytes⟩ s.curStrand.seq).isSome = true) →
      ∀ m, (if raw then s.rawCheck x c = (.pass, m) else s.moveCheck x bk c = .pass ∧ m = c) →
      ∃ t l p, exec (.hread h a n e fmt bk raw sat lur) s = .next t ∧ t.ops = s.ops ++ l ++ [p] ∧ owned t p
        ∧ (e.reg = 0#6 ∨ c ≠ 0 → l = []) ∧ p.writes = [⟨base, bytes⟩] ∧ p.domains = 66#7
        ∧ p.kind = .hread h.toNat x.pos c m base (if e.reg = 0#6 ∨ c = 0 then none else some ((s.sVal e).toNat % 2 ^ 26))
            fmt.toNat bk raw sat s.engineRm
        ∧ (t.head k h.toNat).pos = (if bk then x.pos - c else x.pos + m) ∧ SameHeadsBut s t k h.toNat)
    ∧ (s.headTakes h.toNat → x.mode ≠ 1 → s.full [srcOf a 0, srcOf n 1, srcOf e 2] → c < 2 ^ 48 →
      bytesFor c (codeWidth fmt.toNat) ≤ 0x400000 →
      (if mode = 2#2 then s.appendCheck x c ((s.sVal e).toNat % 256) else s.moveCheck x bk c) = .pass →
      s.wholeBlocks x mode.toNat bk c ((s.sVal e).toNat % 256) = .pass →
      ∃ t p, exec (.hwrite h a n e fmt bk mode lur sat) s = .next t ∧ t.ops = s.ops ++ [p] ∧ owned t p
        ∧ p.reads = [⟨base, bytesFor c (codeWidth fmt.toNat)⟩] ∧ p.domains = 66#7
        ∧ p.kind = .hwrite h.toNat x.pos c base ((s.sVal e).toNat % 2 ^ 24) fmt.toNat bk mode.toNat sat s.engineRm
        ∧ (t.head k h.toNat).pos = (if bk then x.pos - c else x.pos + c)
        ∧ (t.head k h.toNat).ecount = (if mode = 2#2 then x.ecount + c else x.ecount)
        ∧ ∀ g, g < 16 → (s.head k g).descVa = x.descVa → (t.head k g).stage = [])

/-- 11 R182, R186, R192: MLDB on a reading head of the strand's job, under a stored configuration whose elements are live and
whose requested floors are available as strictness asks, becomes an outstanding operation: P moves over 512 × KS elements,
256 × KS in mode W, and the shadow stage is loading with the deal over the live floors. -/
def Obligations.MldbIsTaken : Prop :=
  ∀ (h : BitVec 4) (lur : Bool) (s : State), s.engineTakes → s.headTakes h.toNat →
    let k := s.curCore
    let c := s.core k
    let x := s.head k h.toNat
    let w := c.mcfg
    let n := (if mcSparse w = 1 then 256 else 512) * mcKs w
    let slice := if mcSparse w = 1 then 1024 else 512
    let slices := (mcKs w + slice - 1) / slice
    let live := mcFreq w &&& s.availFloors k
    c.mcfgSet = true → x.mode ≠ 2 → s.moveCheck x false n = .pass →
    (mcStrict w = true → live = mcFreq w) → live ≠ 0#4 → slices ≤ 2 * (floorsOf live).length →
    ∃ t p g, exec (.mldb h lur) s = .next t ∧ t.ops = s.ops ++ [p] ∧ p.owner = s.curStrand ∧ p.core = k
      ∧ p.kind = .mldb h.toNat x.pos n g ∧ (t.core k).stageS = g ∧ g.loading = true ∧ g.valid = false
      ∧ g.bfmt = mcBfmt w ∧ g.mode = mcSparse w ∧ g.ks = mcKs w ∧ g.job = s.curStrand.seq ∧ g.live = live ∧ g.freq = mcFreq w
      ∧ g.deal.length = slices ∧ (∀ j, j < slices → nth 0 g.deal j = nth 0 (floorsOf live) (j % (floorsOf live).length))
      ∧ (t.head k h.toNat).pos = x.pos + n ∧ SlotFrame s t [] ∧ SameScratch s t

/-! ### Transfers, collectives and transaction barriers -/

/-- 06 R116, 20 R284, R293, R295, 22 R319, 23 R354, 15 R250: XFER, QSEND, ATOM and COLL that pass their checks while a
transfer record is free take the record as an outstanding operation, with the scratchpad ranges that they read and write.
XFER of 0 bytes completes at issue, with the credit that it owes, and yields while program order puts an operation of the strand
before that credit (08 R154, R156; log 23). QSEND removes its entry from the queue. ATOM claims SD,
COLL takes the strand's next number on the group. -/
def Obligations.TransfersTakeARecord : Prop :=
  ∀ (f : XferF) (q : BitVec 3) (a b : Src) (qp : Bool) (m : AtomF) (g : CollF) (s : State),
    let k := s.curCore
    let i := s.curStrand
    let taken (j : Instr) (o : OpKind) (d : BitVec 7) (r w : List Range) (l : List RegName) (also : State → Op → Prop) : Prop :=
      ∃ t p, exec j s = .next t ∧ t.ops = s.ops ++ [p] ∧ p.kind = o ∧ p.owner = i ∧ p.core = k ∧ p.domains = d
        ∧ p.record = true ∧ p.reads = r ∧ p.writes = w ∧ SlotFrame s t l ∧ SameScratch s t ∧ also t p
    s.recordsUsed k < 64 →
    (s.full [srcOf f.a 0, srcOf f.b 1, srcOf f.c 2, srcOf f.e 3] →
      let sp := (s.sVal f.a).toNat % 0x400000
      let va := (s.sVal f.b).toNat % 2 ^ 57
      let n := (s.sVal f.c).toNat
      let obj := (s.sVal f.e).toNat % 0x4000000
      let moved := match f.cv.toNat with | 1 => n / 2 | 2 => 2 * n | _ => n
      sp % 64 = 0 → va % 64 = 0 → n ≤ 0x400000 → n % 64 = 0 → (f.cv = 1#2 → n % 128 = 0) → (f.e.reg ≠ 0#6 → obj % 16 = 0) →
      (n ≠ 0 → taken (.xfer f) (.xfer f.out sp va n (if f.e.reg = 0#6 then none else some obj) f.arr f.cv.toNat s.engineRm) 68#7
        (if f.out then [⟨sp, n⟩] else []) (if f.out then [] else [⟨sp, moved⟩]) [] fun _ _ => True)
      ∧ (n = 0 → f.e.reg = 0#6 → exec (.xfer f) s = .next s)
      ∧ (n = 0 → f.e.reg ≠ 0#6 → let y := tbTarget k obj
        (s.tbBlocked y.1 y.2 true = false → exec (.xfer f) s = .next (s.tbUpdate y.1 y.2 0 f.arr i))
        ∧ (s.tbBlocked y.1 y.2 true = true → exec (.xfer f) s = .next s.yields)))
    ∧ (s.full [srcOf a 0, srcOf b 1] → ∀ e l, s.queue q = e :: l →
      let x := (s.sVal a).toNat % 0x4000000
      let tb := (s.sVal b).toNat % 0x4000000
      x % 4 = 0 → tb % 16 = 0 → taken (.qsend q a b qp) (.qsend x tb (lanesOf (lane e))) 16#7 [] [] [] fun t _ => t.queue q = l)
    ∧ (s.full [srcOf m.a 0, srcOf m.b 1, srcOf m.c 2] →
      let n := if m.sz then 8 else 4
      let va := (s.sVal m.a).toNat % 2 ^ 57 / n * n
      let cut (w : Word) : Word := if m.sz then w else w &&& 0xFFFFFFFF#64
      ∃ e, taken (.atom m) (.atom va m.aop.toNat m.sz (cut (s.sVal m.b)) (cut (s.sVal m.c)) m.ord.toNat m.scope.toNat e) 8#7 [] []
        [sReg m.sd] fun t p => p.dest = some (sReg m.sd, s.nextOp) ∧ (m.sd ≠ 0#6 → t.cur.regs.isEmpty (sReg m.sd) = true)
          ∧ (2#2 ≤ m.ord → ∀ o ∈ s.ops, o.owner = i → o.kind.standsStopped = false → o.id ∈ p.waits))
    ∧ (s.full [srcOf g.a 0, srcOf g.b 1, srcOf g.c 2] → ∀ x, s.groupOf i g.group.toNat = some x →
      let e := if g.ty = 1#2 then 2 else 4
      let n := (s.sVal g.b).toNat
      let src := (s.sVal g.a).toNat % 0x400000
      let third := g.op = 3#3 ∨ g.op = 4#3
      let dst := if third then (s.sVal g.c).toNat % 0x400000 else src
      let root := if g.op = 5#3 then (s.sVal g.c).toNat else 0
      let total := s.total (s.tenantOf i) g.group.toNat x
      let out := if g.op = 3#3 then total * (n * e) else if g.op = 4#3 then n * e / total else n * e
      let number := match findJob i.seq s.jobs with | some j => mget 0 j.colls (i.idx * 256 + g.group.toNat) | none => 0
      n ≠ 0 → src % e = 0 → dst % e = 0 → n * e ≤ 0x400000 → out ≤ 0x400000 → (g.op = 4#3 → n % total = 0) →
      (g.op = 5#3 → root < total) →
      taken (.coll g) (.coll g.group.toNat src n dst g.op.toNat g.ty.toNat root s.dtime.toNat none) 96#7 [⟨src, n * e⟩] [⟨dst, out⟩] []
        fun _ p => p.prog = number)

/-- 06 R121, 22 R328, R329: the transaction-barrier instructions on an aligned object. TBARRIVE leaves an arrival that waits for
every earlier access; TBEXPECT leaves its debit and holds the context until it is performed; TBINIT writes a fresh object, BAL
0, its quota and the strand as owner, and no other byte; TBWAIT goes on as an acquire once GEN is not the generation last seen,
and yields until then. TBINIT and TBWAIT yield while an earlier operation of the core on the object is outstanding, and while
program order puts one of the strand before them (log 23). A misaligned object raises XFER_SIZE reason 7, a quota of 0 or above
65,535 TB_OVF reason 0. -/
def Obligations.TransactionBarrierInstructions : Prop :=
  ∀ (a b : Src) (s : State), s.full [srcOf a 0, srcOf b 1] →
    let k := s.curCore
    let i := s.curStrand
    let x := (s.sVal a).toNat % 0x4000000
    let y := (s.sVal a).toNat % 0x400000
    let v := (s.sVal b).toNat
    let added (t : State) (p : Op) : Prop := t.ops = s.ops ++ [p] ∧ p.owner = i ∧ p.core = k ∧ SlotFrame s t [] ∧ SameScratch s t
    (x % 16 = 0 →
      (∃ t p, exec (.tbarrive a) s = .next t ∧ added t p ∧ p.kind = .tbarrive x ∧ t.ctxs = s.ctxs
        ∧ ∀ o ∈ s.ops, o.owner = i → o.kind.standsStopped = false → o.id ∈ p.waits)
      ∧ (s.tbPending k x = false → ∃ t p, exec (.tbexpect a b) s = .next t ∧ added t p ∧ p.kind = .tbexpect x v
        ∧ ∃ w, t.cur.hold = some w ∧ w.ops = [p.id] ∧ w.slots = [])
      ∧ (s.tbPending k y = true → exec (.tbinit a b) s = .next s.yields ∧ exec (.tbwait a b) s = .next s.yields)
      ∧ (s.tbPending k y = false →
        (1 ≤ v → v ≤ 65535 → s.tbBlocked k y true = false → ∃ t, exec (.tbinit a b) s = .next t ∧ SlotFrame s t []
          ∧ (t.core k).tbObj y = ⟨0, 0, v, 0, i.idx % 8192, i.seq % 2 ^ 35⟩ ∧ SameScratchBut s t k fun c => y ≤ c ∧ c < y + 16)
        ∧ (1 ≤ v → v ≤ 65535 → s.tbBlocked k y true = true → exec (.tbinit a b) s = .next s.yields)
        ∧ (v = 0 ∨ 65535 < v → exec (.tbinit a b) s = .next (s.trap 0x1A#8 (tbInfo k y 0)))
        ∧ (s.tbBlocked k y false = true → exec (.tbwait a b) s = .next s.yields)
        ∧ (s.tbBlocked k y false = false → ((s.core k).tbObj y).gen ≠ v % 65536 → ∃ t, exec (.tbwait a b) s = .next t ∧ t.ctxs = s.ctxs ∧ t.mem = s.mem
            ∧ SameScratch s t ∧ ∀ h, h < 16 → (t.head k h).stage = [])
        ∧ (((s.core k).tbObj y).gen = v % 65536 → exec (.tbwait a b) s = .next s.yields)))
    ∧ (x % 16 ≠ 0 → ∀ j ∈ [Instr.tbarrive a, .tbexpect a b, .tbinit a b, .tbwait a b], exec j s = .next (s.trap 0x18#8 7#64))

/-- 07 R136, R137, R141, R143, 21 R303, R304: the steps of the heads beside delivery and writing. The descriptor's read fills
the head and, for a writer, claims the tape in the same step; a reread, once the acquires of the strand that asked for it are
done (08 R154), takes the larger ECOUNT, and the bundles that asked for it are offered again; a prefetched block joins the stage; the walk of an HSKIP that meets no fault ends it; HPOS returns the
position of its issue; a close frees the head and clears a writer's claim. It rests on the model's readings of log 13. -/
def Obligations.HeadStepsPerform : Prop :=
  ∀ (s : State), (∀ (op : Nat) (o : Op), s.op op = some o →
    let k := o.core
    (∀ h va pos mode p, o.kind = .hopen h va pos mode → s.ready o = true → s.mayReach o (descLine va) (mode != 1) p →
      let d := lineBits (s.readPlace p 64)
      s.badPlace p = false → descValid va d = true → pos ≤ descEcount d → (mode ≠ 1 → descClaim d = 0#64) →
      ∃ t, exec (.headDescriptorRead op) s = .next t ∧ t.op op = none
        ∧ (t.head k h).opening = false ∧ (t.head k h).desc = Desc.parse d ∧ (t.head k h).ecount = descEcount d
        ∧ (t.head k h).mode = (s.head k h).mode ∧ SameHeadsBut s t k h ∧ SameScratch s t ∧ t.ctxs = s.ctxs
        ∧ (mode = 1 → SameMemory s t)
        ∧ (mode ≠ 1 → p.revoked = false → t.mem.read (p.addr + 40) 8 = leBytes 8 (claimWord k h o.owner.seq).toNat
            ∧ SameMemoryBut s t (p.addr + 40) 8))
    ∧ (∀ h pos, o.kind = .hpos h pos → s.headFront o h = true →
      exec (.hposComplete op) s = .next ((s.deliver o.owner o.dest (.word (BitVec.ofNat 64 pos))).headDone k h op))
    ∧ (∀ h, o.kind = .hclose h → s.headFront o h = true →
      let closed (t : State) : Prop := exec (.headCloseComplete op) s = .next t ∧ t.op op = none
        ∧ (t.head k h).mode = 0 ∧ (t.head k h).closing = false ∧ (t.head k h).fault = none ∧ (t.head k h).stage = []
        ∧ (t.head k h).depth = (s.head k h).depth ∧ SameHeadsBut s t k h ∧ SameScratch s t ∧ t.ctxs = s.ctxs
      ((s.head k h).mode = 1 → ∃ t, closed t ∧ SameMemory s t)
      ∧ (∀ p, (s.head k h).mode ≠ 1 → s.mayReach o (descLine (s.head k h).descVa) true p → p.revoked = false →
        ∃ t, closed t ∧ t.mem.read (p.addr + 40) 8 = List.replicate 8 0#8 ∧ SameMemoryBut s t (p.addr + 40) 8)))
    ∧ ∀ (core : BitVec 7) (hd : BitVec 4),
      (let j := core.toNat
       let h := hd.toNat
       let x := s.head j h
       let tenant := s.headTenant x
       (x.reread = 1 → ∀ p, s.placeOf tenant (descLine x.descVa) false = some p → s.badPlace p = false →
        s.mayReread j h = true → s.hasCredit j p = true → s.mayRequest p (descLine x.descVa) false = true →
        ∃ t, exec (.ecountReread core hd) s = .next t ∧ SameMemory s t ∧ SameHeadsBut s t j h
          ∧ t.head j h = { x with reread := 0, ecount := Nat.max x.ecount (descEcount (lineBits (s.readPlace p 64))) }
          ∧ ∀ c, let y := s.ctx c
            t.ctx c = if c ∈ coreCtxs j ∧ mget 0 y.rereads h = 1 then { y with rereads := mset 0 y.rereads h 2 } else y)
       ∧ (∀ a rest g b tag p, s.headOps j h = a :: rest → (∀ q n, a.kind ≠ .hskip h q n) → s.prefetch j h = some (g, b, tag) →
        s.placeOf tenant (BitVec.ofNat 57 (blockVa x.desc g b)) false = some p → s.badPlace p = false → tag % 256 ≠ 0xFF →
        s.hasCredit j p = true → s.mayRequest p (BitVec.ofNat 57 (blockVa x.desc g b)) false = true →
        ∃ t, exec (.headBlockFetch core hd) s = .next t ∧ SameMemory s t ∧ SameHeadsBut s t j h ∧ t.ops = s.ops
          ∧ t.head j h = { x with stage := x.stage ++ [⟨g, b, tag, lineBits (s.readPlace p 64), false⟩] })
       ∧ (∀ a rest q n, s.headOps j h = a :: rest → a.kind = .hskip h q n → s.ready a = true → x.desc.kind ≠ 2 →
        s.skipWalk tenant x.desc q (n + 1) q n = none → s.tagCredits j tenant x.desc (s.groupsOf tenant x.desc q n) = true →
        ∃ t, exec (.headBlockFetch core hd) s = .next t ∧ t.op a.id = none ∧ SameMemory s t ∧ t.cores = s.cores))

/-- 07 R138, R140, R142, 05 R91, R96, 11 R182: delivery, writing and the end of a load. A delivery of a staged block without
an error writes the slot of each element that it takes, rounded to the format, and no other byte of any scratchpad; after the
last slot the operation is gone and WMK holds the count. A KEEP write puts each slot, divided by the block's scale and rounded
to the block's format, into its field and changes no byte outside the block; an APPEND's last step adds its count to the
descriptor's ECOUNT. The end of an MLDB makes its stage valid. It rests on the model's readings of log 13. -/
def Obligations.HeadTransfersPerform : Prop :=
  ∀ (op : Nat) (o : Op) (h : Nat) (s : State), s.op op = some o → s.headFront o h = true →
    let k := o.core
    let x := s.head k h
    let tenant := s.headTenant x
    let meets (keep bk : Bool) (pos : Nat) : Meet :=
      if bk then s.meetBackward tenant x.desc keep pos (pos - o.prog) else s.meetForward tenant x.desc keep pos (pos + o.prog)
    let goes (t : State) (n c : Nat) : Prop :=
      (o.prog + c ≠ n → ∃ q, t.op op = some q ∧ q.prog = o.prog + c ∧ q.kind = o.kind) ∧ (o.prog + c = n → t.op op = none)
    (∀ pos n e dst tb fmt bk sat rm f g b off tag y, o.kind = .hread h pos n e dst tb fmt bk false sat rm → o.prog < n →
      Fmt.ofCode fmt = some f → f.width ≠ 4 → meets false bk pos = .elem g b off tag → tag % 256 ≠ 0xFF →
      x.staged g b = some y → tagCount y.tag = tagCount tag → y.poison = false → bitmapOver (y.tag % 256) y.bits = false →
      let w := f.width / 8
      let c := Nat.min (n - o.prog) (if bk then off + 1 else tagCount tag - off)
      let a := dst + o.prog * w
      s.writeBlocked k op ⟨a % 0x400000, c * w⟩ = false →
      ∃ t, exec (.headDelivery op) s = .next t ∧ goes t n c ∧ SameMemory s t ∧ t.ctxs = s.ctxs
        ∧ (∀ i, i < c → (t.core k).spNat (a + i * w) w
            = (roundTo (blockElem y.tag y.bits (if bk then off - i else off + i)) f rm 0 sat false).1 % 2 ^ f.width)
        ∧ (SameScratchBut s t k fun z => ∃ i, i < c * w ∧ z = (a + i) % 0x400000)
        ∧ (o.prog + c = n → (t.head k h).wmk = n))
    ∧ (∀ pos n src spec fmt bk sat rm f g b off tag p, o.kind = .hwrite h pos n src spec fmt bk 0 sat rm → o.prog < n →
      meets true bk pos = .elem g b off tag → tag % 256 ≠ 0xFF → Fmt.ofCode (tag % 256) = some f →
      let w := codeWidth fmt
      let c := Nat.min (n - o.prog) (if bk then off + 1 else tagCount tag - off)
      s.readBlocked k op ⟨(src + o.prog * w / 8) % 0x400000, bytesFor c w⟩ = false →
      s.mayReach o (BitVec.ofNat 57 (blockVa x.desc g b)) true p → s.badPlace p = false → p.revoked = false →
      ∃ t, exec (.headWritePerform op) s = .next t ∧ goes t n c ∧ SameMemoryBut s t p.addr 64 ∧ SameScratch s t
        ∧ t.ctxs = s.ctxs
        ∧ ∀ i, i < c → fieldOf (lineBits (t.mem.read p.addr 64)) f.width (if bk then off - i else off + i)
            = (roundTo (((s.core k).slotValue src fmt (o.prog + i)).scale (127 - (tag / 256 : Nat) : Int)) f rm 0 sat false).1
              % 2 ^ f.width)
    ∧ (∀ pos n src spec fmt bk sat rm p, o.kind = .hwrite h pos n src spec fmt bk 2 sat rm → o.prog = n → n ≠ 0 →
      s.mayReach o (descLine x.descVa) true p → p.revoked = false →
      ∃ t, exec (.headWritePerform op) s = .next t ∧ t.op op = none ∧ SameMemoryBut s t (p.addr + 32) 6 ∧ SameScratch s t
        ∧ leNat (t.mem.read (p.addr + 32) 6) = (leNat (s.mem.read (p.addr + 32) 6) + n) % 2 ^ 48)
    ∧ (∀ pos n g, o.kind = .mldb h pos n g → o.prog = n → (s.core k).stageS.id = op → (s.core k).stageS.loading = true →
      ∃ t, exec (.mldbComplete op) s = .next t ∧ t.op op = none ∧ t.mem = s.mem ∧ SameScratch s t
        ∧ (t.core k).stageS = { (s.core k).stageS with valid := true, loading := false } ∧ (t.head k h).wmk = n)

/-- 06 R117, R121, 22 R319, 23 R354: the steps of transfers. A granule copies 64 bytes of the source, or what becomes or comes
from a line of memory under CV, to its destination and changes no other byte; once every granule has performed the operation
becomes the credit that it owes, or leaves. QSEND's entry is written at its target, 256 bytes, and becomes its credit. 20
R284, R285, 08 R156: a ready ATOM that no journal answers acts in one step on the 4 or 8 bytes at its address: they become the
result of its operation on the old value and its operands, every other byte stays, and the old value reaches its register,
which is full; an acquiring one drops the blocks that the core's heads have staged. It rests on the model's readings of log
23. -/
def Obligations.TransfersPerform : Prop :=
  (∀ (op : Nat) (o : Op) (s : State), s.op op = some o → s.ready o = true →
     let k := o.core
     let goesOn (t : State) (u : Nat) : Prop := ∃ q, t.op op = some q ∧ q.prog = o.prog + u ∧ q.kind = o.kind
     (∀ sp va n tb arr cv rm p, o.kind = .xfer true sp va n tb arr cv rm → o.prog < n →
       let u := xferUnit true cv
       let a := (sp + o.prog) % 0x400000
       s.readBlocked k op ⟨a, u⟩ = false → s.mayReach o (BitVec.ofNat 57 (va + xferSize cv o.prog)) true p → p.revoked = false →
       ∃ t, exec (.xferGranule op) s = .next t ∧ goesOn t u ∧ SameScratch s t ∧ SameMemoryBut s t p.addr 64 ∧ t.ctxs = s.ctxs
         ∧ t.mem.read p.addr 64 = xferConvert cv rm ((s.core k).spBytes a u))
     ∧ (∀ sp va n tb arr cv rm p, o.kind = .xfer false sp va n tb arr cv rm → o.prog < n →
       let u := xferSize cv 64
       let a := (sp + xferSize cv o.prog) % 0x400000
       s.writeBlocked k op ⟨a, u⟩ = false → s.mayReach o (BitVec.ofNat 57 (va + o.prog)) false p → s.badPlace p = false →
       ∃ t, exec (.xferGranule op) s = .next t ∧ goesOn t 64 ∧ SameMemory s t ∧ t.ctxs = s.ctxs
         ∧ (t.core k).spBytes a u = xferConvert cv rm (s.readPlace p 64)
         ∧ SameScratchBut s t k fun z => ∃ i, i < u ∧ z = (a + i) % 0x400000)
     ∧ (∀ bs rm, xferConvert 0 rm bs = bs)
     ∧ (∀ out sp va n tb arr cv rm, o.kind = .xfer out sp va n tb arr cv rm → n ≤ o.prog →
       ∃ t, exec (.xferComplete op) s = .next t ∧ t.cores = s.cores ∧ t.mem = s.mem ∧ t.ctxs = s.ctxs
         ∧ (tb = none → t.op op = none)
         ∧ ∀ obj, tb = some obj → ∃ q, t.op op = some q ∧ q.kind = .credit obj n arr ∧ q.record = o.record ∧ q.waits = [])
     ∧ (∀ x tb e, o.kind = .qsend x tb e → e.length = 64 →
       ∃ t q, exec (.qsendWrite op) s = .next t ∧ t.op op = some q ∧ q.kind = .credit tb 256 false ∧ t.mem = s.mem
         ∧ (∀ i, i < 64 → (t.core (tbTarget k x).1).spWord ((tbTarget k x).2 + 4 * i) = lane e i)
         ∧ SameScratchBut s t (tbTarget k x).1 fun z => ∃ i, i < 256 ∧ z = ((tbTarget k x).2 + i) % 0x400000))
  ∧ (∀ (op va aop ord scope c tag : Nat) (o : Op) (dbl : Bool) (x y : Word) (r : BitVec 6) (p : Place) (s : State),
       s.op op = some o → s.ready o = true → o.kind = .atom va aop dbl x y ord scope none →
       s.mayReach o (BitVec.ofNat 57 va) true p → p.revoked = false → s.badPlace p = false →
       s.ctxOf o.owner = some c → o.dest = some (sReg r, tag) → r ≠ 0#6 → mget 0 (s.ctx c).tags (regKey (sReg r)) = tag →
       let n := if dbl then 8 else 4
       let old := leNat (s.mem.read p.addr n)
       let sgn (v : Nat) : Int := (BitVec.ofNat (8 * n) v).toInt
       let new := match aop with
         | 0 => (old + x.toNat) % 2 ^ (8 * n)
         | 1 => x.toNat
         | 2 => if old = x.toNat then y.toNat else old
         | 3 => old &&& x.toNat
         | 4 => old ||| x.toNat
         | 5 => old ^^^ x.toNat
         | 6 => if sgn old < sgn x.toNat then x.toNat else old
         | 7 => if sgn x.toNat < sgn old then x.toNat else old
         | 8 => Nat.max old x.toNat
         | _ => Nat.min old x.toNat
       x.toNat < 2 ^ (8 * n) → y.toNat < 2 ^ (8 * n) →
       ∃ t, exec (.atomPerform op) s = .next t ∧ t.op op = none ∧ t.mem.read p.addr n = leBytes n new
         ∧ SameMemoryBut s t p.addr n ∧ SameScratch s t ∧ SameContextsBut s t c
         ∧ (t.ctx c).regs.get (sReg r) = .word (BitVec.ofNat 64 old) ∧ (t.ctx c).regs.isEmpty (sReg r) = false
         ∧ (∀ m, m ≠ sReg r → (t.ctx c).regs.get m = (s.ctx c).regs.get m)
         ∧ (ord = 1 ∨ ord = 3 → ∀ h, h < 16 → (t.head o.core h).stage = []))

/-- 06 R121, R122, 22 R329: an arrival, a credit and an expectation reach the object as one operation: BAL takes the bytes,
ARRIVED the arrival, and when the arrivals meet the quota at a balance of 0 the phase completes: GEN advances and ARRIVED is
0. No other byte changes. An arrival beyond the quota leaves the object and owes TB_OVF reason 2; an expectation releases its
context, unless an RTT or EXIT of the bundle is still to run. -/
def Obligations.TransactionBarrierUpdates : Prop :=
  ∀ (op x n : Nat) (o : Op) (s : State), s.op op = some o → x % 16 = 0 →
    let j := (tbTarget o.core x).1
    let a := (tbTarget o.core x).2
    let b := (s.core j).tbObj a
    let becomes (e : Instr) (bal : Int) (arrived : Nat) : Prop := ∃ t, exec e s = .next t ∧ t.op op = none ∧ t.mem = s.mem
      ∧ (t.core j).tbObj a = (if arrived = b.quota ∧ bal = 0 then { b with bal := 0, arrived := 0, gen := (b.gen + 1) % 65536 }
          else { b with bal := bal, arrived := arrived })
      ∧ (SameScratchBut s t j fun z => a ≤ z ∧ z < a + 16)
      ∧ ∀ c, o.kind = .tbexpect x n → s.ctxOf o.owner = some c →
          (∀ w, (s.ctx c).hold = some w → w.last = []) → (t.ctx c).hold = none
    (∀ arr, o.kind = .credit x n arr → s.ready o = true → (arr = true → b.arrived < b.quota) → b.bal + n < 2 ^ 31 →
      becomes (.tbCredit op) (b.bal + n) (if arr then b.arrived + 1 else b.arrived))
    ∧ (o.kind = .tbarrive x → s.ready o = true →
      (b.arrived < b.quota → becomes (.tbarrivePerform op) b.bal (b.arrived + 1))
      ∧ (b.arrived = b.quota → exec (.tbarrivePerform op) s = .next ((s.owe o.owner ⟨0x1A#8, tbInfo j a 2⟩).endOp op)))
    ∧ (o.kind = .tbexpect x n → s.ready o = true → -2 ^ 31 ≤ b.bal - n → becomes (.tbexpectPerform op) (b.bal - n) b.arrived)

/-- 08 R155, 03 R61, 21 R306, R309, 17 R261, 22 R333, 06 R119: the requests of strands that have become ready. SETTLE leaves
its context's list, and an acquire drops the staged blocks; TRIGGER's release counts; LAUNCH reads its packet once, keeps it
while the ring of its queue is full, and ends with 0x80000000000000FF where the queue is disabled; TTNEXT commits the
iteration of its job and returns 0, and 1 when there is none to commit; IFENCE LOAD of a bad image returns 2; a phase of a
barrier whose members have all arrived completes. 21 R305, R306, 03 R40: an IFENCE LOAD of a good image that a fetch or
another job's strands forbid returns 1; one that none forbids starts to copy it, and at the end of the copy the dictionary
holds its entries from DICTBASE on and the index store its halfwords from IDXBASE on, the strand has it as its overlay, and 0
is returned. It rests on the model's readings of log 16 and log 32. -/
def Obligations.StrandRequestsPerform : Prop :=
  (∀ (s : State), (∀ (op : Nat) (o : Op), s.op op = some o →
     let i := o.owner
     let gives (j : Instr) (v : Word) : Prop := exec j s = .next ((s.deliver i o.dest (.word v)).endOp op)
     (s.ready o = true →
       (∀ sc kind d c, o.kind = .settle sc kind d → s.peerWaits i sc kind op = false → s.ctxOf i = some c →
         ∃ t, exec (.settleComplete op) s = .next t ∧ t.op op = none ∧ t.mem = s.mem ∧ SameScratch s t
           ∧ t.ctx c = { s.ctx c with settles := (s.ctx c).settles.filter (· != op) } ∧ SameContextsBut s t c
           ∧ (kind ≠ 1 → ∀ h, h < 16 → (t.head o.core h).stage = []))
       ∧ (∀ sc x, o.kind = .trigger sc → s.strand i = some x →
         ∃ t, exec (.triggerRelease op) s = .next t ∧ t.op op = none ∧ t.strand i = some { x with triggered := true }
           ∧ t.ctxs = s.ctxs ∧ t.cores = s.cores ∧ t.mem = s.mem)
       ∧ (o.kind = .ttnext →
         (s.commits i = false → gives (.ttnextReply op) 1#64)
         ∧ (s.commits i = true → ∃ t, exec (.ttnextReply op) s = .next t ∧ t.op op = none
             ∧ t.tt = { s.tt with current := s.tt.current.map fun c => { c with committed := true } }
             ∧ t.ctxs = (s.deliver i o.dest (.word 0#64)).ctxs))
       ∧ (∀ va hb, o.kind = .ifenceLoad va → o.copying = none → s.blocked o.tenant false va 64 = none →
         s.bytesAt o.tenant va 64 = some hb → badImage (lineBits hb) = true ∨ headerParams (lineBits hb) ≠ 0 →
         gives (.ifenceLoadComplete op) 2#64)
       ∧ (∀ va q pl, let r := s.queueRegs (256 + q)
         (∀ b, o.kind = .launch va q pl none (some b) none → r.enable = false → gives (.launchPacketWrite op) 0x80000000000000FF#64)
         ∧ (∀ b t, o.kind = .launch va q pl none (some b) none → r.enable = true → r.sqbase ≠ 0#57 →
           (r.sqwr.toNat + 1) % 2 ^ (r.log2n.toNat + 4) ≠ r.sqrd.toNat →
           s.blocked r.tenant true (r.sqbase.toNat + 64 * r.sqwr.toNat) 64 = none →
           s.putAt r.tenant (r.sqbase.toNat + 64 * r.sqwr.toNat) (bitsLine b) = some t →
           exec (.launchPacketWrite op) s = .next ((t.modQueue (256 + q) fun y =>
               { y with sqwr := BitVec.ofNat 16 ((r.sqwr.toNat + 1) % 2 ^ (r.log2n.toNat + 4)) }).setOp
             { o with kind := .launch va q pl none (some b) (some r.sqwr.toNat), tenant := r.tenant }))
         ∧ (∀ p, o.kind = .launch va q pl none none none → r.enable = true → r.sqbase ≠ 0#57 →
           (r.sqwr.toNat + 1) % 2 ^ (r.log2n.toNat + 4) = r.sqrd.toNat → s.mayReach o (BitVec.ofNat 57 va) false p →
           s.badPlace p = false →
           ∃ t, exec (.launchPacketWrite op) s = .next t ∧ SameMemory s t ∧ t.queues = s.queues ∧ t.ctxs = s.ctxs
             ∧ t.op op = some { o with kind := .launch va q pl none (some (lineBits (s.readPlace p 64))) none, tenant := r.tenant }))))
    ∧ (∀ (core bar : BitVec 7) (job g : Nat), s.binding core.toNat bar.toNat = some (job, g) →
       let n := s.net bar.toNat job g
       s.phaseReady n = true → ∃ t, exec (.barrierPhaseComplete core bar) s = .next t ∧ t.ctxs = s.ctxs ∧ t.cores = s.cores
         ∧ t.mem = s.mem ∧ (t.net bar.toNat job g).phc = n.phc + 1 ∧ (t.net bar.toNat job g).arrivals = n.arrivals
         ∧ ∀ b q h, (b, q, h) ≠ (bar.toNat, job, g) → t.net b q h = s.net b q h))
  ∧ (∀ (op va : Nat) (o : Op) (hb bs : List Byte) (s : State), s.op op = some o → s.ready o = true → o.kind = .ifenceLoad va →
       o.copying = none →
       let h := lineBits hb
       let r := headerRanges h
       let n := imageBytes r
       s.blocked o.tenant false va 64 = none → s.bytesAt o.tenant va 64 = some hb →
       badImage h = false → headerParams h = 0 →
       (s.loadRefused o.core o.owner.seq r = true → exec (.ifenceLoadComplete op) s =
         .next ((s.deliver o.owner o.dest (.word 1#64)).endOp op))
       ∧ (s.loadRefused o.core o.owner.seq r = false → s.blocked o.tenant false va n = none →
         s.bytesAt o.tenant va n = some bs →
         exec (.ifenceLoadComplete op) s = .next ((s.countRead o.tenant va n (dieOf o.core)).setOp { o with copying := some (r, bs) })))
  ∧ (∀ (op va c : Nat) (o : Op) (r : Ranges) (bs : List Byte) (s : State), s.op op = some o → s.ready o = true →
       o.kind = .ifenceLoad va → o.copying = some (r, bs) → s.ctxOf o.owner = some c →
       ∃ t u, exec (.ifenceLoadComplete op) s = .next t ∧ t = (u.deliver o.owner o.dest (.word 0#64)).endOp op
         ∧ u.mem = s.mem ∧ u.ctx c = { s.ctx c with overlay := some r } ∧ SameContextsBut s u c
         ∧ (∀ e, e < r.dictlen.toNat → mget 0#384 (t.core o.core).dict (r.dictbase.toNat + e)
             = BitVec.ofNat 384 (leNat ((bs.drop (64 + 48 * e)).take 48)))
         ∧ (∀ e, e < r.idxlen.toNat → mget 0#16 (t.core o.core).index (r.idxbase.toNat + e)
             = BitVec.ofNat 16 (leNat ((bs.drop ((64 + 48 * r.dictlen.toNat + 63) / 64 * 64 + 2 * e)).take 2)))
         ∧ (∀ a, a < r.dictbase.toNat ∨ r.dictbase.toNat + r.dictlen.toNat ≤ a →
             mget 0#384 (t.core o.core).dict a = mget 0#384 (s.core o.core).dict a))

/-! ### The steps of the matrix engine and of drains -/

/-- 11 R182, R189, R200 to R204, 12 R209, 05 R104: the steps of the matrix engine. A program that passes its check is stored as
the scratchpad holds it; MLDH's slice holds the Hadamard matrix of its size along the diagonal; a row of an MMAC adds the sums
of its passes to the accumulators of the row, from 0 where FIRST begins (or the MMAC after a FIRST that never began), and
changes no other row; at the last row the events join the reduction, and LAST retires it: the card and the counts reach the
owner's RCARD and MXCNT, the operation goes on as the drain, and no command of the engine waits for it any more; an MMAC whose
stage was cancelled leaves and its owner is owed MATRIX_BUSY; REDLIM retires an open reduction and its owner is owed
REDUCTION_LIMIT reason 1. It rests on the model's readings of log 21. -/
def Obligations.MatrixEngineSteps : Prop :=
  ∀ (s : State), s.numbered → s.canonical →
   (∀ (op : Nat) (o : Op), s.op op = some o →
    let k := o.core
    let c := s.core k
    (∀ prog x part, o.kind = .dpload prog x part → part ≠ 2 → s.ready o = true →
      (∀ d ∈ s.runningDrains k op, d.prog ≠ prog) →
      (s.exactDrains k prog).readBlocked k op ⟨x, imageSize part⟩ = false →
      let code := (upto 16).map fun i => c.spWord (x + 4 * i)
      let consts := (upto 32).map fun i => c.spWord (x + 64 + 4 * i)
      (codeFault consts 0 code = none → ∃ t, exec (.dploadImageCheck op) s = .next t ∧ t.op op = none ∧ SameScratch s t
        ∧ t.mem = s.mem ∧ t.ctxs = s.ctxs
        ∧ (let g := mget {} (t.core k).progs prog
           g.loaded = true ∧ g.job = o.owner.seq ∧ g.code = code ∧ g.consts = consts
            ∧ ∀ i, i < 512 → mget 0#32 g.kcol i
              = if part = 3 then c.spWord (x + 192 + 4 * i) else mget 0#32 (mget {} c.progs prog).kcol i)
        ∧ ∀ p, p ≠ prog → mget {} (t.core k).progs p = mget {} c.progs p)
      ∧ (∀ r n, codeFault consts 0 code = some (r, n) → ∃ t, exec (.dploadImageCheck op) s = .next t ∧ t.op op = none
        ∧ (t.core k).progs = c.progs ∧ ∀ x, s.ctxOf o.owner = some x →
          (t.ctx x).owed = (s.ctx x).owed ++ [⟨0x12#8, drainInfo r false 0 0 n prog⟩]))
    ∧ (∀ prog x, o.kind = .dpload prog x 2 → s.ready o = true →
      (∀ d ∈ s.runningDrains k op, d.prog ≠ prog) →
      (s.exactDrains k prog).readBlocked k op ⟨x, 2048⟩ = false → ∃ t, exec (.dploadImageCheck op) s = .next t ∧ t.op op = none
        ∧ (let g := mget {} (t.core k).progs prog
           let old := mget {} c.progs prog
           g.loaded = old.loaded ∧ g.job = old.job ∧ g.code = old.code ∧ g.consts = old.consts
            ∧ ∀ i, i < 512 → mget 0#32 g.kcol i = c.spWord (x + 4 * i)))
    ∧ (∀ n g, o.kind = .mldh n g → s.ready o = true → n ∈ [64, 128, 256, 512] → g.deal ≠ [] → c.stageS = g → g.id = op →
      g.loading = true → s.planeRead o g.phys 15#4 = false → ∃ t, exec (.mldhComplete op) s = .next t ∧ t.op op = none ∧ t.mem = s.mem ∧ SameScratch s t
        ∧ (t.core k).stageS = { g with valid := true, loading := false }
        ∧ ∀ i j, i < 512 → j < 512 → mget 0#16 ((t.core k).plane (g.planeOf 0)).cell (g.floor 0 * 262144 + i * 512 + j)
          = toPlane g.bfmt (if i / n = j / n then
              .fin ((BitVec.ofNat 9 (i % n) &&& BitVec.ofNat 9 (j % n)).cpop.toNat % 2 == 1) 1 0 false else .zero false))
    ∧ (∀ m, o.kind = .mmac m → s.mayFetchRow o m = true → s.stoppedDrain k m.set = none →
      let acc (z : Nat) : Lane := if s.clears o m then 0#32 else mget 0#32 (c.set m.set).acc z
      let a := (upto m.stage.ks).map (c.aElem m o.prog)
      let column (j : Nat) := (upto m.stage.deal.length).map fun q => nth [] (c.sliceColumns m.stage q) j
      let sums (j : Nat) := accElem m.stage a (acc (o.prog * 512 + j)) (column j)
      ∃ t q, exec (.mmacRowFetch op) s = .next t ∧ t.op op = some q ∧ q.prog = o.prog + 1 ∧ t.ctxs = s.ctxs ∧ t.mem = s.mem
        ∧ SameScratch s t ∧ q.kind = .mmac { m with events := countEvents m.events ((upto 512).map fun j => (sums j).2) }
        ∧ (∀ j, j < 512 → mget 0#32 ((t.core k).set m.set).acc (o.prog * 512 + j) = (sums j).1)
        ∧ ∀ z, z < o.prog * 512 ∨ o.prog * 512 + 512 ≤ z → mget 0#32 ((t.core k).set m.set).acc z = acc z)
    ∧ (∀ m r, o.kind = .mmac m → o.prog = m.rows → s.engineRuns o.owner = true → (c.set m.set).reds = [r] → r.id = m.red →
      r.retire = none →
      (m.last = false → ∃ t, exec (.mmacLastWrite op) s = .next t ∧ t.op op = none ∧ t.ctxs = s.ctxs
        ∧ ((t.core k).set m.set).reds = [{ r with shadow := addCounts r.shadow m.events }])
      ∧ (m.last = true → ∃ t q d, exec (.mmacLastWrite op) s = .next t ∧ t.op op = some q ∧ q.kind = .drain d ∧ d.set = m.set
        ∧ d.prog = m.prog ∧ d.rq = m.rq ∧ d.rmax = r.rmax ∧ ((t.core k).set m.set).reds = []
        ∧ (t.core k).retires = c.retires + 1#16 ∧ (t.core k).drains = c.drains ++ [op]
        ∧ (∀ p ∈ t.ops, p.kind.isMatrix = true → op ∉ p.waits)
        ∧ ∀ x, s.ctxOf r.owner = some x → (t.ctx x).sr.rcard = reportCard r (c.retires + 1#16)
          ∧ (t.ctx x).sr.mxcnt = addCounts (s.ctx x).sr.mxcnt (addCounts r.shadow m.events)))
    ∧ (∀ m x, o.kind = .mmac m → o.prog = 0 → m.stage.id ∈ c.cancelled → s.ctxOf o.owner = some x →
      ∃ t, exec (.mmacDropped op) s = .next t ∧ t.op op = none ∧ SameMemory s t ∧ SameScratch s t
        ∧ (t.ctx x).owed = (s.ctx x).owed ++ [⟨0x15#8, s.matrixInfo k 3 m.set 0⟩]))
   ∧ (∀ (core : BitVec 7) (set : Bool) (r : Reduction) (x : Nat), ((s.core core.toNat).set set).reds = [r] → r.closed = false →
      s.ctxOf r.owner = some x → (s.ctx x).sr.redlim.toNat ≤ r.elapsed → s.mmacsOf core.toNat r.id = [] →
      ∃ t d, exec (.forcedRetirement core set) s = .next t ∧ ((t.core core.toNat).set set).reds = []
        ∧ (t.core core.toNat).retires = (s.core core.toNat).retires + 1#16 ∧ (t.core core.toNat).drains = (s.core core.toNat).drains ++ [s.nextOp]
        ∧ (∃ q, t.op s.nextOp = some q ∧ q.kind = .drain d ∧ d.prog = r.dprog ∧ d.rq = r.rq ∧ d.rmax = r.rmax)
        ∧ (t.ctx x).owed = (s.ctx x).owed ++ [⟨0x14#8, s.matrixInfo core.toNat 1 set 0⟩])

/-- 12 R213 to R220: the units of a drain. The drain in turn takes its next unit, or what a stop left of it, into an empty
pipe. A unit that has passed
the program without a refused store or a NaN that FCTL[0] forbids, once the queue has room and no earlier command uses what it
stores to, nor an earlier XFORM may still mark it packed (06 R115; log 17), performs: its stores land, no other byte changes, its entries join the queue in order, and the cursor moves on. A
refused store, and 1,024 cycles without room, stop the drain with nothing of the unit performed, and the owner is owed
DRAIN_FAULT or QUEUE_OVF; nothing waits for it then, and it is abandoned where the owner's next FIRST on the set is accepted
already. A drain whose rows are done leaves. It rests on the model's readings of log 22. -/
def Obligations.DrainUnitsPerform : Prop :=
  ∀ (op : Nat) (o : Op) (d : Drain) (s : State), s.op op = some o → o.kind = .drain d →
    let k := o.core
    let c := s.core k
    let g := mget {} c.progs d.prog
    let room := 64 - (mget [] c.queues d.rq).length
    let stops (j : Instr) (cause : BitVec 8) (reason stage : Nat) : Prop := ∃ t, exec j s = .next t ∧ (t.core k).pipe = none
      ∧ (t.core k).queues = c.queues ∧ SameScratch s t ∧ t.mem = s.mem
      ∧ (let next := ∃ p ∈ s.ops, p.core = k ∧ p.owner = o.owner ∧ p.prog = 0
           ∧ ∃ m, p.kind = .mmac m ∧ m.first = true ∧ m.set = d.set
         (next → t.op op = none)
         ∧ (¬next → ∃ q, t.op op = some q ∧ q.kind = .drain { d with stopped := true } ∧ q.prog = o.prog))
      ∧ (∀ p ∈ t.ops, op ∉ p.waits) ∧ ∀ x, s.ctxOf o.owner = some x → (t.ctx x).owed = (s.ctx x).owed
          ++ [⟨cause, drainInfo reason d.set (o.prog / 8) (o.prog % 8) stage d.prog⟩]
    (s.ready o = true → d.stopped = false → s.drainTurn o = true → o.prog < 8 * d.rmax →
      (c.pipe = none → (d.first = true → g.loaded = true ∧ g.job = o.owner.seq) →
        let w := unitWidth g
        let j := o.prog % 8
        let u : Pipe := { op := op, row := o.prog / 8, group := j, width := (j / w + 1) * w - j, rq := d.rq }
        (d.clear = false → exec (.drainUnit op) s = .next (s.setCore k { c with pipe := some u }))
        ∧ (d.clear = true → ∃ t, exec (.drainUnit op) s = .next t ∧ (t.core k).pipe = some u
            ∧ t.op op = some { o with kind := .drain { d with clear := false } } ∧ t.mem = s.mem ∧ SameScratch s t
            ∧ t.ctxs = s.ctxs ∧ ∀ z, mget 0#32 ((t.core k).set d.set).acc z = 0#32))
      ∧ (c.pipe = none → d.first = true → g.loaded = false ∨ g.job ≠ o.owner.seq → stops (.drainUnit op) 0x12#8 5 0)
      ∧ (∀ p, c.pipe = some p → p.done = true → p.op = op →
        (∀ x ∈ p.stores, c.unsettledBefore op ⟨x.addr, x.size⟩ = false) →
        ((d.nanStop = true → p.nan = none) → p.refusedNow c = [] → p.pushes.length ≤ room →
          (∀ x ∈ p.stores, s.writeBlocked k op ⟨x.addr, x.size⟩ = false) →
          ∃ t q, exec (.drainUnit op) s = .next t ∧ (t.core k).pipe = none ∧ t.op op = some q ∧ q.prog = o.prog + p.width
            ∧ mget [] (t.core k).queues d.rq = mget [] c.queues d.rq ++ p.inOrder.map (·.2.2)
            ∧ t.mem = s.mem ∧ t.ctxs = s.ctxs
            ∧ (SameScratchBut s t k fun z => ∃ x ∈ p.stores, ∃ i, i < x.size ∧ z = (x.addr + i) % 0x400000)
            ∧ ∀ x ∈ p.stores, p.group ≤ x.group → x.group < p.group + p.width → x.stage < 16 →
              x.addr + x.size ≤ 0x400000 → (∀ y ∈ p.stores, y ≠ x → y.addr + y.size ≤ x.addr ∨ x.addr + x.size ≤ y.addr) →
              (∀ y ∈ p.stores, y.addr + y.size ≤ 0x400000) →
              (t.core k).spBytes x.addr x.size = leBytes x.size (x.val.toNat % 2 ^ (8 * x.size)))
        ∧ (∀ n, d.nanStop = true → p.nan = some n → stops (.drainUnit op) 0x12#8 3 n)
        ∧ (∀ x, (d.nanStop = true → p.nan = none) → p.refusedNow c = [x] → x.2.2 ≠ 0 → stops (.drainUnit op) 0x12#8 x.2.2 x.2.1)))
    ∧ (∀ p, c.pipe = some p → p.op = op → p.done = true → 1024 ≤ p.waited → room < p.pushes.length →
      ∃ n, stops (.drainQueueTimeout op) 0x10#8 0 n)
    ∧ (s.ready o = true → s.drainTurn o = true → 8 * d.rmax ≤ o.prog →
      ∃ t, exec (.drainComplete op) s = .next t ∧ t.op op = none ∧ op ∉ (t.core k).drains ∧ SameScratch s t ∧ t.mem = s.mem
        ∧ t.ctxs = s.ctxs)

/-- 11 R182, R192, R195, 15 R254: the floors. A failed slab is unavailable, and a stage with a slice on it becomes invalid; a
throttle sets the one flag of its tower, floor and kind, and its end clears it; thermal shutdown takes the part off and
raises the fatal signal. -/
def Obligations.FloorsFailAndThrottle : Prop :=
  ∀ (core : BitVec 7) (floor : BitVec 2) (tower power : Bool) (s : State),
    let k := core.toNat
    let n := (if tower then 8 else 0) + 2 * floor.toNat + (if power then 1 else 0)
    let flag (on : Bool) (j : Instr) : Prop := ∃ t, exec j s = .next t ∧ t = { s with throttles := t.throttles }
      ∧ ∀ m, m < 16 → t.throttles.getLsbD m = if m = n then on else s.throttles.getLsbD m
    (∃ t, exec (.slabFailure core floor) s = .next t ∧ (t.core k).failed = (s.core k).failed ||| BitVec.twoPow 4 floor.toNat
      ∧ (t.availFloors k).getLsbD floor.toNat = false
      ∧ (∀ sel : CoreSt → Stage, sel = CoreSt.stageA ∨ sel = CoreSt.stageS →
          let g := sel (s.core k)
          let hit := floor.toNat ∈ g.deal ∧ (g.valid = true ∨ g.loading = true)
          (hit → sel (t.core k) = { g with valid := false, loading := false, failed := true })
          ∧ (¬hit → sel (t.core k) = g))
      ∧ SameMemory s t ∧ SameScratch s t)
    ∧ flag true (.floorThrottle tower floor power)
    ∧ flag false (.throttleLifted tower floor power)
    ∧ exec .thermalShutdown s = .next { s with power := .off, signals := s.signals ++ [.fatal] }

/-! ### The step, the fetch and the issue -/

/-- 04 R63 to R71, R73, 03 R54, 12 R211: a step is the move that comes next, and what follows every move. The micro-operation of
a drain pipe is the decoded word of its program. A cycle of an unfrozen core whose one context stands at a bundle of one slot
runs that slot's decoded instruction: exec of it, with the latch holding the registers as the bundle found them and PC already
past the bundle; unless the instruction yields or waits, what it leaves is what the cycle leaves, but for the context's issue
counters and reread marks and the merge pointer; when it yields, the context still stands at the bundle. Which move comes next
is the model's choice (log 2), as is the placing of drain micro-operations (log 1). -/
def Obligations.StepRunsTheDecodedInstruction : Prop :=
  ∀ (s : State),
    (s.power = .running →
      (∀ i t, s.choose = .step i → exec i s = .next t → step s = .next t.after)
      ∧ (∀ k p o d i t, s.choose = .micro k → (s.core k).pipe = some p → p.done = false → s.frozen k = false →
        s.op p.op = some o → o.kind = .drain d →
        decodeDrain ((nth 0#32 (mget {} (s.core k).progs d.prog).code p.step).setWidth 24) = .ok i →
        exec i { s with drainCore := k } = .next t → step s = .next t.after))
    ∧ (∀ (core : BitVec 7) (c : Nat) (d : Decoded) (n : Nat) (i : Instr),
      let k := core.toNat
      let x := s.ctx c
      let u := (s.core k).ucycle + 1
      coreOf c = k → s.standsAt c d → d.slots = [(n, i)] → d.sync = 0#2 → d.bpen = false →
      ∃ v, v.issue = { ctx := c, slot := n, pcb := x.pc, ximm := if d.xown.toNat = n then some d.ximm else none, regs := x.regs
                       sr := x.sr, heads := (s.core k).heads, hview := x.hview }
        ∧ v.ctx c = { x.keepBar with pc := x.pc + 1#16 } ∧ v.mem = s.mem ∧ v.ops = s.ops ∧ v.jobs = s.jobs ∧ v.nextOp = s.nextOp
        ∧ SameScratch s v
        ∧ ∀ t, exec i v = .next t →
          (t.issue.stop ≠ .yields → t.issue.waiting = false →
            ∃ w, exec (.mergeCycle core) s = .next w ∧ w.mem = t.mem ∧ w.ops = t.ops ∧ w.jobs = t.jobs ∧ w.nextOp = t.nextOp
              ∧ w.core k = { t.core k with rp := (t.core k).rp % 4 } ∧ (∀ j, j ≠ k → w.core j = t.core j)
              ∧ w.ctx c = { (t.ctx c).issued x.pc x.hact x.sr.fctl u [(n, i)] with rereads := [] } ∧ ∀ j, j ≠ c → w.ctx j = t.ctx j)
          ∧ (t.issue.stop = .yields → ∃ w, exec (.mergeCycle core) s = .next w ∧ (w.ctx c).pc = x.pc ∧ (w.ctx c).regs = x.regs
              ∧ (w.ctx c).sr = x.sr ∧ w.ops = s.ops ∧ SameMemory s w ∧ SameScratch s w))

/-- 04 R63, R64, R66, Table 4-1, 04 R70, 09 R165, R168: the steps around issue. The fetch of a context that may offer and
offers none takes a dictionary entry inside DICTLEN, an empty bundle for 0xFFFE, and for 0xFFFF the 24 halfwords that follow;
any other index, and a PC outside the index stream, raises ILLEGAL_INDEX with PC and the index. The stores are read as they
stand, but for the ranges that an IFENCE LOAD is copying into, where each halfword and each entry is the old or the new one
(21 R306). Results that are due leave the flight list. A context that owes one trap, and stands at a bundle boundary, takes it
with nothing committed. At HMLIM the strands that a freeze concerns stop for LATE_MEMORY, to be saved once what they wait for
is there, and what froze the core goes on without a freeze; a strand that is already being saved for a system stop keeps its
cause. A fetch of another bundle drops what a barrier's bundle has recorded, but in a handler (log 12). 03 R54, R57, 06 R109,
09 R167, 04 R70, R71: a merge cycle of a core that a bank conflict freezes counts the freeze down; one in a memory freeze
counts in the Hall monitor below every HMLIM; one of an unfrozen core counts an unfrozen cycle, changes no context when none
has a strand, and issues the bundle of the one that stands at it, shown for ADD: PC moves on and the sum is in flight for the
next cycle. It rests on the model's readings of
log 12. -/
def Obligations.FetchAndBoundarySteps : Prop :=
  ∀ (ctx : BitVec 9) (s : State),
    let c := ctx.toNat
    let x := s.ctx c
    let k := s.core (coreOf c)
    let m := s.fetchCore (coreOf c)
    let v := m.halfword (x.idxbase.toNat + x.pc.toNat)
    let changes (j : Instr) (y : Ctx) : Prop := ∃ t, exec j s = .next t ∧ t.ctx c = y ∧ SameContextsBut s t c ∧ t.cores = s.cores
      ∧ t.mem = s.mem ∧ t.ops = s.ops
    let offers (b : Bundle) (len : Nat) : Prop := changes (.bundleFetch ctx)
      { x.keepBar with offered := some (if b = 0#384 then .ok ⟨[], 7#3, 0#32, false, 0#6, 0#2⟩ len
                                else match decodeBundle b with | .ok d => .ok d len | .error r => .bad r) }
    (s.mayOffer c = true → x.offered = none →
      let inside := x.oor = false ∧ x.pc.toNat < x.idxlen.toNat
      let entry := v.toNat < 4096 ∧ v.toNat < x.sr.dictlen.toNat ∧ x.sr.dictbase.toNat + v.toNat ≤ 4095
      let inline := v = 0xFFFF#16 ∧ x.pc.toNat + 24 < x.idxlen.toNat
      (inside → entry → offers (mget 0#384 m.dict (x.sr.dictbase.toNat + v.toNat)) 1)
      ∧ (inside → v = 0xFFFE#16 → offers (0x01C00000#384 <<< 352) 1)
      ∧ (inside → inline → offers
          (bundleOfHalfwords ((upto 24).map fun i => m.halfword (x.idxbase.toNat + x.pc.toNat + (i + 1)))) 25)
      ∧ (inside → ¬entry → v ≠ 0xFFFE#16 → ¬inline →
        changes (.bundleFetch ctx) (({ x.keepBar with oor := false }).whole.trap 0x02#8 (0#32 ++ x.pc ++ v) x.pc))
      ∧ (¬inside → changes (.bundleFetch ctx) (({ x.keepBar with oor := false }).whole.trap 0x02#8 (0#32 ++ x.pc ++ 0#16) x.pc)))
    ∧ ((∀ o ∈ s.ops, o.core = coreOf c → o.copying = none) → m = k)
    ∧ (∀ a, a < 65536 → m.halfword a = k.halfword a ∨ ∃ o ∈ s.ops, ∃ r bs e, o.core = coreOf c ∧ o.copying = some (r, bs)
      ∧ e < r.idxlen.toNat ∧ a = r.idxbase.toNat + e
      ∧ m.halfword a = BitVec.ofNat 16 (leNat ((bs.drop ((64 + 48 * r.dictlen.toNat + 63) / 64 * 64 + 2 * e)).take 2)))
    ∧ (∀ a, mget 0#384 m.dict a = mget 0#384 k.dict a ∨ ∃ o ∈ s.ops, ∃ r bs e, o.core = coreOf c ∧ o.copying = some (r, bs)
      ∧ e < r.dictlen.toNat ∧ a = r.dictbase.toNat + e
      ∧ mget 0#384 m.dict a = BitVec.ofNat 384 (leNat ((bs.drop (64 + 48 * e)).take 48)))
    ∧ changes (.resultWriteback ctx) (x.landDue k.ucycle)
    ∧ (x.landDue k.ucycle).flight = x.flight.filter (fun f => k.ucycle < f.due)
    ∧ (∀ o f i, s.mayOffer c = true → x.offered = some f → x.strand = some i → s.faultHead (coreOf c) i = none →
      x.owed = [o] → o.cause ≠ 0x28#8 → changes (.owedTrapTaken ctx) (({ x with owed := [] }).whole.trap o.cause o.info x.pc))
    ∧ (∀ (core : BitVec 7), (∃ o ∈ s.freezing core.toNat, ∃ j, s.ctxOf o.owner = some j
        ∧ (s.ctx j).sr.hmlim.toNat ≤ (s.core core.toNat).hall) →
      ∃ t, exec (.lateMemory core) s = .next t ∧ (t.core core.toNat).hall = 0 ∧ t.mem = s.mem
        ∧ (s.numbered → ∀ o ∈ s.freezing core.toNat,
            t.op o.id = some (match o.kind with | .mmac _ => o | _ => { o with late := true }))
        ∧ ∀ o ∈ s.freezing core.toNat, ∀ j, s.ctxOf o.owner = some j →
          (t.ctx j).regs = (s.ctx j).regs ∧ (t.ctx j).pc = (s.ctx j).pc
          ∧ ((∀ r, (s.ctx j).stop = some r → r.reason ≠ 1) → ∃ r, (t.ctx j).stop = some r ∧ r.reason = 2
            ∧ r.cause = 0x21#8 ∧ r.pc = (s.ctx j).pc ∧ ∀ n ∈ s.awaited o, n ∈ r.waits)
          ∧ ∀ r, (s.ctx j).stop = some r → r.reason = 1 → (t.ctx j).stop = some r)
    ∧ (∀ (core : BitVec 7),
      let j := core.toNat
      let y := s.core j
      let n := Nat.max y.cycle s.cclk + 1
      (y.freeze ≠ 0 → ∃ t, exec (.mergeCycle core) s = .next t ∧ t.core j = { y with cycle := n, freeze := y.freeze - 1 }
        ∧ (∀ i, i ≠ j → t.core i = s.core i) ∧ t.ctxs = s.ctxs ∧ t.ops = s.ops ∧ t.mem = s.mem)
      ∧ (y.freeze = 0 → s.freezing j ≠ [] →
        (∀ o ∈ s.freezing j, ∀ i, s.ctxOf o.owner = some i → y.hall + 1 < (s.ctx i).sr.hmlim.toNat) →
        ∃ t, exec (.mergeCycle core) s = .next t ∧ (t.core j).cycle = n ∧ (t.core j).ucycle = y.ucycle ∧ 1 ≤ (t.core j).hall
          ∧ (t.core j).hall ≤ y.hall + 1 ∧ t.ctxs = s.ctxs ∧ t.ops = s.ops ∧ t.mem = s.mem ∧ SameScratch s t)
      ∧ (s.frozen j = false → (∀ i, coreOf i = j → (s.ctx i).strand = none ∧ (s.ctx i).hold = none ∧ (s.ctx i).flight = []) →
        ∃ t, exec (.mergeCycle core) s = .next t ∧ (t.core j).cycle = n ∧ (t.core j).ucycle = y.ucycle + 1
          ∧ (t.core j).hall = 0 ∧ (∀ i, t.ctx i = s.ctx i) ∧ t.ops = s.ops ∧ t.mem = s.mem ∧ SameScratch s t)
      ∧ (∀ (i m : Nat) (d : Decoded) (r : BitVec 6) (a b : Src), coreOf i = j → s.standsAt i d → d.slots = [(m, .add r a b)] →
        d.sync = 0#2 → d.bpen = false → r ≠ 0#6 →
        let z := s.ctx i
        z.regs.isEmpty (sReg a.reg) = false → z.regs.isEmpty (sReg b.reg) = false →
        ∃ t, exec (.mergeCycle core) s = .next t ∧ (t.core j).cycle = n ∧ (t.core j).ucycle = y.ucycle + 1
          ∧ (t.ctx i).pc = z.pc + 1#16 ∧ (t.ctx i).sr = z.sr ∧ (t.ctx i).regs.isEmpty (sReg r) = true
          ∧ (t.ctx i).flight = [⟨sReg r, s.nextOp, y.ucycle + 2, .word (z.regs.sGet a.reg + z.regs.sGet b.reg), 0#5⟩]
          ∧ SameRegs s t i ∧ t.ops = s.ops ∧ t.mem = s.mem ∧ SameScratch s t))

/-! ### Strands and jobs -/

/-- 03 R58, 09 R172 to R175, Tables 9-5 and 9-6: the life of a strand beside its bundles. Pre-emption stops a context of lower
priority than the strand that waits, with its gang, whose saved members count as taken with it (03 R52); a save writes the slot
and frees the context; a restore, when its turn is next, takes registers and PC from the slot; a result that came for a saved
strand goes into the slot and clears its bits, and the end of a request without a result clears the PENDING bit alone; a machine
check of a context's state loses the strand. 09 'Debug function' (R177): REASON of a strand that a debug stop saves; that it is 3
beside LATE_MEMORY and stays 1 beside a system stop is DEDUCED (log 28). Where the rest of a save is kept is the model's choice
(log 5), and so is the order of restores (log 26). -/
def Obligations.StrandsAreSavedAndRestored : Prop :=
  ∀ (s : State),
    (∀ seq n j x c i v, findJob seq s.jobs = some j → j.strands[n]? = some x → s.wantsPreempt j n = some c →
      (s.ctx c).strand = some i → findJob i.seq s.jobs = some v →
      (s.ctx c).sr.prio.toNat < x.prio j
      ∧ ∃ t, exec (.preempt seq n) s = .next t
        ∧ (let gang := v.gangOf i.idx
           let whole := decide (1 < gang.length)
           let saved (m : Nat) (y : Strand) (w : Saved) : Prop := s.strand ⟨i.seq, m⟩ = some y ∧ y.st = .saved ∧ y.saved = some w
           t.ctx c = { s.ctx c with stop := some { reason := 0, cause := 0x22#8, info := 0#64, pc := (s.ctx c).pc, gang := whole } }
           ∧ (∀ m ∈ gang, ∀ y w, saved m y w → t.strand ⟨i.seq, m⟩ = some { y with saved := some { w with gang := whole || w.gang } })
           ∧ ((∀ m ∈ gang, ∀ y w, ¬saved m y w) → t.jobs = s.jobs))
        ∧ t.mem = s.mem ∧ t.cores = s.cores)
    ∧ (∀ (ctx : BitVec 9) i r u, let c := ctx.toNat
      s.maySave c = true → (s.ctx c).strand = some i → (s.ctx c).stop = some r →
      s.blocked (s.tenantOf i) true (s.ctx c).sr.xsave.toNat 24576 = none →
      s.putAt (s.tenantOf i) (s.ctx c).sr.xsave.toNat (s.slotImage c i r) = some u →
      ∃ t w, exec (.strandSave ctx) s = .next t ∧ t.ctx c = {} ∧ t.mem = u.mem ∧ t.cores = s.cores
        ∧ (∃ y, t.strand i = some y ∧ y.st = .saved ∧ y.saved = some w)
        ∧ w.core = coreOf c ∧ w.slot = (s.ctx c).sr.xsave.toNat ∧ w.pc = (s.ctx c).pc ∧ w.prio = (s.ctx c).sr.prio.toNat
        ∧ (w.held = true ↔ r.reason = 1) ∧ w.owed = (s.ctx c).owed ∧ w.tags = (s.ctx c).tags
        ∧ w.hold = (s.ctx c).hold ∧ w.gang = r.gang
        ∧ (r.reason = 0 → r.debug = false → t.records = u.records)
        ∧ (r.reason = 1 → r.debug = false → ∃ e, t.records = u.records ++ [e] ∧ recordKind e = 1))
    ∧ (∀ c i r, let b := s.slotImage c i r
      (∀ n, n < 64 → natIn b (0x40 + 8 * n) 8 = ((s.ctx c).regs.sGet (BitVec.ofNat 6 n)).toNat)
      ∧ (∀ n, n < 16 → natIn b (0x240 + 8 * n) 8 = ((s.ctx c).regs.mGet (BitVec.ofNat 4 n)).toNat)
      ∧ natIn b 0x1A 2 = (s.ctx c).pc.toNat ∧ (r.debug = false ∨ r.reason ≠ 2 → natIn b 0 1 % 8 = r.reason % 8)
      ∧ (r.debug = true → r.reason = 2 → natIn b 0 1 % 8 = 3) ∧ natIn b 0x2C0 8 = (s.ctx c).regs.emptyS.toNat)
    ∧ (∀ seq n j, findJob seq s.jobs = some j → s.mayRestore j n = false → exec (.strandRestore seq n) s = .next s)
    ∧ (∀ seq n j w c l bs, findJob seq s.jobs = some j → s.mayRestore j n = true → s.restoreSet j n = some [n] →
      s.restorable ⟨seq, n⟩ = some w → s.room ⟨seq, n⟩ w = c :: l →
      s.blocked (s.tenantOf ⟨seq, n⟩) false w.slot 24576 = none → s.bytesAt (s.tenantOf ⟨seq, n⟩) w.slot 24576 = some bs →
      ∃ t, exec (.strandRestore seq n) s = .next t ∧ t.ctxOf ⟨seq, n⟩ = some c ∧ (t.ctx c).strand = some ⟨seq, n⟩
        ∧ (∀ m : BitVec 6, m ≠ 0#6 → (t.ctx c).regs.sGet m = BitVec.ofNat 64 (natIn bs (0x40 + 8 * m.toNat) 8))
        ∧ (natIn bs 0 1 % 8 ≠ 1 → (t.ctx c).pc = BitVec.ofNat 16 (natIn bs 0x1A 2)) ∧ SameMemory s t
        ∧ SameContextsBut s t c)
    ∧ (∀ op o v (m : BitVec 6) tag w b1 b2 s1 s2 s3 x, s.op op = some o → o.kind = .result (.word v) → o.dest = some (sReg m, tag) → m ≠ 0#6 →
      s.strand o.owner = some x → x.saved = some w →
      s.blocked o.tenant true w.slot 24576 = none →
      let bit : Byte := ~~~BitVec.twoPow 8 (m.toNat % 8)
      s.putAt o.tenant (w.slot + (0x40 + 8 * m.toNat)) (leBytes 8 v.toNat) = some s1 →
      s1.bytesAt o.tenant (w.slot + 0x2C0 + m.toNat / 8) 1 = some [b1] →
      s1.putAt o.tenant (w.slot + 0x2C0 + m.toNat / 8) [b1 &&& bit] = some s2 →
      s2.bytesAt o.tenant (w.slot + 32 + m.toNat / 8) 1 = some [b2] →
      s2.putAt o.tenant (w.slot + 32 + m.toNat / 8) [b2 &&& bit] = some s3 →
      exec (.pendingResultToSlot op) s = .next (s3.endOp op))
    ∧ (∀ op o (m : BitVec 6) tag w b s1 x, s.op op = some o → o.kind = .noResult → o.dest = some (sReg m, tag) → m ≠ 0#6 →
      s.strand o.owner = some x → x.saved = some w → s.blocked o.tenant true w.slot 24576 = none →
      s.bytesAt o.tenant (w.slot + 32 + m.toNat / 8) 1 = some [b] →
      s.putAt o.tenant (w.slot + 32 + m.toNat / 8) [b &&& ~~~BitVec.twoPow 8 (m.toNat % 8)] = some s1 →
      exec (.pendingResultToSlot op) s = .next (s1.endOp op))
    ∧ (∀ (ctx : BitVec 9) i, (s.ctx ctx.toNat).strand = some i → s.ctxOf i = some ctx.toNat →
      ∃ t, exec (.stateMachineCheck ctx) s = .next t ∧ (t.ctx ctx.toNat).strand = none ∧ SameMemory s t
        ∧ ∃ y, t.strand i = some y ∧ y.st = .lost)

/-- 09 R166, R177, R178, Table 9-7: the dispositions of a held strand: RESUME releases the hold, KILL ends the strand and its
job fails with FAULTED unless it has failed already; a strand that is not held only shows in the registers. A debug request ends
DENIED without a session for the strand's tenant, and on a strand that is not held; with one, STOP stops a Resident strand, also
one that a pre-emption has stopped, and holds a saved one, whose header then shows the debug stop; READ fills the data window
from the slot, WRITE stores it there, RESUME releases the debug hold and KILL ends the strand; while lines of the slot wait
behind a migration (14 R237) the request waits, and GO reads 1. It rests on the model's readings of log 18 and log 28. -/
def Obligations.DispositionsAndDebugRequests : Prop :=
  ∀ (seq : BitVec 56) (n : BitVec 13) (s : State), s.dbg.go = false →
    let i : StrandId := ⟨seq.toNat, n.toNat⟩
    let ends (j : Instr) (req : BitVec 3) (res : BitVec 2) : Prop := exec j s = .next
      { s with dbg := { s.dbg with djob := seq, dstrand := n, dreq := req, go := false, dres := res, waits := 0#3 } }
    let waits (j : Instr) (req : BitVec 3) : Prop := exec j s = .next
      { s with dbg := { s.dbg with djob := seq, dstrand := n, dreq := req, go := true, dres := 1#2, waits := req } }
    let slotWaits (write : Bool) (w : Saved) (off m : Nat) : Prop := s.blocked (s.tenantOf i) write (w.slot + off) m = some .waits
    let open_ := s.dbg.unlocked = true ∧ s.tenantOf i = s.dbg.dtenant
    let killed (j : Instr) : Prop := ∃ t y z, exec j s = .next t ∧ t.strand i = some y ∧ y.st = .exited ∧ y.saved = none
      ∧ findJob i.seq t.jobs = some z ∧ 0x20 ≤ z.status ∧ t.mem = s.mem
    (s.dbg.unlocked = false ∨ s.strand i = none ∨ s.tenantOf i ≠ s.dbg.dtenant →
      ends (.debugStop seq n) 1#3 2#2 ∧ ends (.debugRead seq n) 2#3 2#2 ∧ ends (.debugWrite seq n) 3#3 2#2
      ∧ ends (.debugResume seq n) 4#3 2#2 ∧ ends (.debugKill seq n) 5#3 2#2)
    ∧ (open_ → ∀ x c, s.strand i = some x → x.st = .resident c → (s.ctx c).stop = none →
      (∃ t r, exec (.debugStop seq n) s = .next t ∧ (t.ctx c).stop = some r ∧ r.reason = 3 ∧ r.pc = (s.ctx c).pc
        ∧ (t.ctx c).regs = (s.ctx c).regs ∧ t.dbg.go = true ∧ t.dbg.dres = 1#2 ∧ t.mem = s.mem)
      ∧ ends (.debugRead seq n) 2#3 2#2 ∧ ends (.debugWrite seq n) 3#3 2#2 ∧ ends (.debugResume seq n) 4#3 2#2)
    ∧ (open_ → ∀ x c r, s.strand i = some x → x.st = .resident c → (s.ctx c).stop = some r → r.reason = 0 →
      ∃ t q, exec (.debugStop seq n) s = .next t ∧ (t.ctx c).stop = some q ∧ q.reason = 3 ∧ q.pc = r.pc
        ∧ (t.ctx c).regs = (s.ctx c).regs ∧ t.dbg.go = true ∧ t.dbg.dres = 1#2 ∧ t.mem = s.mem)
    ∧ (open_ → ∀ x w b s1, s.strand i = some x → x.st = .saved → x.saved = some w → w.held = false → w.dheld = false →
      (slotWaits true w 0 1 → waits (.debugStop seq n) 1#3) ∧ (¬slotWaits true w 0 1 →
      s.bytesAt (s.tenantOf i) w.slot 1 = some [b] →
      s.putAt (s.tenantOf i) w.slot [(b &&& 0xF0#8) ||| if b &&& 7#8 = 1#8 then 0x09#8 else 0x0B#8] = some s1 →
      ∃ t y e, exec (.debugStop seq n) s = .next t ∧ t.strand i = some y ∧ y.st = .saved ∧ y.saved = some { w with dheld := true }
        ∧ t.mem = s1.mem ∧ t.records = s.records ++ [e] ∧ recordKind e = 4))
    ∧ (∀ x w, s.strand i = some x → x.st = .saved → x.saved = some w →
      (w.held = true →
        (∃ t y, exec (.dispResume seq n) s = .next t ∧ t.strand i = some y ∧ y.st = .saved
          ∧ y.saved = some { w with held := false } ∧ t.mem = s.mem ∧ t.ctxs = s.ctxs ∧ t.evq.djob = seq ∧ t.evq.dstrand = n)
        ∧ killed (.dispKill seq n))
      ∧ (w.held = false → ∀ j ∈ [Instr.dispResume seq n, .dispKill seq n],
        exec j s = .next { s with evq := { s.evq with djob := seq, dstrand := n } })
      ∧ (open_ → w.held = true ∨ w.dheld = true →
        (∃ t y, exec (.debugResume seq n) s = .next t ∧ t.strand i = some y ∧ y.saved = some { w with dheld := false }
          ∧ t.mem = s.mem ∧ t.ctxs = s.ctxs)
        ∧ killed (.debugKill seq n)
        ∧ (∃ t y, exec (.debugStop seq n) s = .next t ∧ t.strand i = some y ∧ y.saved = some { w with dheld := true } ∧ t.mem = s.mem)
        ∧ (slotWaits false w 0 24576 → waits (.debugRead seq n) 2#3)
        ∧ (∀ bs, ¬slotWaits false w 0 24576 → s.bytesAt (s.tenantOf i) w.slot 24576 = some bs → bs.length = 24576 →
          ∃ t, exec (.debugRead seq n) s = .next t ∧ SameMemory s t ∧ t.dbg.rcount = (s.core w.core).retires
            ∧ ∀ a (h : a < bs.length), mget 0#8 t.dbg.slot a = bs[a])
        ∧ (let parts := [(0x1A, 2), (0x40, 0x280), (0x2C0, 18), (0x1000, 0x4000)]
          ((∃ p ∈ parts, slotWaits true w p.1 p.2) → waits (.debugWrite seq n) 3#3)
          ∧ ((∀ p ∈ parts, ¬slotWaits true w p.1 p.2) → ∀ s1 s2 s3 s4, let b := s.dbg.bytes
          let s0 : State :=
            { s with dbg := { s.dbg with djob := seq, dstrand := n, dreq := 3#3, go := false, dres := 0#2, waits := 0#3 } }
          s0.putAt (s.tenantOf i) (w.slot + 0x1A) (b 0x1A 2) = some s1 → s1.putAt (s.tenantOf i) (w.slot + 0x40) (b 0x40 0x280) = some s2 →
          s2.putAt (s.tenantOf i) (w.slot + 0x2C0) (b 0x2C0 18) = some s3 →
          s3.putAt (s.tenantOf i) (w.slot + 0x1000) (b 0x1000 0x4000) = some s4 → exec (.debugWrite seq n) s = .next s4))))

/-- 03 R37, R39, R47 to R52, R60, R62, 15 R249: the life of a job. Admission takes the packet of the queue whose turn it is,
read once, though it may have had to wait since: one that passes the checks becomes the next job, with the lesser of its
priority and the queue's cap, and SQRD moves on; the host learns when it takes the last sequence number; one that fails writes
its completion record. A job whose dependences are met starts, copies its INPLACE regions and reads its parameter words; one
whose producer failed ends. Placement gives the first eligible core with room, on its lowest free context, the strand's first
state, and its first bundle acquires (07 R147). A completing job writes its record and CQWR moves on. A re-run puts every strand
back to Pending; a job that is no longer replayable ends with NON_REPLAYABLE_PARTIAL instead. It rests on the model's readings
of log 16, log 25 and log 26. -/
def Obligations.JobsAreAdmittedAndRun : Prop :=
  ∀ (s : State),
    (∀ q p u, s.admitting = true → s.turnOf = some q →
      let r := s.queueRegs q
      let slot := r.sqrd.toNat
      let va := r.sqbase.toNat + 64 * slot
      let read := s.packets.find? (·.1 == q) = none ∧ s.blocked r.tenant false va 64 = none
        ∧ (s.bytesAt r.tenant va 64).map lineBits = some p
        ∧ u = { (s.cpUnpark 0 q).countRead r.tenant va 64 with packets := s.packets ++ [(q, p)] }
      let heldOver := s.packets.find? (·.1 == q) = some (q, p) ∧ u = s.cpUnpark 0 q
      read ∨ heldOver → s.launchAt q slot = none →
      let takes (t : State) : Prop := exec .jobAdmission s = .next t ∧ t.packets = s.packets.filter (·.1 != q)
        ∧ (t.queueRegs q).sqrd = BitVec.ofNat 16 ((slot + 1) % 2 ^ (r.log2n.toNat + 4)) ∧ t.rot = (q + 1) % 320
        ∧ t.ctxs = s.ctxs ∧ t.cores = s.cores ∧ t.ops = s.ops
      (∀ h gs, u.checkPacket p (u.source q slot p) false = .ok h gs →
        ∃ t j, takes t ∧ SameMemory s t ∧ t.jobs = s.jobs ++ [j] ∧ t.nextSeq = s.nextSeq + 1
          ∧ t.signals = s.signals ++ (if s.nextSeq + 1 = 2 ^ 56 then [.event] else []) ∧ j.seq = s.nextSeq ∧ j.packet = p
          ∧ j.queue = some q ∧ j.slot = slot ∧ j.groups = gs ∧ j.header = h ∧ j.started = false ∧ j.status = 0
          ∧ (r.tenant ≠ 0xFFFF#16 → j.tenant = r.tenant) ∧ j.prio = Nat.min (j.field 352 5) r.priocap.toNat
          ∧ j.strands.length = j.field 51 13 ∧ ∀ x ∈ j.strands, x.st = .pending)
      ∧ (∀ status v, u.checkPacket p (u.source q slot p) false = .bad status → r.cqbase ≠ 0#57 →
        u.blocked r.tenant true (r.cqbase.toNat + 16 * r.cqwr.toNat) 16 = none →
        u.putAt r.tenant (r.cqbase.toNat + 16 * r.cqwr.toNat) (completionRecord 0 status slot s.dtime) = some v →
        ∃ t, takes t ∧ SameMemory v t ∧ t.jobs = s.jobs
          ∧ (t.queueRegs q).cqwr = BitVec.ofNat 16 ((r.cqwr.toNat + 1) % 2 ^ (r.log2n.toNat + 4))
          ∧ t.signals = s.signals ++ (if r.ien then [.msix r.vector.toNat] else [])))
    ∧ (∀ seq j, findJob seq s.jobs = some j → j.started = false → j.removed = false → j.completed = false →
      (∀ lo x, (j.field 440 4 ≠ 0 ∧ lo = 384 ∨ j.field 504 4 ≠ 0 ∧ lo = 448) → findJob (j.field lo 56) s.jobs = some x →
        x.completed = true → 0x20 ≤ x.status → ∃ t y, exec (.jobStart seq) s = .next t ∧ findJob seq t.jobs = some y
          ∧ y.status = (if 0x20 ≤ j.status then j.status else 0x23) ∧ (∀ z ∈ y.strands, z.st = .exited) ∧ t.mem = s.mem ∧ t.ctxs = s.ctxs)
      ∧ (∀ bs, (∀ lo k, (lo, k) ∈ [(384, j.field 440 4), (448, j.field 504 4)] → k = 0 ∨ findJob (j.field lo 56) s.jobs = none
          ∨ ∃ x, findJob (j.field lo 56) s.jobs = some x ∧ x.completed = true ∧ x.status < 0x20) →
        let n := headerParams j.header
        let u := (s.cpUnpark seq 0).countRead j.tenant (j.va 128) (8 * n)
        s.blocked j.tenant false (j.va 128) (8 * n) = none → s.bytesAt j.tenant (j.va 128) (8 * n) = some bs →
        ∀ w, u.snapshot j = .ok w →
        ∃ t y, exec (.jobStart seq) s = .next t ∧ findJob seq t.jobs = some y ∧ y.started = true ∧ y.status = j.status
          ∧ y.strands = j.strands ∧ y.params.length = n ∧ y.wsetOk = w.isSome ∧ y.wset = w.getD [] ∧ SameMemory s t
          ∧ t.ctxs = s.ctxs
          ∧ ∀ i, i < n → nth 0#64 y.params i = BitVec.ofNat 64 (leNat ((bs.drop (8 * i)).take 8))))
    ∧ (∀ j l n us before k after c free image, s.placing = j :: l → findJob j.seq s.jobs = some j → j.units = [n] :: us →
      coreOrder (s.preferred j) = before ++ k :: after → s.freeCtxs k = c :: free →
      let size := imageBytes (headerRanges j.header)
      s.blocked j.tenant false j.image size = none → s.bytesAt j.tenant j.image size = some image →
      (∀ x ∈ before, s.eligible j n x = false ∨ (s.freeCtxs x).length ≤ s.waitingSaved x ⟨j.prio, j.seq, n⟩) →
      s.eligible j n k = true → s.waitingSaved k ⟨j.prio, j.seq, n⟩ < (s.freeCtxs k).length → n < j.strands.length →
      ∃ t y, exec .strandPlacement s = .next t ∧ t.strand ⟨j.seq, n⟩ = some y ∧ y.st = .resident c ∧ y.core = some k
        ∧ SameContextsBut s t c ∧ SameMemory s t ∧ t.ops = s.ops
        ∧ (∀ h, h < 16 → (t.head k h).stage = [])
        ∧ (let x := t.ctx c
           x.strand = some ⟨j.seq, n⟩ ∧ x.pc = BitVec.ofNat 16 (j.field 320 16) ∧ x.hact = false ∧ x.sr.xvec = 0#16
            ∧ x.sr.pl = (if j.packet.getLsbD 359 then 1#2 else 0#2) ∧ x.sr.prio = BitVec.ofNat 5 j.prio
            ∧ x.sr.xsave = BitVec.ofNat 57 (j.va 192 + 24576 * n) ∧ x.kernel = headerRanges j.header
            ∧ (headerParams j.header = 0 → x.regs = {})))
    ∧ (∀ seq j q v, findJob seq s.jobs = some j → j.started = true → j.completed = false → j.rerun = false →
      (∀ x ∈ j.strands, x.st = .exited ∨ x.st = .lost) → j.children = [] → (∀ o ∈ s.ops, o.owner.seq ≠ seq) →
      (∀ k h, h < 16 → (s.head k h).job = seq → (s.head k h).mode = 0) →
      let r := s.queueRegs q
      j.queue = some q → r.cqbase ≠ 0#57 → s.blocked r.tenant true (r.cqbase.toNat + 16 * r.cqwr.toNat) 16 = none →
      s.putAt r.tenant (r.cqbase.toNat + 16 * r.cqwr.toNat) (completionRecord seq j.status j.slot s.dtime) = some v →
      ∃ t y, exec (.jobCompletion seq) s = .next t ∧ findJob seq t.jobs = some y ∧ y.completed = true ∧ y.status = j.status
        ∧ t.mem = v.mem ∧ (t.queueRegs q).cqwr = BitVec.ofNat 16 ((r.cqwr.toNat + 1) % 2 ^ (r.log2n.toNat + 4))
        ∧ t.ops = s.ops ∧ t.ctxs = s.ctxs)
    ∧ (∀ seq j bs, findJob seq s.jobs = some j → j.rerun = true → (∀ o ∈ s.ops, o.owner.seq ≠ seq) →
      (∀ k h, h < 16 → (s.head k h).job = seq → (s.head k h).mode = 0) → j.wset = [] →
      let n := headerParams j.header
      (s.replayable j = false → exec (.jobRerun seq) s = .next (s.endJob seq 0x21))
      ∧ (s.replayable j = true → s.blocked j.tenant false (j.va 128) (8 * n) = none → s.bytesAt j.tenant (j.va 128) (8 * n) = some bs →
      ∃ t y, exec (.jobRerun seq) s = .next t ∧ findJob seq t.jobs = some y ∧ y.rerun = false ∧ y.reruns = j.reruns + 1
        ∧ y.strands.length = j.strands.length ∧ (∀ x ∈ y.strands, x.st = .pending) ∧ SameMemory s t ∧ t.ctxs = s.ctxs
        ∧ ∀ x ∈ t.nets, x.job ≠ seq))

/-! ### The memory system and the host -/

/-- 14 R225, R228, R234 to R237, R359, 07 R131, 09 R171, 15 R245, R247: the steps of the memory system. A write request stores
its line, a host write the bytes of the line that its mask names, a host atomic operation its new value, and no other byte;
behind a migration each parks at the home controller, and without a credit it waits at the core. A request without a translation
parks with a record of kind 0, the first of its page. A flip that is accepted leaves every byte of the frame at the new media,
with the new tier and media in the entry; one that is not accepted leaves the old ones. A refresh window ends the counts of its
stack, an interval those of Attendance; a poisoned block gets tag code 0xFF with the old code in the scale's place; a stack that
goes offline interrupts the jobs that name it. It rests on the model's readings of log 27 and log 30. -/
def Obligations.MemorySystemSteps : Prop :=
  ∀ (s : State), Memory.wf s.mem = true →
    (∀ (r : MemReq) d, let va := r.va &&& ~~~63#57
      let noCredit (p : Place) : Prop := ∃ g, p.frame = some g ∧ r.core.toNat < 128 ∧ 32 ≤ s.creditsUsed r.core.toNat (homeOf g)
      (∀ p, r.kind = .write d → s.placeOf r.asid va true = some p → s.mayRequest p va true = true → p.revoked = false →
        ¬noCredit p → ∃ t, exec (.memoryRequest r) s = .next t ∧ t.mem.read p.addr 64 = bitsLine d ∧ SameMemoryBut s t p.addr 64
          ∧ t.ctxs = s.ctxs ∧ t.cores = s.cores ∧ t.ops = s.ops)
      ∧ (r.kind = .write d → s.placeOf r.asid va true = none → ∃ t, exec (.memoryRequest r) s = .next t ∧ SameMemory s t
        ∧ t.cores = s.cores ∧ t.reqs = s.reqs ++ [(s.parks, r)]
        ∧ ((r.asid, va.toNat / 65536, true) ∈ s.mem.faults → t.records = s.records)
        ∧ ((r.asid, va.toNat / 65536, true) ∉ s.mem.faults → ∃ e, t.records = s.records ++ [e] ∧ recordKind e = 0))
      ∧ (∀ p g, r.kind = .write d → s.placeOf r.asid va true = some p → p.frame = some g → s.mayRequest p va true = false →
        p.held = false → ¬noCredit p → ∃ t e, exec (.memoryRequest r) s = .next t ∧ SameMemory s t
        ∧ t.mem.parked = s.mem.parked ++ [e] ∧ e.frame = g ∧ e.line = va.toNat % 65536 / 64 ∧ e.write = true
        ∧ e.act = some (r.core.toNat, .write (BitVec.allOnes 64) d) ∧ t.ctxs = s.ctxs ∧ t.cores = s.cores ∧ t.ops = s.ops)
      ∧ (∀ p, r.kind = .write d → s.placeOf r.asid va true = some p → p.held = true ∨ noCredit p →
        exec (.memoryRequest r) s = .next { s with inputs := s.inputs ++ [.memoryRequest r] })
      ∧ (r.kind = .read → ∃ t, exec (.memoryRequest r) s = .next t ∧ SameMemory s t ∧ t.ctxs = s.ctxs ∧ t.cores = s.cores ∧ t.ops = s.ops))
    ∧ (∀ (frame : BitVec 27) v, s.mem.moves.find? (fun x => x.frame == frame.toNat) = some v → v.tier < 3 → v.oldTier < 3 →
      v.tier ≠ 0 → v.oldTier ≠ 0 → v.media < 2 ^ 36 →
      let f := frame.toNat
      let e := s.mem.entry f
      let from_ := mediaAt f v.oldTier (chMedia e) 0
      let to_ := mediaAt f v.tier v.media 0
      (∃ m, exec (.migrationFlip frame true) s = .next ((({ s with mem := m }.copyActs from_).copyActs to_).attRecord f 1 0
          (BitVec.ofNat 64 (chMedia e * 65536))) ∧ m.parked = s.mem.parked
        ∧ chState (m.entry f) = v.tier ∧ chMedia (m.entry f) = v.media ∧ chPin (m.entry f) = chPin e
        ∧ chRevoked (m.entry f) = chRevoked e
        ∧ ∀ i, i < 65536 → m.byte (mediaAt f v.tier v.media i) = s.mem.byte (mediaAt f v.oldTier (chMedia e) i))
      ∧ (∃ m, exec (.migrationFlip frame false) s = .next ({ s with mem := m }.attRecord f 2 0 (BitVec.ofNat 64 (v.media * 65536))) ∧ m.parked = s.mem.parked
        ∧ chState (m.entry f) = v.oldTier ∧ chMedia (m.entry f) = chMedia e ∧ m.bytes = s.mem.bytes))
    ∧ (∃ t, exec .attendanceIntervalEnd s = .next t ∧ t.ctxs = s.ctxs ∧ t.cores = s.cores
        ∧ t.mem.regs.attend = s.mem.regs.attend + 1000 * s.mem.regs.interval.toNat
        ∧ (s.mem.regs.aen = true → t.mem.sketch = [] ∧ t.mem.cands = [])
        ∧ (s.mem.regs.aen = false → SameMemory s t ∧ t.mem.sketch = s.mem.sketch ∧ t.mem.cands = s.mem.cands))
    ∧ (∀ stack : BitVec 4, ∃ t, exec (.refreshWindowEnd stack) s = .next t ∧ SameMemory s t
        ∧ ∀ k, mget 0 t.mem.acts k = if k / 2 ^ 40 = stack.toNat then 0 else mget 0 s.mem.acts k)
    ∧ (∀ line, ∃ t, exec (.uncorrectableMediaError line) s = .next t ∧ SameMemory s t
        ∧ ∀ a, t.mem.isBad a = (decide (a / 64 = line) || s.mem.isBad a))
    ∧ (∀ (asid : BitVec 16) (group : BitVec 57) (block : BitVec 5) p, block ≠ 0#5 → group.toNat % 2048 = 0 →
      s.placeOf asid group false = some p → s.badPlace p = false → p.revoked = false → s.mayRequest p group true = true →
      let old := s.mem.read p.addr 64
      tagOf old block.toNat % 256 ≠ 0xFF →
      ∃ t, exec (.scrubberPoison asid group block) s = .next t ∧ SameMemoryBut s t p.addr 64
        ∧ tagOf (t.mem.read p.addr 64) block.toNat = 0xFF + 256 * (tagOf old block.toNat % 256)
        ∧ (∀ b, 1 ≤ b → b < 32 → b ≠ block.toNat → tagOf (t.mem.read p.addr 64) b = tagOf old b)
        ∧ halfSum (t.mem.read p.addr 64) = 0)
    ∧ (∀ (asid : BitVec 16) (group : BitVec 57) (block : BitVec 5) p g, block ≠ 0#5 → group.toNat % 2048 = 0 →
      s.placeOf asid group false = some p → p.held = false → p.frame = some g → s.mayRequest p group true = false →
      ∃ t e, exec (.scrubberPoison asid group block) s = .next t ∧ SameMemory s t ∧ t.mem.parked = s.mem.parked ++ [e]
        ∧ e.frame = g ∧ e.write = true ∧ e.poison = some block.toNat)
    ∧ (∀ (addr : BitVec 52) (mask : BitVec 64) (b : BitVec 512) (off : BitVec 6) (aop : BitVec 4) (dbl : Bool) (x y : Word),
      let a := addr.toNat / 64 * 64
      let base := s.fab.hdmbase.toNat
      let write := LineOp.write mask b
      let atomic := LineOp.atomic off aop dbl x y
      let n := if dbl then 8 else 4
      let keeps (t : State) : Prop := t.ctxs = s.ctxs ∧ t.cores = s.cores ∧ t.ops = s.ops
      let stores (m : Nat) : Prop := ∃ t, exec (.hostMemoryAccess addr write) s = .next t ∧ keeps t ∧ SameMemoryBut s t m 64
        ∧ ∀ i, i < 64 → t.mem.byte (m + i) = if mask.getLsbD i then b.extractLsb' (8 * i) 8 else s.mem.byte (m + i)
      let changes (m : Nat) : Prop := let q := m + off.toNat / n * n
        let new := if s.mem.isBad q then none
          else atomNew aop.toNat n (leNat (s.mem.read q n)) (x.toNat % 2 ^ (8 * n)) (y.toNat % 2 ^ (8 * n))
        ∃ t, exec (.hostMemoryAccess addr atomic) s = .next t ∧ keeps t ∧ SameMemoryBut s t q n
          ∧ (∀ v, new = some v → t.mem.read q n = leBytes n v) ∧ (new = none → SameMemory s t)
      (∀ m, base ≤ a → a < base + 2 ^ 43 → let d := a - base
        let g := d / 65536
        s.mem.place g (d % 65536) = some m → chRevoked (s.mem.entry g) = false →
        let may := s.mayRequest ⟨m, some g, false, 0#64, false⟩ (BitVec.ofNat 57 d) true
        (may = true → stores m ∧ changes m)
        ∧ (may = false → ∀ act ∈ [write, atomic], ∃ t e, exec (.hostMemoryAccess addr act) s = .next t ∧ keeps t ∧ SameMemory s t
            ∧ t.mem.parked = s.mem.parked ++ [e] ∧ e.frame = g ∧ e.line = d % 65536 / 64 ∧ e.write = true ∧ e.act = some (128, act)))
      ∧ (¬(base ≤ a ∧ a < base + 2 ^ 43) → stores (2 ^ 52 + a) ∧ changes (2 ^ 52 + a))
      ∧ (∃ t, exec (.hostMemoryAccess addr .read) s = .next t ∧ keeps t ∧ SameMemory s t))
    ∧ (∀ stack : BitVec 4, ∃ t, exec (.memoryStackOffline stack) s = .next t ∧ t.mem.offline.getLsbD stack.toNat = true
        ∧ ∀ seq j, findJob seq s.jobs = some j → j.started = true → j.completed = false → s.namesStack j stack.toNat = true →
          ∃ y, findJob seq t.jobs = some y ∧ (y.rerun = true ∨ y.removed = true))

/-- 03 R47, Table 3-7, 09 R169, R171, 14 R231, R232, R234, Table 14-3, 15 R253, 09 R177: the host's requests. SQWR and CQRD
store an index below N and set BADIDX for another, and have no effect from a function that does not reach the queue. Each
chart operation answers with CSTAT 0 on a frame it applies to, 1 on one that moves or is under promotion, 2 where it is
refused; UNMAP waits for the requests parked for the frame. IGO drops the translations that it names, and reads 1 while a request
translated through one of them is parked. PGO is refused with PSTAT
4, or starts with PSTAT 1: both frames name the same media, and it waits, with PSTAT 1, while its page tables wait behind a
migration (R237); each further step swaps one table entry, PSTAT 3 ends it at an
entry that has changed, once no request is parked under either name of the media; after the last the TLBs forget the range, and
once no request is parked under a source frame PSTAT
is 2, the source frames unmapped. REPLAY lets every parked request whose page is mapped go on, and ABORT
ends those of its page. An SPDM request carries its outcome and its tenant: an accepted one opens the debug session, a failed one
closes it, and a part that is not running ignores it; the rule names SPDM and no more, so this is the model's choice of log 31, with
log 6 for the part that does not run. The rest rests on the model's readings of log 18, log 27 and log 30. -/
def Obligations.HostRequestsAreAnswered : Prop :=
  ∀ (s : State),
    (∀ (fn : BitVec 6) (queue : BitVec 9) (value : BitVec 16), let q := queue.toNat
      let r := s.queueRegs q
      let n := 2 ^ (r.log2n.toNat + 4)
      let becomes (j : Instr) (x : QueueRegs) : Prop := ∃ t, exec j s = .next t ∧ t.queueRegs q = x
        ∧ (∀ p, p ≠ q → t.queueRegs p = s.queueRegs p) ∧ t.mem = s.mem ∧ t.ctxs = s.ctxs ∧ t.cores = s.cores ∧ t.jobs = s.jobs
      (q < 320 → (fn = 0#6 ∨ q < 256 ∧ mget 0#6 s.assign q = fn) →
        (value.toNat < n → becomes (.sqwr fn queue value) { r with sqwr := value }
          ∧ ∃ u, becomes (.cqrd fn queue value) { r with cqrd := value, unread := u })
        ∧ (n ≤ value.toNat → becomes (.sqwr fn queue value) { r with badidx := true }
          ∧ becomes (.cqrd fn queue value) { r with badidx := true }))
      ∧ (320 ≤ q ∨ fn ≠ 0#6 ∧ mget 0#6 s.assign q ≠ fn →
        exec (.sqwr fn queue value) s = .next s ∧ exec (.cqrd fn queue value) s = .next s))
    ∧ (∀ (frame : BitVec 27) (arg : Word), let f := frame.toNat
      let e := s.mem.entry f
      let tier := (arg.extractLsb' 0 2).toNat
      let media := (arg.extractLsb' 16 36).toNat
      let answers (j : Instr) (stat : BitVec 2) (x : Word) : Prop := ∃ t, exec j s = .next t ∧ t.mem.regs.cstat = stat
        ∧ t.mem.regs.cframe = (if j = .chartUnmap frame ∧ s.mem.unmapping = some f then s.mem.regs.cframe else frame)
        ∧ t.mem.entry f = x ∧ (∀ g, g ≠ f → t.mem.entry g = s.mem.entry g) ∧ SameMemory s t
        ∧ t.ctxs = s.ctxs ∧ t.cores = s.cores
      let good := tier = 2 ∨ tier = 1 ∧ media % 2 ^ 20 < 2 ^ 20 - 1024
      let parked := s.mem.queue (fun n => (s.op n).isSome) f
      (s.mem.covered f = true → ∀ j ∈ [Instr.chartMap frame arg, .chartUnmap frame, .chartPin frame, .chartUnpin frame,
          .chartRevoke frame], answers j 1#2 e)
      ∧ (s.mem.covered f = false → parked ≠ [] → chState e ≠ 3 → ∃ t, exec (.chartUnmap frame) s = .next t
          ∧ t.mem.unmapping = some f ∧ t.mem.chart = s.mem.chart ∧ SameMemory s t
          ∧ (s.mem.unmapping ≠ some f → t.mem.regs.cframe = frame ∧ t.mem.regs.cop = 2#4))
      ∧ (s.mem.covered f = false → chState e = 0 →
        (good → answers (.chartMap frame arg) 0#2
          (chEntry tier false false (arg.getLsbD 2) (if tier = 1 then media % 2 ^ 20 else media)))
        ∧ (¬good → answers (.chartMap frame arg) 2#2 e)
        ∧ (parked = [] → answers (.chartUnmap frame) 2#2 e) ∧ answers (.chartPin frame) 2#2 e ∧ answers (.chartUnpin frame) 2#2 e
        ∧ answers (.chartRevoke frame) 2#2 e ∧ answers (.chartMove frame arg) 2#2 e)
      ∧ (s.mem.covered f = false → chState e = 1 ∨ chState e = 2 → answers (.chartMap frame arg) 2#2 e
        ∧ (parked = [] → answers (.chartUnmap frame) 0#2 0#64)
        ∧ answers (.chartPin frame) 0#2 (e ||| 4#64) ∧ answers (.chartUnpin frame) 0#2 (e &&& ~~~4#64)
        ∧ answers (.chartRevoke frame) 0#2 (e ||| 8#64)
        ∧ (e.getLsbD 2 = true ∨ e.getLsbD 3 = true ∨ ¬good → answers (.chartMove frame arg) 2#2 e)
        ∧ (e.getLsbD 2 = false → e.getLsbD 3 = false → good → answers (.chartMove frame arg) 0#2
            (chEntry 3 false false (e.getLsbD 4) (chMedia e))
          ∧ ∃ t v, exec (.chartMove frame arg) s = .next t ∧ t.mem.moves = s.mem.moves ++ [v] ∧ v.frame = f
            ∧ v.oldTier = chState e ∧ v.tier = tier ∧ v.media = if tier = 1 then media % 2 ^ 20 else media))
      ∧ (s.mem.covered f = false → chState e = 3 → ∀ j ∈ [Instr.chartMap frame arg, .chartUnmap frame, .chartPin frame, .chartUnpin frame,
          .chartRevoke frame, .chartMove frame arg], answers j 1#2 e)
      ∧ (∃ t, exec (.chartRead frame) s = .next t ∧ t.mem.regs.charg = e ∧ t.mem.regs.cstat = 0#2 ∧ t.mem.chart = s.mem.chart)
      ∧ (∃ t, exec (.chartPool frame arg) s = .next t ∧ t.mem.chart = s.mem.chart
        ∧ (media % 2 ^ 20 < 2 ^ 20 - 1024 → t.mem.regs.cstat = 0#2
          ∧ mget [] t.mem.pool (homeOf f) = mget [] s.mem.pool (homeOf f) ++ [media % 2 ^ 20])
        ∧ (2 ^ 20 - 1024 ≤ media % 2 ^ 20 → t.mem.regs.cstat = 2#2 ∧ t.mem.pool = s.mem.pool)))
    ∧ (∃ t, exec .igo s = .next t ∧ SameMemory s t ∧ t.mem.chart = s.mem.chart ∧ (s.mem.parked = [] → t.igoBusy = false)
        ∧ ∀ (asid : BitVec 16) (va : BitVec 57), let r := s.mem.regs
          let named := r.ievery = true ∨ asid = r.iasid ∧ (r.iall = true
            ∨ r.iva.toNat / 65536 ≤ va.toNat / 65536 ∧ va.toNat / 65536 < r.iva.toNat / 65536 + r.ipages.toNat)
          (named → t.mem.held asid va = []
            ∧ ∀ q ∈ s.mem.parked, q.key = tlbKey asid va → q.act.isSome = true → t.igoBusy = true)
          ∧ (¬named → t.mem.held asid va = s.mem.held asid va))
    ∧ (s.mem.promotion = none → let r := s.mem.regs
        let asked := s.mem.promoting.getD (r.pasid, r.pva, r.ptarget, r.psize)
        let waits := (upto ((if asked.2.2.2 then 8192 else 32) / 8)).any fun i =>
          s.walkWaits asked.1 (BitVec.ofNat 57 (asked.2.1.toNat + 524288 * i))
        (waits = true → exec .pgo s = .next { s with mem := { s.mem with regs := { r with pstat := 1#3 }, promoting := some asked } })
        ∧ (waits = false → ∃ t, exec .pgo s = .next t ∧ SameMemory s t ∧ t.mem.tlb = s.mem.tlb ∧ t.mem.promoting = none
        ∧ (t.mem.regs.pstat = 4#3 ∧ t.mem.chart = s.mem.chart ∧ t.mem.promotion = none
          ∨ t.mem.regs.pstat = 1#3 ∧ ∃ p, t.mem.promotion = some p ∧ p.done = 0 ∧ p.asid = asked.1 ∧ p.va = asked.2.1
            ∧ ((∀ x ∈ p.sources, x < p.target ∨ p.target + p.sources.length ≤ x) →
              ∀ i (h : i < p.sources.length), t.mem.entry (p.target + i) = s.mem.entry p.sources[i]))))
    ∧ (∀ p, s.mem.promotion = some p →
        let dpa := p.table * 65536 + 8 * (p.index + p.done)
        let n := p.olds.length
        let reaches := s.mayRequest ⟨0, some p.table, false, 0#64, false⟩ (BitVec.ofNat 57 (dpa % 65536)) true
        (p.done < n → reaches = false → exec .pgo s = .next s)
        ∧ (p.done < n → reaches = true → s.mem.dpaWord dpa ≠ p.olds[p.done]? → s.parkedIn s.mem.covered = true →
          exec .pgo s = .next s)
        ∧ (p.done < n → reaches = true → s.mem.dpaWord dpa ≠ p.olds[p.done]? → s.parkedIn s.mem.covered = false →
          ∃ t, exec .pgo s = .next t
          ∧ t.mem.regs.pstat = 3#3 ∧ t.mem.promotion = none ∧ SameMemory s t ∧ t.mem.chart = s.mem.chart)
        ∧ (p.done < n → reaches = true → s.mem.dpaWord dpa = p.olds[p.done]? → ∃ t, exec .pgo s = .next t
          ∧ t.mem.promotion = some { p with done := p.done + 1 } ∧ t.mem.regs = s.mem.regs ∧ t.mem.chart = s.mem.chart
          ∧ (chRevoked (s.mem.entry (dpa / 65536)) = false →
              t.mem.dpaWord dpa = some (leafEntry p.w (n != 1) (p.target + p.done)))
          ∧ (p.done + 1 = n → ∀ x ∈ t.mem.tlb, let y := x.1 % 2 ^ 57
              y < tlbKey p.asid p.va ∨ tlbKey p.asid p.va + p.sources.length ≤ y))
        ∧ (p.done = n → s.oldRequests p = true → exec .pgo s = .next s)
        ∧ (p.done = n → s.oldRequests p = false → ∃ t, exec .pgo s = .next t ∧ t.mem.regs.pstat = 2#3
          ∧ t.mem.promotion = none ∧ (∀ x ∈ p.sources, t.mem.entry x = 0#64) ∧ SameMemory s t ∧ t.mem.tlb = s.mem.tlb))
    ∧ (s.cpParked = [] → s.reqs = [] → (∀ x ∈ s.ctxs, x.2.needs = none) → (∀ x ∈ s.cores, ∀ y ∈ x.2.heads, y.2.reread ≠ 2) →
        ∃ t, exec .replay s = .next t ∧ SameMemory s t ∧ t.withheld = []
        ∧ t.ctxs = s.ctxs
        ∧ (s.numbered → ∀ o ∈ s.ops, ∀ va w, o.parked = some (va, w) →
            ((s.placeOf o.tenant va w).isSome = true → t.op o.id = some { o with parked := none })
            ∧ (s.placeOf o.tenant va w = none → (∃ n, t.op o.id = some { o with arrival := n }) ∧ (o.tenant, va.toNat / 65536, w) ∈ t.mem.faults)))
    ∧ (∀ (asid : BitVec 16) (page : BitVec 41), s.cpParked = [] → ∃ t, exec (.abort asid page) s = .next t ∧ SameMemory s t
        ∧ t.evq.asid = asid ∧ t.evq.page = page
        ∧ t.reqs = s.reqs.filter (fun x => !(x.2.asid == asid && x.2.va.toNat / 65536 == page.toNat))
        ∧ (s.numbered → (∀ o ∈ s.ops, ∀ va w, o.parked = some (va, w) → o.tenant = asid → va.toNat / 65536 = page.toNat →
            t.op o.id = none)))
    ∧ (∀ (tenant : BitVec 16), (s.power = .running →
        exec (.spdmRequest tenant true) s = .next { s with dbg := { s.dbg with unlocked := true, dtenant := tenant } }
        ∧ exec (.spdmRequest tenant false) s = .next { s with dbg := { s.dbg with unlocked := false } })
      ∧ (s.power ≠ .running → ∀ b, exec (.spdmRequest tenant b) s = .next s))

/-- 00 R8, 03 Table 3-7, R358, 14 Table 14-5, 15 Table 15-2, 17 Table 17-1: a register write of the host. Each stores the fields
that its table lets software write; a register that an enable bit guards keeps its value while the bit is set, and so does an
entry of the queue assignment table; a write of a write-one-to-clear bit clears it; a reserved or read-only offset, or one that
is not a multiple of 8, has no effect. A queue with ENABLE 0 holds no packet that was read for it. It rests on the model's
readings of log 30 and log 31. -/
def Obligations.RegisterWritesStoreTheirFields : Prop :=
  ∀ (v : Word) (s : State),
    let w (off : BitVec 20) (t : State) : Prop := exec (.registerWrite 0#7 off v) s = .next t
    let bits (lo n : Nat) : BitVec n := v.extractLsb' lo n
    (∀ (fn : BitVec 7) (off : BitVec 20), off.toNat % 8 ≠ 0 → exec (.registerWrite fn off v) s = .next s)
    ∧ (∀ q, q < 320 → let r := s.queueRegs q
      let base := if q < 256 then 0x10000 + 64 * q else 0x20000 + 64 * (q - 256)
      let sets (off : Nat) (x : QueueRegs) : Prop := w (BitVec.ofNat 20 (base + off))
        (let t := s.modQueue q fun _ => x; if x.enable then t else (t.dropPacket q).cpUnpark 0 q)
      (r.enable = false → sets 0x00 { r with sqbase := bits 6 51 ++ 0#6 } ∧ sets 0x20 { r with cqbase := bits 4 53 ++ 0#4 }
        ∧ sets 0x08 { r with log2n := bits 0 4, vector := bits 4 11, ien := v.getLsbD 15, enable := v.getLsbD 16
                             tenant := bits 32 16, priocap := bits 48 5 })
      ∧ (r.enable = true → sets 0x00 r ∧ sets 0x20 r
        ∧ sets 0x08 { r with vector := bits 4 11, ien := v.getLsbD 15, enable := v.getLsbD 16, tenant := bits 32 16, priocap := bits 48 5 })
      ∧ ((bits 0 16).toNat < 2 ^ (r.log2n.toNat + 4) → sets 0x10 { r with sqwr := bits 0 16 })
      ∧ sets 0x38 { r with badidx := r.badidx && !v.getLsbD 0 } ∧ sets 0x18 r ∧ sets 0x28 r
      ∧ (q < 256 → (r.enable = false → w (BitVec.ofNat 20 (0x70000 + 8 * q)) { s with assign := mset 0#6 s.assign q (bits 0 6) })
        ∧ (r.enable = true → w (BitVec.ofNat 20 (0x70000 + 8 * q)) s)))
    ∧ (∀ off : BitVec 20, 0x70800 ≤ off.toNat → w off s)
    ∧ (let r := s.evq
       let sets (off : BitVec 20) (x : EventRegs) : Prop := w off { s with evq := x }
       (r.enable = false → sets 0x30000 { r with eqbase := bits 5 52 ++ 0#5 })
       ∧ (r.enable = true → sets 0x30000 r) ∧ sets 0x30018 { r with eqrd := bits 0 16 }
       ∧ sets 0x30030 { r with eqovf := r.eqovf && !v.getLsbD 0 } ∧ sets 0x30038 { r with djob := bits 0 56 })
    ∧ (let r := s.mem.regs
       let sets (off : BitVec 20) (x : MemRegs) : Prop := w off { s with mem := { s.mem with regs := x } }
       (r.ten = false → sets 0x40000 { r with ten := v.getLsbD 0, rootbase := bits 16 27 ++ 0#16 })
       ∧ (r.ten = true → sets 0x40000 { r with ten := v.getLsbD 0 })
       ∧ (v.getLsbD 63 = false ∨ s.mem.unmapping.isSome = true → sets 0x40038 { r with cframe := bits 0 27, cop := bits 28 4 })
       ∧ sets 0x40010 { r with iva := bits 16 41 ++ 0#16 } ∧ sets 0x40018 { r with ipages := bits 0 32 }
       ∧ sets 0x40028 { r with pva := bits 16 41 ++ 0#16 } ∧ sets 0x40030 { r with ptarget := bits 16 27 ++ 0#16 }
       ∧ sets 0x40068 { r with attrd := bits 0 16 } ∧ sets 0x40070 { r with attovf := r.attovf && !v.getLsbD 0 })
    ∧ (let r := s.fab
       let sets (off : BitVec 20) (x : FabRegs) : Prop := w off { s with fab := x }
       sets 0x50008 { r with collto := if bits 0 32 = 0#32 then 1#32 else bits 0 32 }
       ∧ (r.recen = false → sets 0x50010 { r with recbase0 := bits 16 41 ++ 0#16 } ∧ sets 0x50018 { r with recbase1 := bits 16 41 ++ 0#16 }
         ∧ sets 0x50020 { r with recsize := bits 0 32, recen := v.getLsbD 63 })
       ∧ (r.recen = true → sets 0x50010 r ∧ sets 0x50018 r ∧ sets 0x50020 { r with recen := v.getLsbD 63 })
       ∧ sets 0x50028 { r with hdmbase := bits 16 41 ++ 0#16 })
    ∧ (let r := s.tt
       let sets (off : BitVec 20) (x : Timetable) : Prop := w off { s with tt := x }
       (r.run = false → sets 0x60008 { r with schbase := bits 4 53 ++ 0#4 } ∧ sets 0x60010 { r with pendva := bits 6 51 ++ 0#6 }
         ∧ sets 0x60018 { r with curva := bits 6 51 ++ 0#6 })
       ∧ (r.run = true → sets 0x60008 r ∧ sets 0x60010 r ∧ sets 0x60018 r))

/-! ### The Timetable and the Bell -/

/-- 17 R260 to R263, Tables 17-1 to 17-3: the Timetable. A boundary copies the pending area to the current one, with the rows
of tenants that were reset cleared, and takes OCC and DRAFT from it; RUN written to 1 brings one, and so does the completion
of a committed iteration; a trigger is due after it in free-run. An iteration that ends without a commit stops the Timetable
with STOP 4. A trigger whose schedule passes its checks admits every packet of it as a job of the next iteration; one whose
packets fail stops with STOP 3, and one that no bucket answers is skipped, in free-run with STOP 1. 03 R38: where a check must
wait, the packets stay as they were read, once. The areas and the schedule are reached under ASID 0xFFFF, and the rules name none:
DESIGN CHOICE (log 18). It rests on the model's readings of log 29. A trigger whose jobs would pass the last sequence number is not admitted, and the host has an event. -/
def Obligations.TimetableIterations : Prop :=
  (∀ (live rowten : List Byte) (resets : List (BitVec 16)) (r : Nat), r < 1024 → liveBit (maskLive live rowten resets) r
    = (liveBit live r && !resets.contains (BitVec.ofNat 16 (leNat ((rowten.drop (2 * r)).take 2)))))
  ∧ ∀ (s : State), s.ttFree = true →
    let p := s.tt.pendva.toNat / 64 * 64
    let c := s.tt.curva.toNat / 64 * 64
    -- the reads and writes of a boundary from state u leave d
    let copies (u : State) (live rowten cb : List Byte) (d : State) : Prop :=
      let v := u.countRead ttAsid p 2304
      u.blocked ttAsid false p 2304 = none ∧ u.blocked ttAsid true c 2304 = none
        ∧ v.bytesAt ttAsid p 128 = some live ∧ v.bytesAt ttAsid (p + 128) 8 = some cb ∧ v.bytesAt ttAsid (p + 256) 2048 = some rowten
        ∧ ∃ a b, v.putAt ttAsid c (maskLive live rowten u.tt.resetSet) = some a
          ∧ a.putAt ttAsid (c + 128) (leBytes 8 (leNat cb % 16)) = some b ∧ b.putAt ttAsid (c + 256) rowten = some d
    let bounded (t : State) (live rowten cb : List Byte) (d : State) : Prop := t.mem = d.mem
      ∧ t.tt.occ = countBits (maskLive live rowten s.tt.resetSet) ∧ t.tt.draft = BitVec.ofNat 4 (leNat cb) ∧ t.tt.resetSet = []
      ∧ t.ctxs = s.ctxs ∧ t.cores = s.cores ∧ t.jobs = s.jobs
    (s.tt.run = true → exec .run s = .next s)
    ∧ (∀ live rowten cb d, s.tt.run = false → s.tt.bell = false →
      copies { s with tt := { s.tt with run := true, starting := true, past := s.tt.past ++ s.tt.current.toList, current := none
                                        due := none, read := none, step := none } } live rowten cb d →
      ∃ t, exec .run s = .next t ∧ bounded t live rowten cb d ∧ t.tt.run = true ∧ t.tt.starting = false ∧ t.tt.current = none
        ∧ t.tt.due = some (0, 0#64) ∧ t.tt.iter = s.tt.iter ∧ t.tt.stop = s.tt.stop)
    ∧ (∀ i, s.tt.starting = false → s.tt.current = some i → (∀ q ∈ i.jobs, ∀ j, findJob q s.jobs = some j → j.completed = true) →
      (∀ live rowten cb d, i.committed = true → s.tt.run = true → s.tt.bell = false → copies s live rowten cb d →
        ∃ t, exec .iterationBoundary s = .next t ∧ bounded t live rowten cb d ∧ t.tt.current = none ∧ t.tt.due = some (0, 0#64)
          ∧ t.tt.run = true)
      ∧ (i.committed = false → i.stopped = false → ∃ t e, exec .iterationBoundary s = .next t ∧ t.mem = s.mem ∧ t.jobs = s.jobs
        ∧ t.tt.current = none ∧ t.tt.run = false ∧ t.tt.stop = 4#3 ∧ t.records = s.records ++ [e] ∧ recordKind e = 5))
    ∧ (∀ tick bell, s.mayTrigger = true → s.tt.due = some (tick, bell) →
      (∀ sched bucket ps, s.tt.read = some (sched, bucket, ps) → exec .timetableTrigger s = .next (s.trigger tick bell sched bucket ps))
      ∧ (s.tt.read = none →
      (∀ sched bucket pkts n bs w, (s.tt.fen = true ∧ sched = s.tt.fsched.toNat ∧ bucket = Config.free s.tick 3 % 64
          ∨ s.tt.fen = false ∧ s.bucket = some bucket ∧ sched = ((mget 0#37 s.tt.buckets bucket).extractLsb' 30 6).toNat) →
        let va := s.tt.schbase.toNat / 16 * 16 + 16 * sched
        s.blocked ttAsid false va 16 = none → s.natAt ttAsid va 16 = some w → scheduleEntry (BitVec.ofNat 128 w) = some (pkts, n) →
        s.blocked ttAsid false pkts (64 * n) = none → s.bytesAt ttAsid pkts (64 * n) = some bs →
        let ps := (upto n).map fun i => lineBits ((bs.drop (64 * i)).take 64)
        let v := (s.countRead ttAsid va 16).countRead ttAsid pkts (64 * n)
        let u : State := { v with tt := { v.tt with read := some (sched, bucket, ps) } }
        (∀ l, u.checkSchedule 0 ps = .ok l → s.nextSeq + n ≤ 2 ^ 56 → (∀ j ∈ s.jobs, j.seq < s.nextSeq) → ∃ t new, exec .timetableTrigger s = .next t ∧ t.jobs = s.jobs ++ new ∧ new.length = n
          ∧ (∀ i j, new[i]? = some j → j.seq = s.nextSeq + i ∧ j.queue = none ∧ j.iter = some ((s.tt.iter.toNat + 1) % 2 ^ 48)
              ∧ j.started = false ∧ nth 0#64 j.gen 0 = BitVec.ofNat 64 tick ∧ nth 0#64 j.gen 3 = bell)
          ∧ t.nextSeq = s.nextSeq + n ∧ t.tt.iter = s.tt.iter + 1#48 ∧ t.tt.due = none ∧ SameMemory s t ∧ t.ctxs = s.ctxs
          ∧ t.tt.current = some { num := (s.tt.iter.toNat + 1) % 2 ^ 48, jobs := (upto n).map (s.nextSeq + ·), tick := tick })
        ∧ (∀ l, u.checkSchedule 0 ps = .ok l → 2 ^ 56 < s.nextSeq + n → ∃ t, exec .timetableTrigger s = .next t ∧ t.jobs = s.jobs
          ∧ t.signals = s.signals ++ [.event] ∧ t.tt.full = true ∧ t.tt.due = s.tt.due ∧ t.nextSeq = s.nextSeq ∧ SameMemory s t)
        ∧ (∀ a b, u.checkSchedule 0 ps = .blocked a b → ∃ t, exec .timetableTrigger s = .next t
          ∧ t.tt = { s.tt with read := some (sched, bucket, ps) } ∧ t.jobs = s.jobs ∧ SameMemory s t)
        ∧ (u.checkSchedule 0 ps = .refused → ∃ t e, exec .timetableTrigger s = .next t ∧ t.jobs = s.jobs ∧ SameMemory s t
          ∧ t.tt.run = false ∧ t.tt.stop = 3#3 ∧ t.records = s.records ++ [e] ∧ recordKind e = 5))
      ∧ (∀ live rowten cb d, s.tt.fen = false → s.bucket = none → s.tt.bell = false → copies s live rowten cb d →
        ∃ t e, exec .timetableTrigger s = .next t ∧ bounded t live rowten cb d ∧ t.tt.run = false ∧ t.tt.stop = 1#3
          ∧ t.tt.due = none ∧ t.records = s.records ++ [e] ∧ recordKind e = 5)))

/-- 17 R265 to R269, Table 17-4: the Bell and device time. A stream of a permitted configuration is enabled and its next tick
is the first after now; any other sets CFGERR. At a tick of its own, a stream with enough tokens on time takes the run of
tokens up to its cutoff, counting the late and the dropped ones; with too few it holds under policy HOLD until they come or its grace
expires, and under SKIP takes none. In Bell mode a master tick that falls while an iteration is current is missed and counted,
and one on an idle Timetable makes a trigger due with its number. A correction of DTIME is one step when it is forward by more
than 1 ms. It rests on the model's readings of log 20 and log 29. -/
def Obligations.BellStreamsTick : Prop :=
  ∀ (stream : BitVec 4) (s : State), (∀ q, s.bellFree q stream.toNat = true) → s.tt.headers = [] →
    let n := stream.toNat
    let x := s.stream n
    let now := s.dtime.toNat
    let changes (j : Instr) (y : Stream) : Prop := ∃ t, exec j s = .next t ∧ t.stream n = y ∧ (∀ m, m ≠ n → t.stream m = s.stream m)
      ∧ SameMemory s t ∧ t.ctxs = s.ctxs ∧ t.jobs = s.jobs ∧ t.tt.due = s.tt.due
    -- the stream after it took the run of tick k
    let took (k : Nat) (run : List Nat) : Stream :=
      { x with cut2 := x.cut1, cut1 := x.cutoff k, holding := none, seen := none, tick := k + 1, missed := 0, token := x.token + run.length
               latecnt := satAdd32 x.latecnt (run.filter fun t => decide (x.cut2 < Int.ofNat t) && decide (Int.ofNat t ≤ x.cut1)).length
               dropcnt := satAdd32 x.dropcnt (run.filter fun t => decide (Int.ofNat t ≤ x.cut2)).length }
    let onTime (run : List Nat) : Nat := (run.filter fun t => decide (x.cut1 < Int.ofNat t)).length
    (x.en = true → exec (.streamEnable stream) s = .next s)
    ∧ (x.en = false →
      let waits := s.blocked ttAsid false (x.tape.toNat / 64 * 64) 64 = some .waits
      (waits → exec (.streamEnable stream) s = .next { s with inputs := s.inputs ++ [.streamEnable stream] })
      ∧ (¬waits → s.streamOk n = true →
        ∃ k, changes (.streamEnable stream) { x with en := true, tick := k, holding := none, seen := none, missed := 0 }
        ∧ ∀ m, k ≤ m ↔ now < x.phase.toNat + m * x.period.toNat)
      ∧ (¬waits → s.streamOk n = false → changes (.streamEnable stream) { x with cfgerr := true })
      ∧ (s.streamOk n = true → 100000 ≤ x.period.toNat ∧ x.phase.toNat < x.period.toNat ∧ x.lead.toNat < x.period.toNat
          ∧ x.grace.toNat ≤ x.period.toNat - x.lead.toNat ∧ 1 ≤ x.expect.toNat ∧ x.expect.toNat ≤ 32 ∧ x.policy ≠ 3#2))
    ∧ (x.en = true → s.tt.bell = false → x.missed = 0 → x.stepbase = 0#57 →
      (∀ l, s.present x = .ok l → x.holding = none → x.time x.tick ≤ now → let run := runOf (x.cutoff x.tick) l
        (x.expect.toNat ≤ onTime run → changes (.bellTick stream) (took x.tick run))
        ∧ (onTime run < x.expect.toNat → x.policy = 0#2 → now < x.time x.tick + x.grace.toNat →
          changes (.bellTick stream) { x with holding := some (x.time x.tick), seen := none, tick := x.tick + 1 })
        ∧ (onTime run < x.expect.toNat → x.policy = 2#2 → changes (.bellTick stream)
            { x with cut2 := x.cut1, cut1 := x.cutoff x.tick, seen := none, tick := x.tick + 1 })
        ∧ (onTime run < x.expect.toNat → x.policy = 1#2 → changes (.bellTick stream) (took x.tick run)))
      ∧ (x.holding = none → now < x.time x.tick → exec (.bellTick stream) s = .next s)
      ∧ (∀ start l, x.holding = some start → s.present x = .ok l → x.policy ≠ 2#2 → let run := runOf (x.cutoff (x.tick - 1)) l
        (x.expect.toNat ≤ onTime run → changes (.bellTick stream) (took (x.tick - 1) run))
        ∧ (x.seen = none → onTime run < x.expect.toNat → exec (.bellTick stream) s = .next s)
        ∧ (start + x.grace.toNat ≤ now → changes (.bellGraceExpiry stream) (took (x.tick - 1) run))
        ∧ (now < start + x.grace.toNat → exec (.bellGraceExpiry stream) s = .next s)))
    ∧ (x.en = true → s.tt.bell = true → s.tt.mstream = stream → x.holding = none → s.tt.run = true → s.tt.starting = false →
      (s.tt.current.isSome = true → s.tt.step = none → x.time x.tick < now → ∃ t, exec (.bellTick stream) s = .next t
        ∧ t.tt.misscnt = satAdd32 s.tt.misscnt 1 ∧ t.stream n = { x with tick := x.tick + 1, missed := x.missed + 1 } ∧ SameMemory s t)
      ∧ (∀ l, s.tt.current = none → s.tt.step = none → s.tt.due = none → x.missed = 0 → x.seen = none → x.stepbase = 0#57 → x.time x.tick ≤ now →
        (∀ m, m < 16 → m ≠ n → (s.stream m).en = false ∨ (s.stream m).attach = false) →
        s.present x = .ok l → let run := runOf (x.cutoff x.tick) l
        x.expect.toNat ≤ onTime run →
        ∃ t, exec (.bellTick stream) s = .next t ∧ t.stream n = took x.tick run ∧ t.tt.due = some (x.tick, 0#64) ∧ t.tt.step = none
          ∧ SameMemory s t ∧ t.jobs = s.jobs))
    ∧ (∀ target : BitVec 64,
      ((s.tt.clksrc = 0#2 ∨ s.tt.clksrc = 3#2) → exec (.dtimeCorrection target) s = .next s)
      ∧ (s.tt.clksrc = 1#2 ∨ s.tt.clksrc = 2#2 →
        (now + 1000000 < target.toNat → ∃ t, exec (.dtimeCorrection target) s = .next t ∧ t.dtime = target ∧ t.slew = 0
          ∧ t.tt.locked = true ∧ t.mem = s.mem ∧ t.ctxs = s.ctxs)
        ∧ (target.toNat ≤ now + 1000000 → ∃ t, exec (.dtimeCorrection target) s = .next t ∧ t.dtime = s.dtime
          ∧ (t.tt.locked = true ↔ now ≤ target.toNat + 1000 ∧ target.toNat ≤ now + 1000)
          ∧ t.slew = Int.ofNat target.toNat - Int.ofNat now ∧ t.mem = s.mem ∧ t.ctxs = s.ctxs)))

/-! ### The fabric and resets -/

/-- 15 R241 to R244, R252, 20 R293, R294: collectives and ports. Once every member has issued and the sources can be read, the
collective begins: every participant holds its rank and the data of every rank, as their scratchpads stand then; participants
whose parameters differ end it with reason 3. A participant completes by writing its destination and no other byte; the sum of
i32 elements is taken modulo 2^32. An abort, an expiry of COLLTO with reason 2, ends it for every participant that has issued.
A port that goes down or comes up shows in PORTUP; the retries of a port that reach 16 in a row take it down. It rests on the
model's readings of log 24; members on other chips are free (log 14). -/
def Obligations.CollectivesAndPorts : Prop :=
  (∀ (root n r i : Nat) (data : List (List Byte)), data ≠ [] → collResult 0 2 root n data (upto data.length) r i
    = ((upto data.length).map fun q => collElem 4 (nth [] data q) i).sum % 2 ^ 32)
  ∧ ∀ (s : State), s.numbered →
    (∀ op o g src n dst cop ty root since x, s.op op = some o → o.kind = .coll g src n dst cop ty root since none →
      s.jobGroup o.owner.seq g = some x →
      let l := s.collective o.owner.seq g o.prog
      let ended (t : State) (reason : Nat) : Prop := (∀ p ∈ l, t.op p.id = none) ∧ t.mem = s.mem
        ∧ (s.collEnded o.owner.seq g o.prog = none → ∃ rank, t.collEnded o.owner.seq g o.prog = some (reason, rank))
      (s.collReady x l = true → (∀ p ∈ l, p.owner.idx ∈ x.members) → (l.map (·.owner.idx)).Nodup →
        ((∀ p ∈ l, ∃ src' dst' since', p.kind = .coll g src' n dst' cop ty root since' none) →
          ∃ t data, exec (.collBegin op) s = .next t ∧ data.length = s.total o.tenant g x ∧ t.mem = s.mem ∧ SameScratch s t ∧ t.ctxs = s.ctxs
            ∧ ∀ p ∈ l, ∃ q src' dst' since', t.op p.id = some q
              ∧ q.kind = .coll g src' n dst' cop ty root since' (some (s.rankOf p.tenant g x p.owner.idx, data))
              ∧ (x.scope ≠ 7 → nth [] data (s.rankOf p.tenant g x p.owner.idx) = (s.core p.core).spBytes src' (n * collSize ty)))
        ∧ ((∃ p ∈ l, ∃ src' n' dst' cop' ty' root' since', p.kind = .coll g src' n' dst' cop' ty' root' since' none
            ∧ (n', cop', ty', root') ≠ (n, cop, ty, root)) → ∃ t, exec (.collBegin op) s = .next t ∧ ended t 3))
      ∧ (∀ (reason : BitVec 4) (rank : BitVec 15), ∃ t, exec (.collAbort op reason rank) s = .next t ∧ ended t reason.toNat)
      ∧ (s.fab.collto.toNat * 1000 < s.dtime.toNat - since → ∃ t, exec (.colltoExpiry op) s = .next t ∧ ended t 2)
      ∧ (s.dtime.toNat - since ≤ s.fab.collto.toNat * 1000 → exec (.colltoExpiry op) s = .next s))
    ∧ (∀ op o g src n dst cop ty root since r data, s.op op = some o →
      o.kind = .coll g src n dst cop ty root since (some (r, data)) → (∀ w ∈ o.writes, s.writeBlocked o.core op w = false) →
      let e := collSize ty
      let m := collOut cop n data.length
      m * e ≤ 0x400000 →
      ∃ t, exec (.collComplete op) s = .next t ∧ t.op op = none ∧ t.mem = s.mem ∧ t.ctxs = s.ctxs
        ∧ (cop = 5 → r = root → SameScratch s t)
        ∧ (cop ≠ 5 ∨ r ≠ root →
          (∀ i, i < m → (t.core o.core).spBytes (dst + i * e) e = leBytes e (collResult cop ty root n data (upto data.length) r i))
          ∧ SameScratchBut s t o.core fun z => ∃ i, i < m * e ∧ z = (dst + i) % 0x400000)
        ∧ (∀ x j, s.jobGroup o.owner.seq g = some x → x.scope = 7 → findJob o.owner.seq s.jobs = some j →
          ∃ y, findJob o.owner.seq t.jobs = some y ∧ y.irrevocable = true))
    ∧ ∀ port : BitVec 4, let p := port.toNat
      let others (t : State) : Prop := ∀ q, q < 16 → q ≠ p → t.fab.portup.getLsbD q = s.fab.portup.getLsbD q
      (s.fab.portup.getLsbD p = true → ∃ t, exec (.portDown port) s = .next t ∧ t.fab.portup.getLsbD p = false ∧ others t)
      ∧ (s.fab.portup.getLsbD p = false → exec (.portDown port) s = .next s ∧ exec (.linkRetry port) s = .next s)
      ∧ (s.fab.porten.getLsbD p = true → ∃ t, exec (.portUp port) s = .next t ∧ t.fab.portup.getLsbD p = true ∧ others t
          ∧ t.mem = s.mem ∧ t.jobs = s.jobs)
      ∧ (s.fab.porten.getLsbD p = false → exec (.portUp port) s = .next s)
      ∧ (s.fab.portup.getLsbD p = true → ∃ t, exec (.linkRetry port) s = .next t ∧ others t
          ∧ (t.fab.portup.getLsbD p = true
              ∧ (mget 0 t.fab.retries p = 0 ∨ mget 0 t.fab.retries p = mget 0 s.fab.retries p + 1 ∧ mget 0 s.fab.retries p < 15)
            ∨ t.fab.portup.getLsbD p = false ∧ 15 ≤ mget 0 s.fab.retries p))

/-- 15 R246, R251, R253, R254, 17 R273: resets. An FLR of a virtual function stops admission from its queues and ends the
unfinished jobs of their tenants, all strands Exited, and ends their debug session; while a shared batch exists the tenants join
the set whose rows the next boundary clears, and otherwise the chart stays as it is; it waits while page tables that it reads wait
behind a migration (14 R237); once the jobs' records are written, a second step clears ENABLE. That the chart stays outside a
shared batch and what a shared batch is rest on log 31 and log 20 (DESIGN CHOICE). The PF's is a warm reset. A warm reset leaves no
context, no operation and no translation in a TLB, keeps the scratchpads, the chart and the device registers, and puts every
unfinished job on the way to a re-run or its end; a cold reset, and the loss of power, leave the device as State.reset has it,
host memory and the fuses untouched; the part runs when every stage's image has the fuses' key, verifies and is not below the
minimum sequence number, and is held in reset otherwise. What a warm reset keeps beside rests on log 19, the content of a part
after a cold reset on log 3. -/
def Obligations.ResetsAndPowerLoss : Prop :=
  ∀ (s : State),
    (∀ vf : BitVec 6, vf ≠ 0#6 →
      let mine (q : Nat) : Prop := q ∈ s.queues.map (·.1) ∧ q < 256 ∧ mget 0#6 s.assign q = vf
      let others (t : State) : Prop := (∀ q, 256 ≤ q ∨ mget 0#6 s.assign q ≠ vf → t.queueRegs q = s.queueRegs q)
        ∧ t.assign = s.assign ∧ SameMemory s t
      (vf ∉ s.flrs → s.mapWaits (s.tenantsOf vf) = true →
        exec (.functionLevelReset vf) s = .next { s with inputs := s.inputs ++ [.functionLevelReset vf] })
      ∧ (vf ∉ s.flrs → s.mapWaits (s.tenantsOf vf) = false → ∃ t, exec (.functionLevelReset vf) s = .next t ∧ others t ∧ vf ∈ t.flrs
        ∧ (∀ q, mine q → (t.queueRegs q).stopped = true ∧ (t.queueRegs q).enable = (s.queueRegs q).enable)
        ∧ (∀ q seq j, mine q → findJob seq s.jobs = some j → j.tenant = (s.queueRegs q).tenant → s.inBatch 16 j = false →
            j.completed = false → ∃ y, findJob seq t.jobs = some y ∧ y.removed = true ∧ 0x20 ≤ y.status
              ∧ ∀ x ∈ y.strands, x.st = .exited ∨ x.st = .lost)
        ∧ (∀ q, mine q → s.dbg.dtenant = (s.queueRegs q).tenant → t.dbg.unlocked = false)
        ∧ (s.sharedBatch = false → t.mem.chart = s.mem.chart)
        ∧ (s.sharedBatch = true → ∀ q, mine q → (s.queueRegs q).tenant ∈ t.tt.resetSet))
      ∧ (vf ∈ s.flrs → s.ownJobs (s.tenantsOf vf) = [] → ∃ t, exec (.functionLevelReset vf) s = .next t ∧ others t
        ∧ (∀ q, q < 256 → mget 0#6 s.assign q = vf → (t.queueRegs q).enable = false) ∧ t.flrs = s.flrs.erase vf
        ∧ t.jobs = s.jobs ∧ t.ctxs = s.ctxs ∧ t.cores = s.cores))
    ∧ (∃ t u, exec .warmReset s = .next t ∧ exec (.functionLevelReset 0#6) s = .next u ∧ u = { t with dbg := u.dbg }
      ∧ (s.dbg.dtenant = 0xFFFF#16 → u.dbg.unlocked = false) ∧ t.ctxs = [] ∧ t.ops = [] ∧ t.nets = []
      ∧ t.mem.tlb = [] ∧ t.mem.chart = s.mem.chart ∧ t.mem.regs = s.mem.regs ∧ t.queues = s.queues ∧ t.assign = s.assign
      ∧ t.fab = s.fab ∧ t.tt = s.tt ∧ t.evq = s.evq ∧ t.power = s.power ∧ t.nextSeq = s.nextSeq
      ∧ (mwf {} s.cores = true → SameScratch s t)
      ∧ ((∀ k h, h < 16 → (s.head k h).mode = 0) → SameMemory s t)
      ∧ (∀ y ∈ t.jobs, y.seq < s.nextSeq)
      ∧ ((∀ j ∈ s.jobs, j.seq < s.nextSeq) → t.jobs.length = s.jobs.length
      ∧ ∀ (i : Nat) (j : Job), s.jobs[i]? = some j → ∃ y, t.jobs[i]? = some y ∧ (j.completed = true → y = j)
          ∧ (j.completed = false → j.started = true → y.rerun = true ∨ y.removed = true)
          ∧ (j.completed = false → j.removed = false → ∀ x ∈ y.strands, x ∈ j.strands ∨ x.st = .pending)))
    ∧ (∀ (stages : List Firmware) (j : Instr) (p : Power),
      (j = .coldReset stages ∧ p = .running
          ∧ (∀ x ∈ stages, x.keyHash = s.fuses.keyHash ∧ x.verifies = true ∧ s.fuses.minSeq ≤ x.seq)
        ∨ j = .coldReset stages ∧ p = .heldInReset
          ∧ (∃ x ∈ stages, x.keyHash ≠ s.fuses.keyHash ∨ x.verifies = false ∨ x.seq < s.fuses.minSeq)
        ∨ j = .powerLoss ∧ p = .off) →
      ∃ t, exec j s = .next t ∧ t.power = p ∧ t.ctxs = [] ∧ t.cores = [] ∧ t.ops = [] ∧ t.jobs = [] ∧ t.nextSeq = State.reset.nextSeq
        ∧ t.queues = [] ∧ t.evq = State.reset.evq ∧ t.mem.regs = State.reset.mem.regs ∧ t.mem.chart = [] ∧ t.fab = State.reset.fab
        ∧ t.tt = State.reset.tt ∧ t.dbg = State.reset.dbg ∧ t.fuses = s.fuses ∧ t.inputs = s.inputs ∧ t.signals = s.signals
        ∧ ∀ a, 2 ^ 52 ≤ a → t.mem.byte a = s.mem.byte a)

/-! ### Encodings, and the machine as a whole -/

/-- 04 R76 to R80, R209, Table 4-4 check 7: decoding and encoding agree, in both directions, for every slot instruction and
every drain micro-operation: the word of a well-formed instruction decodes to it, with every operand; and a word that decodes
is the word of the instruction that it decodes to, which is well-formed: a reserved value or a nonzero unused field is
refused. -/
def Obligations.EncodingsRoundTrip : Prop :=
  (∀ i : Instr, i.wf = true →
    (i.slotClass = some .scalar → decodeScalar (encodeScalar i) = .ok i)
    ∧ (i.slotClass = some .vector → decodeVector (encodeWide i) = .ok i)
    ∧ (i.slotClass = some .l → decodeL (encodeWide i) = .ok i)
    ∧ (i.slotClass = some .m → decodeM (encodeWide i) = .ok i)
    ∧ (i.slotClass = some .h → decodeH (encodeWide i) = .ok i)
    ∧ (i.slotClass = some .drain → decodeDrain (encodeDrain i) = .ok i))
  ∧ (∀ (w : BitVec 32) (i : Instr), decodeScalar w = .ok i → i.wf = true ∧ i.slotClass = some .scalar ∧ encodeScalar i = w)
  ∧ (∀ (w : BitVec 48) (i : Instr),
    (decodeVector w = .ok i → i.wf = true ∧ i.slotClass = some .vector ∧ encodeWide i = w)
    ∧ (decodeL w = .ok i → i.wf = true ∧ i.slotClass = some .l ∧ encodeWide i = w)
    ∧ (decodeM w = .ok i → i.wf = true ∧ i.slotClass = some .m ∧ encodeWide i = w)
    ∧ (decodeH w = .ok i → i.wf = true ∧ i.slotClass = some .h ∧ encodeWide i = w))
  ∧ ∀ (w : BitVec 24) (i : Instr), decodeDrain w = .ok i → i.wf = true ∧ i.slotClass = some .drain ∧ encodeDrain i = w

/-- Worked encodings of the spec, one for each class of slot and for drains: 20 R282 (`addi s33, s11, -1`), 22 R320 (`ret`),
23 R349 (`vord.f32.desc va2, va1 ?m5`), 23 R356 (`xform s4, s5, s6, s7`), 21 R312 (`mret a1, d3, q2`), 20 R284
(`atom.cas.d.acqrel.pkg s5, s6, s7, s8`), 20 R297 (`dfma.sat x2, acc, kcol, c5`). -/
def Obligations.WorkedWordsDecode : Prop :=
  decodeScalar 0x0A12DFFF#32 = .ok (.addi 33#6 ⟨11#6, false⟩ 0x1FFF#13)
  ∧ decodeScalar 0x780FC000#32 = .ok (.ret ⟨63#6, false⟩)
  ∧ decodeVector 0x15104004A000#48 = .ok (.vord { vd := 2#5, va := 1#5, pa := false, vb := 0#5, pb := false, vc := 1#5, pc := false
                                                  msk := 5#4, ty := 0#4, rm := 0#3, zi := false, zo := false, sat := false, bsel := 0#2 })
  ∧ decodeL 0x0B102860E000#48 = .ok (.xform ⟨4#6, false⟩ ⟨5#6, false⟩ ⟨6#6, false⟩ ⟨7#6, false⟩)
  ∧ decodeM 0x068000006800#48 = .ok (.mret true 3#6 2#3)
  ∧ decodeH 0x0121460E21D0#48 = .ok (.atom { aop := 2#4, sd := 5#6, a := ⟨6#6, false⟩, b := ⟨7#6, false⟩, c := ⟨8#6, false⟩, sz := true
                                             ord := 3#2, scope := 4#4, log := false })
  ∧ decodeDrain 0x551654#24 = .ok (.dfma { d := 2#3, a := 8#4, b := 11#4, k := 5#5, f := 4#4 })

/-- 15 R253, R254: a running part never stops: every trap, stop and refusal of a command that the spec describes is a next
state. A part that is held in reset or off stops a step exactly when nothing comes from outside; no step is refused. That such
a step is a fault is the model's reading (log 6). -/
def Obligations.RunningPartNeverStops : Prop :=
  ∀ s : State, (s.power = .running → ∃ t, step s = .next t)
    ∧ (step s = .fault .off ↔ s.power ≠ .running ∧ s.inputs = [])
    ∧ ∀ r, step s ≠ .refused r

/-- 14 R224, 06 R108, 11 R182: every step keeps the memories in canonical form: device memory, every scratchpad and every
accumulator set list their written entries once, in ascending order, and none that reads as an unlisted one does. The form is
the model's own, and so is what an unlisted entry reads as (log 3). -/
def Obligations.EveryStepKeepsMemoriesCanonical : Prop :=
  ∀ s t : State, s.canonical → step s = .next t → t.canonical

/-- 06 R124, R125: every step keeps the outstanding operations apart: each has a number of its own, below the counter, so that
what performs, ends or is owed names one access. The numbers are the model's own (log 1). -/
def Obligations.EveryStepKeepsOperationsNumbered : Prop :=
  ∀ s t : State, s.numbered → step s = .next t → t.numbered

/-- 15 R253, R251, 03 Table 3-7, 09 Table 9-1, 14 Table 14-5, 17 Table 17-1, 03 R49: the machine after a cold reset: no
strand, no job and no outstanding operation; every queue disabled; translation off; the Timetable stopped and no stream
enabled; Attendance counts in intervals of 1,000; and the invariants hold. The invariants are the model's own (log 1, log 3).
-/
def Obligations.ResetStateIsAsSpecified : Prop :=
  let s := State.reset
  s.power = .running ∧ s.nextSeq = 1 ∧ s.jobs = [] ∧ s.ops = [] ∧ (∀ c, (s.ctx c).strand = none)
  ∧ (∀ q, (s.queueRegs q).enable = false ∧ (s.queueRegs q).sqbase = 0#57 ∧ (s.queueRegs q).sqwr = 0#16 ∧ (s.queueRegs q).tenant = 0#16)
  ∧ s.evq.enable = false ∧ s.mem.regs.ten = false ∧ s.mem.regs.interval = 1000#16 ∧ s.tt.run = false ∧ s.tt.iter = 0#48
  ∧ (∀ n, (s.stream n).en = false) ∧ (∀ k, (s.core k).offline = false ∧ (s.core k).mcfgSet = false ∧ (s.core k).engine = none)
  ∧ s.dbg.unlocked = false ∧ s.canonical ∧ s.numbered
end

