-- ==== Sys2Proof/Laws/Encodings.lean ====
section
/-! SUPPORT. The opcode field of an encoded word: the top field of an append, and what that makes of the encoders of
Decode.lean. Encoding.Statement is the family of Laws/PerInstr.lean. -/

namespace Sys2Proof.Laws

/-- A shift that drops the lower part of an append. -/
theorem shift_append {n m : Nat} (x : BitVec n) (y : BitVec m) (k : Nat) (h : m ≤ k) :
    (x ++ y).toNat >>> k = x.toNat >>> (k - m) := by
  rw [BitVec.toNat_append, Nat.shiftRight_or_distrib, Nat.shiftRight_eq_div_pow y.toNat,
    Nat.div_eq_of_lt (Nat.lt_of_lt_of_le y.isLt (Nat.pow_le_pow_right (by decide) h)), Nat.or_zero]
  obtain ⟨c, rfl⟩ := Nat.exists_eq_add_of_le h
  rw [Nat.shiftRight_add, Nat.shiftLeft_shiftRight, Nat.add_sub_cancel_left]

/-- The opcode of a scalar word. -/
theorem opcode_scalar (w : BitVec 32) : opcodeOf .scalar (w.setWidth 48) = w.toNat >>> 26 := by
  have h := w.isLt
  have e : w.toNat % 281474976710656 = w.toNat := by omega
  simp only [opcodeOf, BitVec.extractLsb'_toNat, BitVec.toNat_setWidth, Nat.shiftRight_eq_div_pow, Nat.reducePow, e]
  omega

/-- The opcode of a 48-bit word. -/
theorem opcode_wide (w : BitVec 48) : (w.extractLsb' 40 8).toNat = w.toNat >>> 40 := by
  have h := w.isLt
  simp only [BitVec.extractLsb'_toNat, Nat.shiftRight_eq_div_pow, Nat.reducePow]
  omega

/-- The opcode of a drain code word. -/
theorem opcode_drain (w : BitVec 24) : (w.extractLsb' 20 4).toNat = w.toNat >>> 20 := by
  have h := w.isLt
  simp only [BitVec.extractLsb'_toNat, Nat.shiftRight_eq_div_pow, Nat.reducePow]
  omega

theorem opcode_encSR (opc d : BitVec 6) (a b : Src) (fn : BitVec 6) : (encSR opc d a b fn).toNat >>> 26 = opc.toNat := by
  simp (disch := decide) only [encSR, shift_append]; rfl
theorem opcode_encSI (opc d : BitVec 6) (a : Src) (imm : BitVec 13) : (encSI opc d a imm).toNat >>> 26 = opc.toNat := by
  simp (disch := decide) only [encSI, shift_append]; rfl
theorem opcode_encSB (opc : BitVec 6) (a : Src) (cc : BitVec 3) (off : BitVec 16) :
    (encSB opc a cc off).toNat >>> 26 = opc.toNat := by
  simp (disch := decide) only [encSB, shift_append]; rfl
theorem opcode_encVR (opc : BitVec 8) (o : VR) : (encVR opc o).toNat >>> 40 = opc.toNat := by
  simp (disch := decide) only [encVR, shift_append]; rfl
theorem opcode_encHead (opc : BitVec 8) (hd : BitVec 4) (a b c : Src) (flags : BitVec 15) :
    (encHead opc hd a b c flags).toNat >>> 40 = opc.toNat := by
  simp (disch := decide) only [encHead, shift_append]; rfl
theorem opcode_encD (opc : BitVec 4) (o : DrainF) : (encD opc o).toNat >>> 20 = opc.toNat := by
  simp (disch := decide) only [encD, shift_append]; rfl

/-- A step that no slot holds is well-formed; the word of any other instruction has an assigned opcode of its class. -/
def Encoding.Statement (i : Instr) : Prop :=
  match i.slotClass with
  | none => i.wf = true
  | some .scalar => opcodeAssigned .scalar (opcodeOf .scalar ((encodeScalar i).setWidth 48)) = true
  | some .drain => opcodeAssigned .drain ((encodeDrain i).extractLsb' 20 4).toNat = true
  | some c => opcodeAssigned c ((encodeWide i).extractLsb' 40 8).toNat = true

theorem scalar_ok {i : Instr} {n : Nat} (w : BitVec 32) (h : w.toNat >>> 26 = n) (c : i.slotClass = some .scalar)
    (e : encodeScalar i = w) (k : opcodeAssigned .scalar n = true) : Encoding.Statement i := by
  simp only [Encoding.Statement, c, e, opcode_scalar, h, k]
theorem drain_ok {i : Instr} {n : Nat} (w : BitVec 24) (h : w.toNat >>> 20 = n) (c : i.slotClass = some .drain)
    (e : encodeDrain i = w) (k : opcodeAssigned .drain n = true) : Encoding.Statement i := by
  simp only [Encoding.Statement, c, e, opcode_drain, h, k]
theorem wide_ok {i : Instr} {n : Nat} (s : SlotClass) (w : BitVec 48) (h : w.toNat >>> 40 = n) (c : i.slotClass = some s)
    (hs : s ≠ .scalar ∧ s ≠ .drain) (e : encodeWide i = w) (k : opcodeAssigned s n = true) : Encoding.Statement i := by
  have q := (opcode_wide w).trans h
  cases s <;> first | exact absurd rfl hs.1 | exact absurd rfl hs.2 | (simp only [Encoding.Statement, c, e, q]; exact k)

end Sys2Proof.Laws
end

