-- ==== Sys2Proof/Laws/Maps.lean ====
section
/-! SUPPORT. The laws of sparse maps and of device memory: a read after a write, a write elsewhere, and the canonical
form, which every operation over memory keeps. -/

namespace Sys2Proof.Machine

variable {α : Type} [DecidableEq α]

theorem mwfFrom_mono {d : α} : ∀ {m : SMap α} {lo lo' : Nat}, lo' ≤ lo → mwfFrom d lo m = true → mwfFrom d lo' m = true
  | [], _, _, _, _ => rfl
  | (j, v) :: m, lo, lo', h, w => by
    simp only [mwfFrom, Bool.and_eq_true, decide_eq_true_eq] at w ⊢
    exact ⟨⟨Nat.le_trans h w.1.1, w.1.2⟩, w.2⟩

theorem mput_wfFrom {d : α} {v : α} (hv : v ≠ d) : ∀ {m : SMap α} {lo k : Nat}, lo ≤ k → mwfFrom d lo m = true →
    mwfFrom d lo (mput m k v) = true
  | [], lo, k, h, _ => by simp [mput, mwfFrom, h, hv]
  | (j, w) :: m, lo, k, h, x => by
    simp only [mwfFrom, Bool.and_eq_true, decide_eq_true_eq] at x
    obtain ⟨⟨h1, h2⟩, h3⟩ := x
    unfold mput
    split
    · simp [mwfFrom, h, hv, h2, h3]; omega
    · split
      · rename_i e; subst e; simp [mwfFrom, h, hv, h3]
      · have := mput_wfFrom hv (m := m) (lo := j + 1) (k := k) (by omega) h3
        simp [mwfFrom, h1, h2, this]

theorem filter_wfFrom {d : α} (p : Nat × α → Bool) : ∀ {m : SMap α} {lo : Nat}, mwfFrom d lo m = true →
    mwfFrom d lo (m.filter p) = true
  | [], _, _ => rfl
  | (j, w) :: m, lo, x => by
    simp only [mwfFrom, Bool.and_eq_true, decide_eq_true_eq] at x
    obtain ⟨⟨h1, h2⟩, h3⟩ := x
    rw [List.filter_cons]
    split
    · simp [mwfFrom, h1, h2, filter_wfFrom p h3]
    · exact mwfFrom_mono (Nat.le_succ_of_le h1) (filter_wfFrom p h3)

/-- A write keeps the canonical form. -/
theorem mset_wf {d : α} {m : SMap α} (k : Nat) (v : α) (h : mwf d m = true) : mwf d (mset d m k v) = true := by
  unfold mset
  split
  · exact filter_wfFrom _ h
  · rename_i e; exact mput_wfFrom e (Nat.zero_le k) h

omit [DecidableEq α] in
theorem mget_mput_same (d v : α) : ∀ (m : SMap α) (k : Nat), mget d (mput m k v) k = v
  | [], k => by simp [mput, mget]
  | (j, w) :: m, k => by
    unfold mput
    split
    · simp [mget]
    · split
      · simp [mget]
      · rename_i h; simp [mget, h, mget_mput_same d v m k]

omit [DecidableEq α] in
theorem mget_mput_other (d v : α) : ∀ (m : SMap α) (k i : Nat), i ≠ k → mget d (mput m k v) i = mget d m i
  | [], k, i, h => by simp [mput, mget, h]
  | (j, w) :: m, k, i, h => by
    unfold mput
    split
    · simp [mget, h]
    · split
      · rename_i e; subst e; simp [mget, h]
      · simp [mget, mget_mput_other d v m k i h]

omit [DecidableEq α] in
theorem mget_filter_same (d : α) : ∀ (m : SMap α) (k : Nat), mget d (m.filter fun x => x.1 != k) k = d
  | [], _ => rfl
  | (j, w) :: m, k => by
    rw [List.filter_cons]
    split
    · rename_i h
      have : k ≠ j := by intro e; simp [e] at h
      simp [mget, this, mget_filter_same d m k]
    · exact mget_filter_same d m k

omit [DecidableEq α] in
theorem mget_filter_other (d : α) : ∀ (m : SMap α) (k i : Nat), i ≠ k →
    mget d (m.filter fun x => x.1 != k) i = mget d m i
  | [], _, _, _ => rfl
  | (j, w) :: m, k, i, h => by
    rw [List.filter_cons]
    split
    · simp [mget, mget_filter_other d m k i h]
    · rename_i e
      have : j = k := by simpa using e
      subst this; simp [mget, h, mget_filter_other d m j i h]

/-- A read after a write to the same index gives the value written. -/
@[simp] theorem mget_mset_same (d : α) (m : SMap α) (k : Nat) (v : α) : mget d (mset d m k v) k = v := by
  unfold mset
  split
  · rename_i e; rw [mget_filter_same, e]
  · exact mget_mput_same d v m k

/-- A write leaves every other index alone. -/
theorem mget_mset_other (d : α) (m : SMap α) {k i : Nat} (v : α) (h : i ≠ k) : mget d (mset d m k v) i = mget d m i := by
  unfold mset
  split
  · exact mget_filter_other d m k i h
  · exact mget_mput_other d v m k i h

/-! ### Media -/

@[simp] theorem put_regs (m : MemSys) (a : Nat) (bs : List Byte) : (m.put a bs).regs = m.regs := by
  induction bs generalizing m a with
  | nil => rfl
  | cons b bs ih => simp [MemSys.put, ih]

theorem put_wf (bs : List Byte) : ∀ (m : MemSys) (a : Nat), Memory.wf m = true → Memory.wf (m.put a bs) = true := by
  induction bs with
  | nil => intro m a h; exact h
  | cons b bs ih => intro m a h; exact ih _ _ (mset_wf a b h)

/-- A write within a line keeps the canonical form. -/
theorem write_wf (m : MemSys) (a : Nat) (bs : List Byte) (h : Memory.wf m = true) : Memory.wf (m.write a bs) = true := by
  unfold MemSys.write
  dsimp only
  split
  · exact put_wf bs m a h
  · exact put_wf bs m a h

/-- A byte outside the bytes written reads as before. -/
theorem put_byte_other (bs : List Byte) : ∀ (m : MemSys) (a i : Nat), i < a ∨ a + bs.length ≤ i →
    (m.put a bs).byte i = m.byte i := by
  induction bs with
  | nil => intro m a i _; rfl
  | cons b bs ih =>
    intro m a i hi
    simp only [List.length_cons] at hi
    show (({ m with bytes := mset mediaDefault m.bytes a b } : MemSys).put (a + 1) bs).byte i = m.byte i
    rw [ih _ _ _ (by omega)]
    exact mget_mset_other _ _ b (by omega)

/-- The byte at an index of the bytes written. -/
theorem put_byte_same (bs : List Byte) : ∀ (m : MemSys) (a i : Nat) (hi : i < bs.length),
    (m.put a bs).byte (a + i) = bs[i] := by
  induction bs with
  | nil => intro m a i hi; simp at hi
  | cons b bs ih =>
    intro m a i hi
    show (({ m with bytes := mset mediaDefault m.bytes a b } : MemSys).put (a + 1) bs).byte (a + i) = _
    cases i with
    | zero =>
      rw [put_byte_other bs _ _ _ (by omega)]
      exact mget_mset_same _ _ a b
    | succ i =>
      rw [show a + (i + 1) = a + 1 + i by omega, ih _ _ i (by simpa using hi)]
      simp

/-! ### Admissions, which leave the bytes alone -/

@[simp] theorem fill_bytes (m : MemSys) (t : BitVec 16) (va : BitVec 57) (w : Word) : (m.fill t va w).bytes = m.bytes := by
  unfold MemSys.fill; dsimp only; split <;> rfl

@[simp] theorem candidate_bytes (m : MemSys) (f : Nat) : (m.candidate f).bytes = m.bytes := rfl

@[simp] theorem attend_bytes (m : MemSys) (f : Nat) : (m.attend f).bytes = m.bytes := by
  unfold MemSys.attend
  split <;> simp

@[simp] theorem activate_bytes (s : State) (a : Nat) : (s.activate a).mem.bytes = s.mem.bytes := by
  unfold State.activate; split <;> rfl

@[simp] theorem countFrame_bytes (s : State) (f off : Nat) : (s.countFrame f off).mem.bytes = s.mem.bytes := by
  unfold State.countFrame
  dsimp only
  split <;> simp

@[simp] theorem countWalk_bytes (s : State) (t : BitVec 16) (va : BitVec 57) : (s.countWalk t va).mem.bytes = s.mem.bytes := by
  have go : ∀ (l : List Nat) (s : State),
      (l.foldl (fun s dpa => s.countFrame (dpa / 65536) (dpa % 65536)) s).mem.bytes = s.mem.bytes := by
    intro l
    induction l with
    | nil => intro s; rfl
    | cons a l ih => intro s; rw [List.foldl_cons, ih, countFrame_bytes]
  unfold State.countWalk
  split
  · rfl
  · exact go _ s

/-- Admission changes no byte. -/
@[simp] theorem enterReq_bytes (s : State) (t : BitVec 16) (va : BitVec 57) (p : Place) :
    (s.enterReq t va p).mem.bytes = s.mem.bytes := by
  unfold State.enterReq
  cases p.frame <;> simp

@[simp] theorem countAccess_bytes (s : State) (t : BitVec 16) (va : BitVec 57) (p : Place) :
    (s.countAccess t va p).mem.bytes = s.mem.bytes := by simp [State.countAccess]

theorem writePlace_wf (s : State) (p : Place) (bs : List Byte) (h : Memory.wf s.mem = true) :
    Memory.wf (s.writePlace p bs).mem = true := by
  unfold State.writePlace; split
  · exact h
  · exact write_wf _ _ _ h

/-- A write at a VA keeps the canonical form. -/
theorem vaWrite_wf (t : BitVec 16) : ∀ (n : Nat) (s u : State) (va : Nat) (bs : List Byte), Memory.wf s.mem = true →
    s.vaWrite t n va bs = some u → Memory.wf u.mem = true
  | 0, s, u, _, _, h, e => by simp only [State.vaWrite, Option.some.injEq] at e; exact e ▸ h
  | n + 1, s, u, va, bs, h, e => by
    unfold State.vaWrite at e
    split at e
    · simp only [Option.some.injEq] at e; exact e ▸ h
    · dsimp only at e
      split at e
      · cases e
      · split at e
        · cases e
        · refine vaWrite_wf t n _ u _ _ (writePlace_wf _ _ _ ?_) e
          simpa [Memory.wf] using h

theorem putAt_wf {s u : State} {t : BitVec 16} {va : Nat} {bs : List Byte} (h : Memory.wf s.mem = true)
    (e : s.putAt t va bs = some u) : Memory.wf u.mem = true := vaWrite_wf t _ s u va bs h e

/-- The reset memory is canonical. -/
theorem reset_memory_wf : Memory.wf State.reset.mem = true := rfl

end Sys2Proof.Machine
end

