-- ==== Sys2Proof/Laws/State.lean ====
section
/-! SUPPORT. What each update of the state leaves alone: one lemma for each field of State and each update of Ops.lean. -/

namespace Sys2Proof.Machine

section setCtx
variable (s : State) (c : Nat) (x : Ctx)
@[simp] theorem setCtx_cores : (s.setCtx c x).cores = s.cores := rfl
@[simp] theorem setCtx_ops : (s.setCtx c x).ops = s.ops := rfl
@[simp] theorem setCtx_nextOp : (s.setCtx c x).nextOp = s.nextOp := rfl
@[simp] theorem setCtx_issue : (s.setCtx c x).issue = s.issue := rfl
@[simp] theorem setCtx_drainCore : (s.setCtx c x).drainCore = s.drainCore := rfl
@[simp] theorem setCtx_nets : (s.setCtx c x).nets = s.nets := rfl
@[simp] theorem setCtx_jobs : (s.setCtx c x).jobs = s.jobs := rfl
@[simp] theorem setCtx_nextSeq : (s.setCtx c x).nextSeq = s.nextSeq := rfl
@[simp] theorem setCtx_rot : (s.setCtx c x).rot = s.rot := rfl
@[simp] theorem setCtx_placements : (s.setCtx c x).placements = s.placements := rfl
@[simp] theorem setCtx_queues : (s.setCtx c x).queues = s.queues := rfl
@[simp] theorem setCtx_assign : (s.setCtx c x).assign = s.assign := rfl
@[simp] theorem setCtx_evq : (s.setCtx c x).evq = s.evq := rfl
@[simp] theorem setCtx_records : (s.setCtx c x).records = s.records := rfl
@[simp] theorem setCtx_withheld : (s.setCtx c x).withheld = s.withheld := rfl
@[simp] theorem setCtx_cpParked : (s.setCtx c x).cpParked = s.cpParked := rfl
@[simp] theorem setCtx_reqs : (s.setCtx c x).reqs = s.reqs := rfl
@[simp] theorem setCtx_packets : (s.setCtx c x).packets = s.packets := rfl
@[simp] theorem setCtx_dbg : (s.setCtx c x).dbg = s.dbg := rfl
@[simp] theorem setCtx_signals : (s.setCtx c x).signals = s.signals := rfl
@[simp] theorem setCtx_sessions : (s.setCtx c x).sessions = s.sessions := rfl
@[simp] theorem setCtx_fab : (s.setCtx c x).fab = s.fab := rfl
@[simp] theorem setCtx_tt : (s.setCtx c x).tt = s.tt := rfl
@[simp] theorem setCtx_power : (s.setCtx c x).power = s.power := rfl
@[simp] theorem setCtx_fuses : (s.setCtx c x).fuses = s.fuses := rfl
@[simp] theorem setCtx_flrs : (s.setCtx c x).flrs = s.flrs := rfl
@[simp] theorem setCtx_parks : (s.setCtx c x).parks = s.parks := rfl
@[simp] theorem setCtx_mem : (s.setCtx c x).mem = s.mem := rfl
@[simp] theorem setCtx_throttles : (s.setCtx c x).throttles = s.throttles := rfl
@[simp] theorem setCtx_cclk : (s.setCtx c x).cclk = s.cclk := rfl
@[simp] theorem setCtx_dtime : (s.setCtx c x).dtime = s.dtime := rfl
@[simp] theorem setCtx_dsub : (s.setCtx c x).dsub = s.dsub := rfl
@[simp] theorem setCtx_dslew : (s.setCtx c x).dslew = s.dslew := rfl
@[simp] theorem setCtx_slew : (s.setCtx c x).slew = s.slew := rfl
@[simp] theorem setCtx_tick : (s.setCtx c x).tick = s.tick := rfl
@[simp] theorem setCtx_inputs : (s.setCtx c x).inputs = s.inputs := rfl
end setCtx

section modCtx
variable (s : State) (c : Nat) (f : Ctx → Ctx)
@[simp] theorem modCtx_cores : (s.modCtx c f).cores = s.cores := rfl
@[simp] theorem modCtx_ops : (s.modCtx c f).ops = s.ops := rfl
@[simp] theorem modCtx_nextOp : (s.modCtx c f).nextOp = s.nextOp := rfl
@[simp] theorem modCtx_issue : (s.modCtx c f).issue = s.issue := rfl
@[simp] theorem modCtx_drainCore : (s.modCtx c f).drainCore = s.drainCore := rfl
@[simp] theorem modCtx_nets : (s.modCtx c f).nets = s.nets := rfl
@[simp] theorem modCtx_jobs : (s.modCtx c f).jobs = s.jobs := rfl
@[simp] theorem modCtx_nextSeq : (s.modCtx c f).nextSeq = s.nextSeq := rfl
@[simp] theorem modCtx_rot : (s.modCtx c f).rot = s.rot := rfl
@[simp] theorem modCtx_placements : (s.modCtx c f).placements = s.placements := rfl
@[simp] theorem modCtx_queues : (s.modCtx c f).queues = s.queues := rfl
@[simp] theorem modCtx_assign : (s.modCtx c f).assign = s.assign := rfl
@[simp] theorem modCtx_evq : (s.modCtx c f).evq = s.evq := rfl
@[simp] theorem modCtx_records : (s.modCtx c f).records = s.records := rfl
@[simp] theorem modCtx_withheld : (s.modCtx c f).withheld = s.withheld := rfl
@[simp] theorem modCtx_cpParked : (s.modCtx c f).cpParked = s.cpParked := rfl
@[simp] theorem modCtx_reqs : (s.modCtx c f).reqs = s.reqs := rfl
@[simp] theorem modCtx_packets : (s.modCtx c f).packets = s.packets := rfl
@[simp] theorem modCtx_dbg : (s.modCtx c f).dbg = s.dbg := rfl
@[simp] theorem modCtx_signals : (s.modCtx c f).signals = s.signals := rfl
@[simp] theorem modCtx_sessions : (s.modCtx c f).sessions = s.sessions := rfl
@[simp] theorem modCtx_fab : (s.modCtx c f).fab = s.fab := rfl
@[simp] theorem modCtx_tt : (s.modCtx c f).tt = s.tt := rfl
@[simp] theorem modCtx_power : (s.modCtx c f).power = s.power := rfl
@[simp] theorem modCtx_fuses : (s.modCtx c f).fuses = s.fuses := rfl
@[simp] theorem modCtx_flrs : (s.modCtx c f).flrs = s.flrs := rfl
@[simp] theorem modCtx_parks : (s.modCtx c f).parks = s.parks := rfl
@[simp] theorem modCtx_mem : (s.modCtx c f).mem = s.mem := rfl
@[simp] theorem modCtx_throttles : (s.modCtx c f).throttles = s.throttles := rfl
@[simp] theorem modCtx_cclk : (s.modCtx c f).cclk = s.cclk := rfl
@[simp] theorem modCtx_dtime : (s.modCtx c f).dtime = s.dtime := rfl
@[simp] theorem modCtx_dsub : (s.modCtx c f).dsub = s.dsub := rfl
@[simp] theorem modCtx_dslew : (s.modCtx c f).dslew = s.dslew := rfl
@[simp] theorem modCtx_slew : (s.modCtx c f).slew = s.slew := rfl
@[simp] theorem modCtx_tick : (s.modCtx c f).tick = s.tick := rfl
@[simp] theorem modCtx_inputs : (s.modCtx c f).inputs = s.inputs := rfl
end modCtx

section modCur
variable (s : State) (f : Ctx → Ctx)
@[simp] theorem modCur_cores : (s.modCur f).cores = s.cores := rfl
@[simp] theorem modCur_ops : (s.modCur f).ops = s.ops := rfl
@[simp] theorem modCur_nextOp : (s.modCur f).nextOp = s.nextOp := rfl
@[simp] theorem modCur_issue : (s.modCur f).issue = s.issue := rfl
@[simp] theorem modCur_drainCore : (s.modCur f).drainCore = s.drainCore := rfl
@[simp] theorem modCur_nets : (s.modCur f).nets = s.nets := rfl
@[simp] theorem modCur_jobs : (s.modCur f).jobs = s.jobs := rfl
@[simp] theorem modCur_nextSeq : (s.modCur f).nextSeq = s.nextSeq := rfl
@[simp] theorem modCur_rot : (s.modCur f).rot = s.rot := rfl
@[simp] theorem modCur_placements : (s.modCur f).placements = s.placements := rfl
@[simp] theorem modCur_queues : (s.modCur f).queues = s.queues := rfl
@[simp] theorem modCur_assign : (s.modCur f).assign = s.assign := rfl
@[simp] theorem modCur_evq : (s.modCur f).evq = s.evq := rfl
@[simp] theorem modCur_records : (s.modCur f).records = s.records := rfl
@[simp] theorem modCur_withheld : (s.modCur f).withheld = s.withheld := rfl
@[simp] theorem modCur_cpParked : (s.modCur f).cpParked = s.cpParked := rfl
@[simp] theorem modCur_reqs : (s.modCur f).reqs = s.reqs := rfl
@[simp] theorem modCur_packets : (s.modCur f).packets = s.packets := rfl
@[simp] theorem modCur_dbg : (s.modCur f).dbg = s.dbg := rfl
@[simp] theorem modCur_signals : (s.modCur f).signals = s.signals := rfl
@[simp] theorem modCur_sessions : (s.modCur f).sessions = s.sessions := rfl
@[simp] theorem modCur_fab : (s.modCur f).fab = s.fab := rfl
@[simp] theorem modCur_tt : (s.modCur f).tt = s.tt := rfl
@[simp] theorem modCur_power : (s.modCur f).power = s.power := rfl
@[simp] theorem modCur_fuses : (s.modCur f).fuses = s.fuses := rfl
@[simp] theorem modCur_flrs : (s.modCur f).flrs = s.flrs := rfl
@[simp] theorem modCur_parks : (s.modCur f).parks = s.parks := rfl
@[simp] theorem modCur_mem : (s.modCur f).mem = s.mem := rfl
@[simp] theorem modCur_throttles : (s.modCur f).throttles = s.throttles := rfl
@[simp] theorem modCur_cclk : (s.modCur f).cclk = s.cclk := rfl
@[simp] theorem modCur_dtime : (s.modCur f).dtime = s.dtime := rfl
@[simp] theorem modCur_dsub : (s.modCur f).dsub = s.dsub := rfl
@[simp] theorem modCur_dslew : (s.modCur f).dslew = s.dslew := rfl
@[simp] theorem modCur_slew : (s.modCur f).slew = s.slew := rfl
@[simp] theorem modCur_tick : (s.modCur f).tick = s.tick := rfl
@[simp] theorem modCur_inputs : (s.modCur f).inputs = s.inputs := rfl
end modCur

section setCore
variable (s : State) (k : Nat) (x : CoreSt)
@[simp] theorem setCore_ctxs : (s.setCore k x).ctxs = s.ctxs := rfl
@[simp] theorem setCore_ops : (s.setCore k x).ops = s.ops := rfl
@[simp] theorem setCore_nextOp : (s.setCore k x).nextOp = s.nextOp := rfl
@[simp] theorem setCore_issue : (s.setCore k x).issue = s.issue := rfl
@[simp] theorem setCore_drainCore : (s.setCore k x).drainCore = s.drainCore := rfl
@[simp] theorem setCore_nets : (s.setCore k x).nets = s.nets := rfl
@[simp] theorem setCore_jobs : (s.setCore k x).jobs = s.jobs := rfl
@[simp] theorem setCore_nextSeq : (s.setCore k x).nextSeq = s.nextSeq := rfl
@[simp] theorem setCore_rot : (s.setCore k x).rot = s.rot := rfl
@[simp] theorem setCore_placements : (s.setCore k x).placements = s.placements := rfl
@[simp] theorem setCore_queues : (s.setCore k x).queues = s.queues := rfl
@[simp] theorem setCore_assign : (s.setCore k x).assign = s.assign := rfl
@[simp] theorem setCore_evq : (s.setCore k x).evq = s.evq := rfl
@[simp] theorem setCore_records : (s.setCore k x).records = s.records := rfl
@[simp] theorem setCore_withheld : (s.setCore k x).withheld = s.withheld := rfl
@[simp] theorem setCore_cpParked : (s.setCore k x).cpParked = s.cpParked := rfl
@[simp] theorem setCore_reqs : (s.setCore k x).reqs = s.reqs := rfl
@[simp] theorem setCore_packets : (s.setCore k x).packets = s.packets := rfl
@[simp] theorem setCore_dbg : (s.setCore k x).dbg = s.dbg := rfl
@[simp] theorem setCore_signals : (s.setCore k x).signals = s.signals := rfl
@[simp] theorem setCore_sessions : (s.setCore k x).sessions = s.sessions := rfl
@[simp] theorem setCore_fab : (s.setCore k x).fab = s.fab := rfl
@[simp] theorem setCore_tt : (s.setCore k x).tt = s.tt := rfl
@[simp] theorem setCore_power : (s.setCore k x).power = s.power := rfl
@[simp] theorem setCore_fuses : (s.setCore k x).fuses = s.fuses := rfl
@[simp] theorem setCore_flrs : (s.setCore k x).flrs = s.flrs := rfl
@[simp] theorem setCore_parks : (s.setCore k x).parks = s.parks := rfl
@[simp] theorem setCore_mem : (s.setCore k x).mem = s.mem := rfl
@[simp] theorem setCore_throttles : (s.setCore k x).throttles = s.throttles := rfl
@[simp] theorem setCore_cclk : (s.setCore k x).cclk = s.cclk := rfl
@[simp] theorem setCore_dtime : (s.setCore k x).dtime = s.dtime := rfl
@[simp] theorem setCore_dsub : (s.setCore k x).dsub = s.dsub := rfl
@[simp] theorem setCore_dslew : (s.setCore k x).dslew = s.dslew := rfl
@[simp] theorem setCore_slew : (s.setCore k x).slew = s.slew := rfl
@[simp] theorem setCore_tick : (s.setCore k x).tick = s.tick := rfl
@[simp] theorem setCore_inputs : (s.setCore k x).inputs = s.inputs := rfl
end setCore

section modCore
variable (s : State) (k : Nat) (f : CoreSt → CoreSt)
@[simp] theorem modCore_ctxs : (s.modCore k f).ctxs = s.ctxs := rfl
@[simp] theorem modCore_ops : (s.modCore k f).ops = s.ops := rfl
@[simp] theorem modCore_nextOp : (s.modCore k f).nextOp = s.nextOp := rfl
@[simp] theorem modCore_issue : (s.modCore k f).issue = s.issue := rfl
@[simp] theorem modCore_drainCore : (s.modCore k f).drainCore = s.drainCore := rfl
@[simp] theorem modCore_nets : (s.modCore k f).nets = s.nets := rfl
@[simp] theorem modCore_jobs : (s.modCore k f).jobs = s.jobs := rfl
@[simp] theorem modCore_nextSeq : (s.modCore k f).nextSeq = s.nextSeq := rfl
@[simp] theorem modCore_rot : (s.modCore k f).rot = s.rot := rfl
@[simp] theorem modCore_placements : (s.modCore k f).placements = s.placements := rfl
@[simp] theorem modCore_queues : (s.modCore k f).queues = s.queues := rfl
@[simp] theorem modCore_assign : (s.modCore k f).assign = s.assign := rfl
@[simp] theorem modCore_evq : (s.modCore k f).evq = s.evq := rfl
@[simp] theorem modCore_records : (s.modCore k f).records = s.records := rfl
@[simp] theorem modCore_withheld : (s.modCore k f).withheld = s.withheld := rfl
@[simp] theorem modCore_cpParked : (s.modCore k f).cpParked = s.cpParked := rfl
@[simp] theorem modCore_reqs : (s.modCore k f).reqs = s.reqs := rfl
@[simp] theorem modCore_packets : (s.modCore k f).packets = s.packets := rfl
@[simp] theorem modCore_dbg : (s.modCore k f).dbg = s.dbg := rfl
@[simp] theorem modCore_signals : (s.modCore k f).signals = s.signals := rfl
@[simp] theorem modCore_sessions : (s.modCore k f).sessions = s.sessions := rfl
@[simp] theorem modCore_fab : (s.modCore k f).fab = s.fab := rfl
@[simp] theorem modCore_tt : (s.modCore k f).tt = s.tt := rfl
@[simp] theorem modCore_power : (s.modCore k f).power = s.power := rfl
@[simp] theorem modCore_fuses : (s.modCore k f).fuses = s.fuses := rfl
@[simp] theorem modCore_flrs : (s.modCore k f).flrs = s.flrs := rfl
@[simp] theorem modCore_parks : (s.modCore k f).parks = s.parks := rfl
@[simp] theorem modCore_mem : (s.modCore k f).mem = s.mem := rfl
@[simp] theorem modCore_throttles : (s.modCore k f).throttles = s.throttles := rfl
@[simp] theorem modCore_cclk : (s.modCore k f).cclk = s.cclk := rfl
@[simp] theorem modCore_dtime : (s.modCore k f).dtime = s.dtime := rfl
@[simp] theorem modCore_dsub : (s.modCore k f).dsub = s.dsub := rfl
@[simp] theorem modCore_dslew : (s.modCore k f).dslew = s.dslew := rfl
@[simp] theorem modCore_slew : (s.modCore k f).slew = s.slew := rfl
@[simp] theorem modCore_tick : (s.modCore k f).tick = s.tick := rfl
@[simp] theorem modCore_inputs : (s.modCore k f).inputs = s.inputs := rfl
end modCore

section modHead
variable (s : State) (k h : Nat) (f : Head → Head)
@[simp] theorem modHead_ctxs : (s.modHead k h f).ctxs = s.ctxs := rfl
@[simp] theorem modHead_ops : (s.modHead k h f).ops = s.ops := rfl
@[simp] theorem modHead_nextOp : (s.modHead k h f).nextOp = s.nextOp := rfl
@[simp] theorem modHead_issue : (s.modHead k h f).issue = s.issue := rfl
@[simp] theorem modHead_drainCore : (s.modHead k h f).drainCore = s.drainCore := rfl
@[simp] theorem modHead_nets : (s.modHead k h f).nets = s.nets := rfl
@[simp] theorem modHead_jobs : (s.modHead k h f).jobs = s.jobs := rfl
@[simp] theorem modHead_nextSeq : (s.modHead k h f).nextSeq = s.nextSeq := rfl
@[simp] theorem modHead_rot : (s.modHead k h f).rot = s.rot := rfl
@[simp] theorem modHead_placements : (s.modHead k h f).placements = s.placements := rfl
@[simp] theorem modHead_queues : (s.modHead k h f).queues = s.queues := rfl
@[simp] theorem modHead_assign : (s.modHead k h f).assign = s.assign := rfl
@[simp] theorem modHead_evq : (s.modHead k h f).evq = s.evq := rfl
@[simp] theorem modHead_records : (s.modHead k h f).records = s.records := rfl
@[simp] theorem modHead_withheld : (s.modHead k h f).withheld = s.withheld := rfl
@[simp] theorem modHead_cpParked : (s.modHead k h f).cpParked = s.cpParked := rfl
@[simp] theorem modHead_reqs : (s.modHead k h f).reqs = s.reqs := rfl
@[simp] theorem modHead_packets : (s.modHead k h f).packets = s.packets := rfl
@[simp] theorem modHead_dbg : (s.modHead k h f).dbg = s.dbg := rfl
@[simp] theorem modHead_signals : (s.modHead k h f).signals = s.signals := rfl
@[simp] theorem modHead_sessions : (s.modHead k h f).sessions = s.sessions := rfl
@[simp] theorem modHead_fab : (s.modHead k h f).fab = s.fab := rfl
@[simp] theorem modHead_tt : (s.modHead k h f).tt = s.tt := rfl
@[simp] theorem modHead_power : (s.modHead k h f).power = s.power := rfl
@[simp] theorem modHead_fuses : (s.modHead k h f).fuses = s.fuses := rfl
@[simp] theorem modHead_flrs : (s.modHead k h f).flrs = s.flrs := rfl
@[simp] theorem modHead_parks : (s.modHead k h f).parks = s.parks := rfl
@[simp] theorem modHead_mem : (s.modHead k h f).mem = s.mem := rfl
@[simp] theorem modHead_throttles : (s.modHead k h f).throttles = s.throttles := rfl
@[simp] theorem modHead_cclk : (s.modHead k h f).cclk = s.cclk := rfl
@[simp] theorem modHead_dtime : (s.modHead k h f).dtime = s.dtime := rfl
@[simp] theorem modHead_dsub : (s.modHead k h f).dsub = s.dsub := rfl
@[simp] theorem modHead_dslew : (s.modHead k h f).dslew = s.dslew := rfl
@[simp] theorem modHead_slew : (s.modHead k h f).slew = s.slew := rfl
@[simp] theorem modHead_tick : (s.modHead k h f).tick = s.tick := rfl
@[simp] theorem modHead_inputs : (s.modHead k h f).inputs = s.inputs := rfl
end modHead

section modJob
variable (s : State) (q : Nat) (f : Job → Job)
@[simp] theorem modJob_ctxs : (s.modJob q f).ctxs = s.ctxs := rfl
@[simp] theorem modJob_cores : (s.modJob q f).cores = s.cores := rfl
@[simp] theorem modJob_ops : (s.modJob q f).ops = s.ops := rfl
@[simp] theorem modJob_nextOp : (s.modJob q f).nextOp = s.nextOp := rfl
@[simp] theorem modJob_issue : (s.modJob q f).issue = s.issue := rfl
@[simp] theorem modJob_drainCore : (s.modJob q f).drainCore = s.drainCore := rfl
@[simp] theorem modJob_nets : (s.modJob q f).nets = s.nets := rfl
@[simp] theorem modJob_nextSeq : (s.modJob q f).nextSeq = s.nextSeq := rfl
@[simp] theorem modJob_rot : (s.modJob q f).rot = s.rot := rfl
@[simp] theorem modJob_placements : (s.modJob q f).placements = s.placements := rfl
@[simp] theorem modJob_queues : (s.modJob q f).queues = s.queues := rfl
@[simp] theorem modJob_assign : (s.modJob q f).assign = s.assign := rfl
@[simp] theorem modJob_evq : (s.modJob q f).evq = s.evq := rfl
@[simp] theorem modJob_records : (s.modJob q f).records = s.records := rfl
@[simp] theorem modJob_withheld : (s.modJob q f).withheld = s.withheld := rfl
@[simp] theorem modJob_cpParked : (s.modJob q f).cpParked = s.cpParked := rfl
@[simp] theorem modJob_reqs : (s.modJob q f).reqs = s.reqs := rfl
@[simp] theorem modJob_packets : (s.modJob q f).packets = s.packets := rfl
@[simp] theorem modJob_dbg : (s.modJob q f).dbg = s.dbg := rfl
@[simp] theorem modJob_signals : (s.modJob q f).signals = s.signals := rfl
@[simp] theorem modJob_sessions : (s.modJob q f).sessions = s.sessions := rfl
@[simp] theorem modJob_fab : (s.modJob q f).fab = s.fab := rfl
@[simp] theorem modJob_tt : (s.modJob q f).tt = s.tt := rfl
@[simp] theorem modJob_power : (s.modJob q f).power = s.power := rfl
@[simp] theorem modJob_fuses : (s.modJob q f).fuses = s.fuses := rfl
@[simp] theorem modJob_flrs : (s.modJob q f).flrs = s.flrs := rfl
@[simp] theorem modJob_parks : (s.modJob q f).parks = s.parks := rfl
@[simp] theorem modJob_mem : (s.modJob q f).mem = s.mem := rfl
@[simp] theorem modJob_throttles : (s.modJob q f).throttles = s.throttles := rfl
@[simp] theorem modJob_cclk : (s.modJob q f).cclk = s.cclk := rfl
@[simp] theorem modJob_dtime : (s.modJob q f).dtime = s.dtime := rfl
@[simp] theorem modJob_dsub : (s.modJob q f).dsub = s.dsub := rfl
@[simp] theorem modJob_dslew : (s.modJob q f).dslew = s.dslew := rfl
@[simp] theorem modJob_slew : (s.modJob q f).slew = s.slew := rfl
@[simp] theorem modJob_tick : (s.modJob q f).tick = s.tick := rfl
@[simp] theorem modJob_inputs : (s.modJob q f).inputs = s.inputs := rfl
end modJob

section modStrand
variable (s : State) (i : StrandId) (f : Strand → Strand)
@[simp] theorem modStrand_ctxs : (s.modStrand i f).ctxs = s.ctxs := rfl
@[simp] theorem modStrand_cores : (s.modStrand i f).cores = s.cores := rfl
@[simp] theorem modStrand_ops : (s.modStrand i f).ops = s.ops := rfl
@[simp] theorem modStrand_nextOp : (s.modStrand i f).nextOp = s.nextOp := rfl
@[simp] theorem modStrand_issue : (s.modStrand i f).issue = s.issue := rfl
@[simp] theorem modStrand_drainCore : (s.modStrand i f).drainCore = s.drainCore := rfl
@[simp] theorem modStrand_nets : (s.modStrand i f).nets = s.nets := rfl
@[simp] theorem modStrand_nextSeq : (s.modStrand i f).nextSeq = s.nextSeq := rfl
@[simp] theorem modStrand_rot : (s.modStrand i f).rot = s.rot := rfl
@[simp] theorem modStrand_placements : (s.modStrand i f).placements = s.placements := rfl
@[simp] theorem modStrand_queues : (s.modStrand i f).queues = s.queues := rfl
@[simp] theorem modStrand_assign : (s.modStrand i f).assign = s.assign := rfl
@[simp] theorem modStrand_evq : (s.modStrand i f).evq = s.evq := rfl
@[simp] theorem modStrand_records : (s.modStrand i f).records = s.records := rfl
@[simp] theorem modStrand_withheld : (s.modStrand i f).withheld = s.withheld := rfl
@[simp] theorem modStrand_cpParked : (s.modStrand i f).cpParked = s.cpParked := rfl
@[simp] theorem modStrand_reqs : (s.modStrand i f).reqs = s.reqs := rfl
@[simp] theorem modStrand_packets : (s.modStrand i f).packets = s.packets := rfl
@[simp] theorem modStrand_dbg : (s.modStrand i f).dbg = s.dbg := rfl
@[simp] theorem modStrand_signals : (s.modStrand i f).signals = s.signals := rfl
@[simp] theorem modStrand_sessions : (s.modStrand i f).sessions = s.sessions := rfl
@[simp] theorem modStrand_fab : (s.modStrand i f).fab = s.fab := rfl
@[simp] theorem modStrand_tt : (s.modStrand i f).tt = s.tt := rfl
@[simp] theorem modStrand_power : (s.modStrand i f).power = s.power := rfl
@[simp] theorem modStrand_fuses : (s.modStrand i f).fuses = s.fuses := rfl
@[simp] theorem modStrand_flrs : (s.modStrand i f).flrs = s.flrs := rfl
@[simp] theorem modStrand_parks : (s.modStrand i f).parks = s.parks := rfl
@[simp] theorem modStrand_mem : (s.modStrand i f).mem = s.mem := rfl
@[simp] theorem modStrand_throttles : (s.modStrand i f).throttles = s.throttles := rfl
@[simp] theorem modStrand_cclk : (s.modStrand i f).cclk = s.cclk := rfl
@[simp] theorem modStrand_dtime : (s.modStrand i f).dtime = s.dtime := rfl
@[simp] theorem modStrand_dsub : (s.modStrand i f).dsub = s.dsub := rfl
@[simp] theorem modStrand_dslew : (s.modStrand i f).dslew = s.dslew := rfl
@[simp] theorem modStrand_slew : (s.modStrand i f).slew = s.slew := rfl
@[simp] theorem modStrand_tick : (s.modStrand i f).tick = s.tick := rfl
@[simp] theorem modStrand_inputs : (s.modStrand i f).inputs = s.inputs := rfl
end modStrand

section addOp
variable (s : State) (o : Op)
@[simp] theorem addOp_ctxs : (s.addOp o).ctxs = s.ctxs := rfl
@[simp] theorem addOp_cores : (s.addOp o).cores = s.cores := rfl
@[simp] theorem addOp_issue : (s.addOp o).issue = s.issue := rfl
@[simp] theorem addOp_drainCore : (s.addOp o).drainCore = s.drainCore := rfl
@[simp] theorem addOp_nets : (s.addOp o).nets = s.nets := rfl
@[simp] theorem addOp_jobs : (s.addOp o).jobs = s.jobs := rfl
@[simp] theorem addOp_nextSeq : (s.addOp o).nextSeq = s.nextSeq := rfl
@[simp] theorem addOp_rot : (s.addOp o).rot = s.rot := rfl
@[simp] theorem addOp_placements : (s.addOp o).placements = s.placements := rfl
@[simp] theorem addOp_queues : (s.addOp o).queues = s.queues := rfl
@[simp] theorem addOp_assign : (s.addOp o).assign = s.assign := rfl
@[simp] theorem addOp_evq : (s.addOp o).evq = s.evq := rfl
@[simp] theorem addOp_records : (s.addOp o).records = s.records := rfl
@[simp] theorem addOp_withheld : (s.addOp o).withheld = s.withheld := rfl
@[simp] theorem addOp_cpParked : (s.addOp o).cpParked = s.cpParked := rfl
@[simp] theorem addOp_reqs : (s.addOp o).reqs = s.reqs := rfl
@[simp] theorem addOp_packets : (s.addOp o).packets = s.packets := rfl
@[simp] theorem addOp_dbg : (s.addOp o).dbg = s.dbg := rfl
@[simp] theorem addOp_signals : (s.addOp o).signals = s.signals := rfl
@[simp] theorem addOp_sessions : (s.addOp o).sessions = s.sessions := rfl
@[simp] theorem addOp_fab : (s.addOp o).fab = s.fab := rfl
@[simp] theorem addOp_tt : (s.addOp o).tt = s.tt := rfl
@[simp] theorem addOp_power : (s.addOp o).power = s.power := rfl
@[simp] theorem addOp_fuses : (s.addOp o).fuses = s.fuses := rfl
@[simp] theorem addOp_flrs : (s.addOp o).flrs = s.flrs := rfl
@[simp] theorem addOp_parks : (s.addOp o).parks = s.parks := rfl
@[simp] theorem addOp_mem : (s.addOp o).mem = s.mem := rfl
@[simp] theorem addOp_throttles : (s.addOp o).throttles = s.throttles := rfl
@[simp] theorem addOp_cclk : (s.addOp o).cclk = s.cclk := rfl
@[simp] theorem addOp_dtime : (s.addOp o).dtime = s.dtime := rfl
@[simp] theorem addOp_dsub : (s.addOp o).dsub = s.dsub := rfl
@[simp] theorem addOp_dslew : (s.addOp o).dslew = s.dslew := rfl
@[simp] theorem addOp_slew : (s.addOp o).slew = s.slew := rfl
@[simp] theorem addOp_tick : (s.addOp o).tick = s.tick := rfl
@[simp] theorem addOp_inputs : (s.addOp o).inputs = s.inputs := rfl
end addOp

section setOp
variable (s : State) (o : Op)
@[simp] theorem setOp_ctxs : (s.setOp o).ctxs = s.ctxs := rfl
@[simp] theorem setOp_cores : (s.setOp o).cores = s.cores := rfl
@[simp] theorem setOp_nextOp : (s.setOp o).nextOp = s.nextOp := rfl
@[simp] theorem setOp_issue : (s.setOp o).issue = s.issue := rfl
@[simp] theorem setOp_drainCore : (s.setOp o).drainCore = s.drainCore := rfl
@[simp] theorem setOp_nets : (s.setOp o).nets = s.nets := rfl
@[simp] theorem setOp_jobs : (s.setOp o).jobs = s.jobs := rfl
@[simp] theorem setOp_nextSeq : (s.setOp o).nextSeq = s.nextSeq := rfl
@[simp] theorem setOp_rot : (s.setOp o).rot = s.rot := rfl
@[simp] theorem setOp_placements : (s.setOp o).placements = s.placements := rfl
@[simp] theorem setOp_queues : (s.setOp o).queues = s.queues := rfl
@[simp] theorem setOp_assign : (s.setOp o).assign = s.assign := rfl
@[simp] theorem setOp_evq : (s.setOp o).evq = s.evq := rfl
@[simp] theorem setOp_records : (s.setOp o).records = s.records := rfl
@[simp] theorem setOp_withheld : (s.setOp o).withheld = s.withheld := rfl
@[simp] theorem setOp_cpParked : (s.setOp o).cpParked = s.cpParked := rfl
@[simp] theorem setOp_reqs : (s.setOp o).reqs = s.reqs := rfl
@[simp] theorem setOp_packets : (s.setOp o).packets = s.packets := rfl
@[simp] theorem setOp_dbg : (s.setOp o).dbg = s.dbg := rfl
@[simp] theorem setOp_signals : (s.setOp o).signals = s.signals := rfl
@[simp] theorem setOp_sessions : (s.setOp o).sessions = s.sessions := rfl
@[simp] theorem setOp_fab : (s.setOp o).fab = s.fab := rfl
@[simp] theorem setOp_tt : (s.setOp o).tt = s.tt := rfl
@[simp] theorem setOp_power : (s.setOp o).power = s.power := rfl
@[simp] theorem setOp_fuses : (s.setOp o).fuses = s.fuses := rfl
@[simp] theorem setOp_flrs : (s.setOp o).flrs = s.flrs := rfl
@[simp] theorem setOp_parks : (s.setOp o).parks = s.parks := rfl
@[simp] theorem setOp_mem : (s.setOp o).mem = s.mem := rfl
@[simp] theorem setOp_throttles : (s.setOp o).throttles = s.throttles := rfl
@[simp] theorem setOp_cclk : (s.setOp o).cclk = s.cclk := rfl
@[simp] theorem setOp_dtime : (s.setOp o).dtime = s.dtime := rfl
@[simp] theorem setOp_dsub : (s.setOp o).dsub = s.dsub := rfl
@[simp] theorem setOp_dslew : (s.setOp o).dslew = s.dslew := rfl
@[simp] theorem setOp_slew : (s.setOp o).slew = s.slew := rfl
@[simp] theorem setOp_tick : (s.setOp o).tick = s.tick := rfl
@[simp] theorem setOp_inputs : (s.setOp o).inputs = s.inputs := rfl
end setOp

section endOp
variable (s : State) (n : Nat)
@[simp] theorem endOp_ctxs : (s.endOp n).ctxs = s.ctxs := rfl
@[simp] theorem endOp_cores : (s.endOp n).cores = s.cores := rfl
@[simp] theorem endOp_nextOp : (s.endOp n).nextOp = s.nextOp := rfl
@[simp] theorem endOp_issue : (s.endOp n).issue = s.issue := rfl
@[simp] theorem endOp_drainCore : (s.endOp n).drainCore = s.drainCore := rfl
@[simp] theorem endOp_nets : (s.endOp n).nets = s.nets := rfl
@[simp] theorem endOp_jobs : (s.endOp n).jobs = s.jobs := rfl
@[simp] theorem endOp_nextSeq : (s.endOp n).nextSeq = s.nextSeq := rfl
@[simp] theorem endOp_rot : (s.endOp n).rot = s.rot := rfl
@[simp] theorem endOp_placements : (s.endOp n).placements = s.placements := rfl
@[simp] theorem endOp_queues : (s.endOp n).queues = s.queues := rfl
@[simp] theorem endOp_assign : (s.endOp n).assign = s.assign := rfl
@[simp] theorem endOp_evq : (s.endOp n).evq = s.evq := rfl
@[simp] theorem endOp_records : (s.endOp n).records = s.records := rfl
@[simp] theorem endOp_withheld : (s.endOp n).withheld = s.withheld := rfl
@[simp] theorem endOp_cpParked : (s.endOp n).cpParked = s.cpParked := rfl
@[simp] theorem endOp_reqs : (s.endOp n).reqs = s.reqs := rfl
@[simp] theorem endOp_packets : (s.endOp n).packets = s.packets := rfl
@[simp] theorem endOp_dbg : (s.endOp n).dbg = s.dbg := rfl
@[simp] theorem endOp_signals : (s.endOp n).signals = s.signals := rfl
@[simp] theorem endOp_sessions : (s.endOp n).sessions = s.sessions := rfl
@[simp] theorem endOp_fab : (s.endOp n).fab = s.fab := rfl
@[simp] theorem endOp_tt : (s.endOp n).tt = s.tt := rfl
@[simp] theorem endOp_power : (s.endOp n).power = s.power := rfl
@[simp] theorem endOp_fuses : (s.endOp n).fuses = s.fuses := rfl
@[simp] theorem endOp_flrs : (s.endOp n).flrs = s.flrs := rfl
@[simp] theorem endOp_parks : (s.endOp n).parks = s.parks := rfl
@[simp] theorem endOp_mem : (s.endOp n).mem = s.mem := rfl
@[simp] theorem endOp_throttles : (s.endOp n).throttles = s.throttles := rfl
@[simp] theorem endOp_cclk : (s.endOp n).cclk = s.cclk := rfl
@[simp] theorem endOp_dtime : (s.endOp n).dtime = s.dtime := rfl
@[simp] theorem endOp_dsub : (s.endOp n).dsub = s.dsub := rfl
@[simp] theorem endOp_dslew : (s.endOp n).dslew = s.dslew := rfl
@[simp] theorem endOp_slew : (s.endOp n).slew = s.slew := rfl
@[simp] theorem endOp_tick : (s.endOp n).tick = s.tick := rfl
@[simp] theorem endOp_inputs : (s.endOp n).inputs = s.inputs := rfl
end endOp

section record
variable (s : State) (r : EventRec)
@[simp] theorem record_ctxs : (s.record r).ctxs = s.ctxs := rfl
@[simp] theorem record_cores : (s.record r).cores = s.cores := rfl
@[simp] theorem record_ops : (s.record r).ops = s.ops := rfl
@[simp] theorem record_nextOp : (s.record r).nextOp = s.nextOp := rfl
@[simp] theorem record_issue : (s.record r).issue = s.issue := rfl
@[simp] theorem record_drainCore : (s.record r).drainCore = s.drainCore := rfl
@[simp] theorem record_nets : (s.record r).nets = s.nets := rfl
@[simp] theorem record_jobs : (s.record r).jobs = s.jobs := rfl
@[simp] theorem record_nextSeq : (s.record r).nextSeq = s.nextSeq := rfl
@[simp] theorem record_rot : (s.record r).rot = s.rot := rfl
@[simp] theorem record_placements : (s.record r).placements = s.placements := rfl
@[simp] theorem record_queues : (s.record r).queues = s.queues := rfl
@[simp] theorem record_assign : (s.record r).assign = s.assign := rfl
@[simp] theorem record_evq : (s.record r).evq = s.evq := rfl
@[simp] theorem record_withheld : (s.record r).withheld = s.withheld := rfl
@[simp] theorem record_cpParked : (s.record r).cpParked = s.cpParked := rfl
@[simp] theorem record_reqs : (s.record r).reqs = s.reqs := rfl
@[simp] theorem record_packets : (s.record r).packets = s.packets := rfl
@[simp] theorem record_dbg : (s.record r).dbg = s.dbg := rfl
@[simp] theorem record_signals : (s.record r).signals = s.signals := rfl
@[simp] theorem record_sessions : (s.record r).sessions = s.sessions := rfl
@[simp] theorem record_fab : (s.record r).fab = s.fab := rfl
@[simp] theorem record_tt : (s.record r).tt = s.tt := rfl
@[simp] theorem record_power : (s.record r).power = s.power := rfl
@[simp] theorem record_fuses : (s.record r).fuses = s.fuses := rfl
@[simp] theorem record_flrs : (s.record r).flrs = s.flrs := rfl
@[simp] theorem record_parks : (s.record r).parks = s.parks := rfl
@[simp] theorem record_mem : (s.record r).mem = s.mem := rfl
@[simp] theorem record_throttles : (s.record r).throttles = s.throttles := rfl
@[simp] theorem record_cclk : (s.record r).cclk = s.cclk := rfl
@[simp] theorem record_dtime : (s.record r).dtime = s.dtime := rfl
@[simp] theorem record_dsub : (s.record r).dsub = s.dsub := rfl
@[simp] theorem record_dslew : (s.record r).dslew = s.dslew := rfl
@[simp] theorem record_slew : (s.record r).slew = s.slew := rfl
@[simp] theorem record_tick : (s.record r).tick = s.tick := rfl
@[simp] theorem record_inputs : (s.record r).inputs = s.inputs := rfl
end record

section yields
variable (s : State)
@[simp] theorem yields_ctxs : (s.yields).ctxs = s.ctxs := rfl
@[simp] theorem yields_cores : (s.yields).cores = s.cores := rfl
@[simp] theorem yields_ops : (s.yields).ops = s.ops := rfl
@[simp] theorem yields_nextOp : (s.yields).nextOp = s.nextOp := rfl
@[simp] theorem yields_drainCore : (s.yields).drainCore = s.drainCore := rfl
@[simp] theorem yields_nets : (s.yields).nets = s.nets := rfl
@[simp] theorem yields_jobs : (s.yields).jobs = s.jobs := rfl
@[simp] theorem yields_nextSeq : (s.yields).nextSeq = s.nextSeq := rfl
@[simp] theorem yields_rot : (s.yields).rot = s.rot := rfl
@[simp] theorem yields_placements : (s.yields).placements = s.placements := rfl
@[simp] theorem yields_queues : (s.yields).queues = s.queues := rfl
@[simp] theorem yields_assign : (s.yields).assign = s.assign := rfl
@[simp] theorem yields_evq : (s.yields).evq = s.evq := rfl
@[simp] theorem yields_records : (s.yields).records = s.records := rfl
@[simp] theorem yields_withheld : (s.yields).withheld = s.withheld := rfl
@[simp] theorem yields_cpParked : (s.yields).cpParked = s.cpParked := rfl
@[simp] theorem yields_reqs : (s.yields).reqs = s.reqs := rfl
@[simp] theorem yields_packets : (s.yields).packets = s.packets := rfl
@[simp] theorem yields_dbg : (s.yields).dbg = s.dbg := rfl
@[simp] theorem yields_signals : (s.yields).signals = s.signals := rfl
@[simp] theorem yields_sessions : (s.yields).sessions = s.sessions := rfl
@[simp] theorem yields_fab : (s.yields).fab = s.fab := rfl
@[simp] theorem yields_tt : (s.yields).tt = s.tt := rfl
@[simp] theorem yields_power : (s.yields).power = s.power := rfl
@[simp] theorem yields_fuses : (s.yields).fuses = s.fuses := rfl
@[simp] theorem yields_flrs : (s.yields).flrs = s.flrs := rfl
@[simp] theorem yields_parks : (s.yields).parks = s.parks := rfl
@[simp] theorem yields_mem : (s.yields).mem = s.mem := rfl
@[simp] theorem yields_throttles : (s.yields).throttles = s.throttles := rfl
@[simp] theorem yields_cclk : (s.yields).cclk = s.cclk := rfl
@[simp] theorem yields_dtime : (s.yields).dtime = s.dtime := rfl
@[simp] theorem yields_dsub : (s.yields).dsub = s.dsub := rfl
@[simp] theorem yields_dslew : (s.yields).dslew = s.dslew := rfl
@[simp] theorem yields_slew : (s.yields).slew = s.slew := rfl
@[simp] theorem yields_tick : (s.yields).tick = s.tick := rfl
@[simp] theorem yields_inputs : (s.yields).inputs = s.inputs := rfl
end yields

end Sys2Proof.Machine
end

