-- ==== Sys2Proof/Laws/Ops.lean ====
section
/-! SUPPORT. What each shared operation can do, said once: contexts and cores read after a write, a slot's sources, a
result from its issue to its landing, a trap, an outstanding operation. -/

namespace Sys2Proof.Machine

/-! ### Contexts and cores -/

@[simp] theorem ctx_setCtx_same (s : State) (c : Nat) (x : Ctx) : (s.setCtx c x).ctx c = x := mget_mset_same _ _ c x
theorem ctx_setCtx_other (s : State) {c d : Nat} (x : Ctx) (h : d ≠ c) : (s.setCtx c x).ctx d = s.ctx d :=
  mget_mset_other _ _ x h
@[simp] theorem ctx_modCtx_same (s : State) (c : Nat) (f : Ctx → Ctx) : (s.modCtx c f).ctx c = f (s.ctx c) :=
  ctx_setCtx_same s c _
theorem ctx_modCtx_other (s : State) {c d : Nat} (f : Ctx → Ctx) (h : d ≠ c) : (s.modCtx c f).ctx d = s.ctx d :=
  ctx_setCtx_other s _ h
@[simp] theorem cur_modCur (s : State) (f : Ctx → Ctx) : (s.modCur f).cur = f s.cur := ctx_modCtx_same s _ f
@[simp] theorem core_setCore_same (s : State) (k : Nat) (x : CoreSt) : (s.setCore k x).core k = x := mget_mset_same _ _ k x
theorem core_setCore_other (s : State) {k j : Nat} (x : CoreSt) (h : j ≠ k) : (s.setCore k x).core j = s.core j :=
  mget_mset_other _ _ x h
@[simp] theorem core_modCore_same (s : State) (k : Nat) (f : CoreSt → CoreSt) : (s.modCore k f).core k = f (s.core k) :=
  core_setCore_same s k _
theorem core_modCore_other (s : State) {k j : Nat} (f : CoreSt → CoreSt) (h : j ≠ k) : (s.modCore k f).core j = s.core j :=
  core_setCore_other s _ h

/-- A core after another core, or the same, has changed. -/
theorem core_modCore (s : State) (k j : Nat) (f : CoreSt → CoreSt) :
    (s.modCore k f).core j = if j = k then f (s.core j) else s.core j := by
  split
  · rename_i h; subst h; simp
  · rename_i h; exact core_modCore_other s f h

/-- A context after another context, or the same, has changed. -/
theorem ctx_modCtx (s : State) (c d : Nat) (f : Ctx → Ctx) :
    (s.modCtx c f).ctx d = if d = c then f (s.ctx d) else s.ctx d := by
  split
  · rename_i h; subst h; simp
  · rename_i h; exact ctx_modCtx_other s f h

@[simp] theorem ctx_modCore (s : State) (k c : Nat) (f : CoreSt → CoreSt) : (s.modCore k f).ctx c = s.ctx c := rfl
@[simp] theorem ctx_modHead (s : State) (k h c : Nat) (f : Head → Head) : (s.modHead k h f).ctx c = s.ctx c := rfl
@[simp] theorem ctx_modJob (s : State) (q c : Nat) (f : Job → Job) : (s.modJob q f).ctx c = s.ctx c := rfl
@[simp] theorem ctx_modStrand (s : State) (i : StrandId) (c : Nat) (f : Strand → Strand) :
    (s.modStrand i f).ctx c = s.ctx c := rfl
@[simp] theorem ctx_addOp (s : State) (o : Op) (c : Nat) : (s.addOp o).ctx c = s.ctx c := rfl
@[simp] theorem ctx_setOp (s : State) (o : Op) (c : Nat) : (s.setOp o).ctx c = s.ctx c := rfl
@[simp] theorem ctx_endOp (s : State) (n c : Nat) : (s.endOp n).ctx c = s.ctx c := rfl
@[simp] theorem ctx_endUnanswered (s : State) (o : Op) (c : Nat) : (s.endUnanswered o).ctx c = s.ctx c := by
  unfold State.endUnanswered
  dsimp only
  split
  · split <;> rfl
  · rfl
@[simp] theorem ctx_record (s : State) (r : EventRec) (c : Nat) : (s.record r).ctx c = s.ctx c := rfl
@[simp] theorem ctx_yields (s : State) (c : Nat) : s.yields.ctx c = s.ctx c := rfl
@[simp] theorem core_modCtx (s : State) (c k : Nat) (f : Ctx → Ctx) : (s.modCtx c f).core k = s.core k := rfl
@[simp] theorem core_modCur (s : State) (k : Nat) (f : Ctx → Ctx) : (s.modCur f).core k = s.core k := rfl
@[simp] theorem core_modJob (s : State) (q k : Nat) (f : Job → Job) : (s.modJob q f).core k = s.core k := rfl
@[simp] theorem core_modStrand (s : State) (i : StrandId) (k : Nat) (f : Strand → Strand) :
    (s.modStrand i f).core k = s.core k := rfl
@[simp] theorem core_addOp (s : State) (o : Op) (k : Nat) : (s.addOp o).core k = s.core k := rfl
@[simp] theorem core_setOp (s : State) (o : Op) (k : Nat) : (s.setOp o).core k = s.core k := rfl
@[simp] theorem core_endOp (s : State) (n k : Nat) : (s.endOp n).core k = s.core k := rfl
@[simp] theorem core_endUnanswered (s : State) (o : Op) (k : Nat) : (s.endUnanswered o).core k = s.core k := by
  unfold State.endUnanswered
  dsimp only
  split
  · split <;> rfl
  · rfl
@[simp] theorem core_record (s : State) (r : EventRec) (k : Nat) : (s.record r).core k = s.core k := rfl
@[simp] theorem core_yields (s : State) (k : Nat) : s.yields.core k = s.core k := rfl

/-! ### Sources -/

/-- A slot whose sources are full goes on. -/
theorem reading_full {s : State} {l : List Source} (k : State → State) (h : s.full l) : s.reading l k = k s := by
  unfold State.reading
  rw [if_pos]
  simpa [State.full] using h

/-- What reading the sources of a slot can do: the slot goes on with full sources, raises EMPTY_READ, or yields. -/
theorem reading_cases (s : State) (l : List Source) (k : State → State) :
    (s.full l ∧ s.reading l k = k s)
    ∨ (∃ x ∈ l, s.issue.regs.isEmpty x.reg = true ∧ x.pol = true
        ∧ s.reading l k = s.trap cEmptyRead (emptyReadInfo x.reg s.issue.slot x.field))
    ∨ s.reading l k = { s.yields with issue := { s.yields.issue with empty := true } } := by
  by_cases h : s.full l
  · exact .inl ⟨h, reading_full k h⟩
  · refine .inr ?_
    have e : ¬(l.all fun x => !s.issue.regs.isEmpty x.reg) = true := by simpa [State.full] using h
    unfold State.reading
    rw [if_neg e]
    cases ht : lowestTrap s.issue l with
    | none => exact .inr rfl
    | some x =>
      refine .inl ⟨x, ?_⟩
      have : ∀ (l : List Source) (x : Source), lowestTrap s.issue l = some x →
          x ∈ l ∧ s.issue.regs.isEmpty x.reg = true ∧ x.pol = true := by
        intro l
        induction l with
        | nil => intro x h; cases h
        | cons y ys ih =>
          intro x h
          unfold lowestTrap at h
          split at h
          · rename_i hy
            simp only [Bool.and_eq_true] at hy
            split at h
            · rename_i z hz
              split at h <;> cases h
              · obtain ⟨a, b, c⟩ := ih _ hz; exact ⟨List.mem_cons_of_mem _ a, b, c⟩
              · exact ⟨List.mem_cons_self .., hy⟩
            · cases h; exact ⟨List.mem_cons_self .., hy⟩
          · obtain ⟨a, b, c⟩ := ih _ h; exact ⟨List.mem_cons_of_mem _ a, b, c⟩
      obtain ⟨a, b, c⟩ := this _ _ ht
      exact ⟨a, b, c, rfl⟩

/-! ### Registers -/

/-- A register marked empty or full keeps its value. -/
@[simp] theorem mark_get (r : Regs) (n m : RegName) (e : Bool) : (r.mark n e).get m = r.get m := by
  unfold Regs.mark
  split
  · rfl
  · split <;> rfl

theorem withBit_getLsbD {w : Nat} (m : BitVec w) (n i : Nat) (b : Bool) (h : i < w) :
    (withBit m n b).getLsbD i = if i = n then b else m.getLsbD i := by
  unfold withBit
  cases b <;> by_cases e : i = n <;> simp [BitVec.getLsbD_twoPow, e, h]
  all_goals (try (subst e; simp [h]))

/-- Marking a register changes the state of no other. -/
theorem mark_isEmpty_other (r : Regs) {n m : RegName} (e : Bool) (h : m ≠ n) :
    (r.mark n e).isEmpty m = r.isEmpty m := by
  unfold Regs.mark
  split
  · rfl
  · have key : ∀ {w : Nat} (x : BitVec w), m.num ≠ n.num → (withBit x n.num.toNat e).getLsbD m.num.toNat = x.getLsbD m.num.toNat := by
      intro w x hn
      by_cases hw : m.num.toNat < w
      · rw [withBit_getLsbD _ _ _ _ hw, if_neg (fun q => hn (BitVec.eq_of_toNat_eq q))]
      · rw [BitVec.getLsbD_of_ge _ _ (by omega), BitVec.getLsbD_of_ge _ _ (by omega)]
    by_cases hf : m.file = n.file
    · have hn : m.num ≠ n.num := by
        intro q; apply h; cases m; cases n; simp_all
      rcases hq : n.file.toNat with _ | _ | _ | _ <;> simp [Regs.isEmpty, hf, hq, key _ hn]
    · have hq : m.file.toNat ≠ n.file.toNat := fun q => hf (BitVec.eq_of_toNat_eq q)
      have b1 := m.file.isLt
      have b2 := n.file.isLt
      rcases h1 : n.file.toNat with _ | _ | _ | _ <;> rcases h2 : m.file.toNat with _ | _ | _ | _ <;>
        simp_all [Regs.isEmpty]
      all_goals omega

/-! ### Results -/

/-- What the issue of a result does to the context: the destination turns empty, its value stays, the result is in flight. -/
theorem result_cur (s : State) (n : RegName) (lat : Nat) (v : RegVal) (f : BitVec 5) (h : n.discards = false) :
    (s.result n lat v f).cur =
      { s.cur with
        regs := s.cur.regs.mark n true
        tags := mset 0 s.cur.tags (regKey n) s.nextOp
        flight := s.cur.flight ++ [⟨n, s.nextOp, s.now + lat, v, f⟩] } := by
  unfold State.result
  dsimp only
  rw [if_neg (by simp [h])]
  exact ctx_modCtx_same s s.issue.ctx fun c =>
    { c with
      regs := c.regs.mark n true
      tags := mset 0 c.tags (regKey n) s.nextOp
      flight := c.flight ++ [⟨n, s.nextOp, s.now + lat, v, f⟩] }

/-- A result to s0 or m0 is discarded. -/
theorem result_discard (s : State) (n : RegName) (lat : Nat) (v : RegVal) (f : BitVec 5) (h : n.discards = true) :
    s.result n lat v f = s := by simp [State.result, h]

/-- What issuing a result does to the rest of the machine. -/
theorem result_rest (s : State) (n : RegName) (lat : Nat) (v : RegVal) (f : BitVec 5) :
    (s.result n lat v f).mem = s.mem ∧ (s.result n lat v f).cores = s.cores ∧ (s.result n lat v f).ops = s.ops
    ∧ (s.result n lat v f).issue = s.issue ∧ (s.result n lat v f).jobs = s.jobs
    ∧ ∀ d, d ≠ s.issue.ctx → (s.result n lat v f).ctx d = s.ctx d := by
  by_cases h : n.discards = true
  · rw [result_discard s n lat v f h]; exact ⟨rfl, rfl, rfl, rfl, rfl, fun _ _ => rfl⟩
  · unfold State.result
    dsimp only
    rw [if_neg h]
    exact ⟨rfl, rfl, rfl, rfl, rfl, fun d hd => mget_mset_other _ _ _ hd⟩

/-! ### Traps -/

/-- What a trap of a strand that has not exited does: the bundle splits at the slot, the trap is delivered to the context,
and nothing else changes. -/
theorem trapAt_live (s : State) (k : Nat) (cause : BitVec 8) (info : Word) (h : s.hasExited s.curStrand = false) :
    s.trapAt k cause info =
      { s.modCur fun x => (x.split s.issue k).trap cause info s.issue.pcb with
        issue := { s.issue with stop := .trapped, cause := cause } } := by
  unfold State.trapAt
  have e : State.hasExited { s with issue := { s.issue with stop := .trapped, cause := cause } }
      (State.curStrand { s with issue := { s.issue with stop := .trapped, cause := cause } }) = false := h
  simp only [e]
  rfl

/-- The context after a trap of a strand that has not exited. -/
theorem trapAt_cur (s : State) (k : Nat) (cause : BitVec 8) (info : Word) (h : s.hasExited s.curStrand = false) :
    (s.trapAt k cause info).cur = (s.cur.split s.issue k).trap cause info s.issue.pcb := by
  rw [trapAt_live s k cause info h]
  exact cur_modCur s fun x => (x.split s.issue k).trap cause info s.issue.pcb

/-- The rest of the machine after a trap of a strand that has not exited. -/
theorem trapAt_rest (s : State) (k : Nat) (cause : BitVec 8) (info : Word) (h : s.hasExited s.curStrand = false) :
    (s.trapAt k cause info).mem = s.mem ∧ (s.trapAt k cause info).cores = s.cores
    ∧ (s.trapAt k cause info).ops = s.ops ∧ (s.trapAt k cause info).jobs = s.jobs
    ∧ ∀ d, d ≠ s.issue.ctx → (s.trapAt k cause info).ctx d = s.ctx d := by
  rw [trapAt_live s k cause info h]
  exact ⟨rfl, rfl, rfl, rfl, fun d hd => mget_mset_other _ _ _ hd⟩

/-- A trap that the strand's handler takes. -/
theorem trap_handler (x : Ctx) (cause : BitVec 8) (info : Word) (pc : BitVec 16) (h1 : strandFirst cause = true)
    (h2 : x.sr.xvec ≠ 0#16) (h3 : x.hact = false) :
    x.trap cause info pc = { x with
      offered := none, reenter := none, oor := false, needs := none, rereads := [], hact := true, pc := x.sr.xvec
      sr := { x.sr with xpc := pc, xcause := cause, xinfo := info } } := by
  unfold Ctx.trap
  dsimp only
  rw [if_neg (by simp [h3]), if_pos (by simp [h1, h2])]
  rfl

/-- A trap that stops the strand: XPC, XCAUSE and XINFO are its own, but in a handler. -/
theorem trap_stop (x : Ctx) (cause : BitVec 8) (info : Word) (pc : BitVec 16)
    (h : strandFirst cause = false ∨ x.sr.xvec = 0#16 ∨ x.hact = true) :
    x.trap cause info pc = { x with
      offered := none, reenter := none, oor := false, needs := none, rereads := [], pc := pc
      sr := if x.hact then x.sr else x.sr.trapped cause info pc
      stop := some { reason := 1, cause := cause, info := info, pc := pc, debug := debugPending x.stop, gang := gangPending x.stop } } := by
  unfold Ctx.trap
  dsimp only
  cases hx : x.hact with
  | true => simp [Ctx.systemStop]
  | false =>
    rw [if_neg (by simp), if_neg (by rcases h with h | h | h <;> simp_all)]
    rfl

end Sys2Proof.Machine
end

