-- ==== Sys2Proof/Laws/PerInstr.lean ====
section
/-! SUPPORT. The family Encoding, one lemma for each constructor of Instr: a step that no slot holds is well-formed, and the word
of a slot instruction or of a drain micro-operation has an assigned opcode of its class (04 Tables 4-9 to 4-12). -/

namespace Sys2Proof.Laws

theorem Encoding.bundleFetch (ctx : BitVec 9) : Encoding.Statement (.bundleFetch ctx) := rfl
theorem Encoding.mergeCycle (core : BitVec 7) : Encoding.Statement (.mergeCycle core) := rfl
theorem Encoding.resultWriteback (ctx : BitVec 9) : Encoding.Statement (.resultWriteback ctx) := rfl
theorem Encoding.owedTrapTaken (ctx : BitVec 9) : Encoding.Statement (.owedTrapTaken ctx) := rfl
theorem Encoding.lateMemory (core : BitVec 7) : Encoding.Statement (.lateMemory core) := rfl
theorem Encoding.add (d : BitVec 6) (a : Src) (b : Src) : Encoding.Statement (.add d a b) :=
  scalar_ok (n := 0x01) (encSR 0x01#6 d a b 0#6) (opcode_encSR ..) rfl rfl rfl
theorem Encoding.addi (d : BitVec 6) (a : Src) (imm : BitVec 13) : Encoding.Statement (.addi d a imm) :=
  scalar_ok (n := 0x02) (encSI 0x02#6 d a imm) (opcode_encSI ..) rfl rfl rfl
theorem Encoding.and (d : BitVec 6) (a : Src) (b : Src) : Encoding.Statement (.and d a b) :=
  scalar_ok (n := 0x03) (encSR 0x03#6 d a b 0#6) (opcode_encSR ..) rfl rfl rfl
theorem Encoding.andi (d : BitVec 6) (a : Src) (imm : BitVec 13) : Encoding.Statement (.andi d a imm) :=
  scalar_ok (n := 0x04) (encSI 0x04#6 d a imm) (opcode_encSI ..) rfl rfl rfl
theorem Encoding.andn (d : BitVec 6) (a : Src) (b : Src) : Encoding.Statement (.andn d a b) :=
  scalar_ok (n := 0x05) (encSR 0x05#6 d a b 0#6) (opcode_encSR ..) rfl rfl rfl
theorem Encoding.barArrive (bar : BitVec 7) (a : Src) : Encoding.Statement (.barArrive bar a) :=
  scalar_ok (n := 0x06) (encSI 0x06#6 0#6 a (bar ++ 0#2 ++ 0#4)) (opcode_encSI ..) rfl rfl rfl
theorem Encoding.barWait (bar : BitVec 7) (a : Src) : Encoding.Statement (.barWait bar a) :=
  scalar_ok (n := 0x06) (encSI 0x06#6 0#6 a (bar ++ 1#2 ++ 0#4)) (opcode_encSI ..) rfl rfl rfl
theorem Encoding.barSync (bar : BitVec 7) (a : Src) : Encoding.Statement (.barSync bar a) :=
  scalar_ok (n := 0x06) (encSI 0x06#6 0#6 a (bar ++ 2#2 ++ 0#4)) (opcode_encSI ..) rfl rfl rfl
theorem Encoding.br (a : Src) (cc : BitVec 3) (off : BitVec 16) : Encoding.Statement (.br a cc off) :=
  scalar_ok (n := 0x07) (encSB 0x07#6 a cc off) (opcode_encSB ..) rfl rfl rfl
theorem Encoding.bwaitWait (d : BitVec 6) (bar : BitVec 7) (a : Src) : Encoding.Statement (.bwaitWait d bar a) :=
  scalar_ok (n := 0x08) (encSI 0x08#6 d a (bar ++ 0#2 ++ 0#4)) (opcode_encSI ..) rfl rfl rfl
theorem Encoding.bwaitTest (d : BitVec 6) (bar : BitVec 7) (a : Src) : Encoding.Statement (.bwaitTest d bar a) :=
  scalar_ok (n := 0x08) (encSI 0x08#6 d a (bar ++ 1#2 ++ 0#4)) (opcode_encSI ..) rfl rfl rfl
theorem Encoding.call (off : BitVec 16) : Encoding.Statement (.call off) :=
  scalar_ok (n := 0x09) (encSB 0x09#6 ⟨0#6, false⟩ 6#3 off) (opcode_encSB ..) rfl rfl rfl
theorem Encoding.clz (d : BitVec 6) (a : Src) : Encoding.Statement (.clz d a) :=
  scalar_ok (n := 0x0A) (encSR 0x0A#6 d a ⟨0#6, false⟩ 0#6) (opcode_encSR ..) rfl rfl rfl
theorem Encoding.cmp (d : BitVec 6) (a : Src) (b : Src) (cond : BitVec 6) : Encoding.Statement (.cmp d a b cond) :=
  scalar_ok (n := 0x0B) (encSR 0x0B#6 d a b cond) (opcode_encSR ..) rfl rfl rfl
theorem Encoding.cmpi (d : BitVec 6) (a : Src) (imm : BitVec 10) (cond : BitVec 3) : Encoding.Statement (.cmpi d a imm cond) :=
  scalar_ok (n := 0x0C) (encSI 0x0C#6 d a (imm ++ cond)) (opcode_encSI ..) rfl rfl rfl
theorem Encoding.div (d : BitVec 6) (a : Src) (b : Src) : Encoding.Statement (.div d a b) :=
  scalar_ok (n := 0x0D) (encSR 0x0D#6 d a b 0#6) (opcode_encSR ..) rfl rfl rfl
theorem Encoding.exit : Encoding.Statement .exit :=
  scalar_ok (n := 0x0E) (encSI 0x0E#6 0#6 ⟨0#6, false⟩ 0#13) (opcode_encSI ..) rfl rfl rfl
theorem Encoding.ifenceWait : Encoding.Statement .ifenceWait :=
  scalar_ok (n := 0x0F) (encSI 0x0F#6 0#6 ⟨0#6, false⟩ 0#13) (opcode_encSI ..) rfl rfl rfl
theorem Encoding.ifenceLoad (d : BitVec 6) (a : Src) : Encoding.Statement (.ifenceLoad d a) :=
  scalar_ok (n := 0x0F) (encSI 0x0F#6 d a 1#13) (opcode_encSI ..) rfl rfl rfl
theorem Encoding.ifenceEnter (a : Src) (overlay : Bool) : Encoding.Statement (.ifenceEnter a overlay) :=
  scalar_ok (n := 0x0F) (encSI 0x0F#6 0#6 a (0#10 ++ BitVec.ofBool overlay ++ 2#2)) (opcode_encSI ..) rfl rfl rfl
theorem Encoding.jmp (d : BitVec 6) (a : Src) : Encoding.Statement (.jmp d a) :=
  scalar_ok (n := 0x10) (encSR 0x10#6 d a ⟨0#6, false⟩ 0#6) (opcode_encSR ..) rfl rfl rfl
theorem Encoding.launch (d : BitVec 6) (a : Src) (q : BitVec 6) : Encoding.Statement (.launch d a q) :=
  scalar_ok (n := 0x11) (encSI 0x11#6 d a (0#7 ++ q)) (opcode_encSI ..) rfl rfl rfl
theorem Encoding.li (d : BitVec 6) (imm : BitVec 13) : Encoding.Statement (.li d imm) :=
  scalar_ok (n := 0x12) (encSI 0x12#6 d ⟨0#6, false⟩ imm) (opcode_encSI ..) rfl rfl rfl
theorem Encoding.loop (a : Src) (cc : BitVec 3) (off : BitVec 16) : Encoding.Statement (.loop a cc off) :=
  scalar_ok (n := 0x13) (encSB 0x13#6 a cc off) (opcode_encSB ..) rfl rfl rfl
theorem Encoding.max (d : BitVec 6) (a : Src) (b : Src) : Encoding.Statement (.max d a b) :=
  scalar_ok (n := 0x14) (encSR 0x14#6 d a b 0#6) (opcode_encSR ..) rfl rfl rfl
theorem Encoding.mfsr (d : BitVec 6) (r : BitVec 6) : Encoding.Statement (.mfsr d r) :=
  scalar_ok (n := 0x15) (encSI 0x15#6 d ⟨0#6, false⟩ (0#7 ++ r)) (opcode_encSI ..) rfl rfl rfl
theorem Encoding.min (d : BitVec 6) (a : Src) (b : Src) : Encoding.Statement (.min d a b) :=
  scalar_ok (n := 0x16) (encSR 0x16#6 d a b 0#6) (opcode_encSR ..) rfl rfl rfl
theorem Encoding.mov (d : BitVec 6) (a : Src) : Encoding.Statement (.mov d a) :=
  scalar_ok (n := 0x17) (encSR 0x17#6 d a ⟨0#6, false⟩ 0#6) (opcode_encSR ..) rfl rfl rfl
theorem Encoding.mtsr (r : BitVec 6) (a : Src) : Encoding.Statement (.mtsr r a) :=
  scalar_ok (n := 0x18) (encSI 0x18#6 0#6 a (0#7 ++ r)) (opcode_encSI ..) rfl rfl rfl
theorem Encoding.mul (d : BitVec 6) (a : Src) (b : Src) : Encoding.Statement (.mul d a b) :=
  scalar_ok (n := 0x19) (encSR 0x19#6 d a b 0#6) (opcode_encSR ..) rfl rfl rfl
theorem Encoding.mulh (d : BitVec 6) (a : Src) (b : Src) : Encoding.Statement (.mulh d a b) :=
  scalar_ok (n := 0x1A) (encSR 0x1A#6 d a b 0#6) (opcode_encSR ..) rfl rfl rfl
theorem Encoding.or (d : BitVec 6) (a : Src) (b : Src) : Encoding.Statement (.or d a b) :=
  scalar_ok (n := 0x1B) (encSR 0x1B#6 d a b 0#6) (opcode_encSR ..) rfl rfl rfl
theorem Encoding.ori (d : BitVec 6) (a : Src) (imm : BitVec 13) : Encoding.Statement (.ori d a imm) :=
  scalar_ok (n := 0x1C) (encSI 0x1C#6 d a imm) (opcode_encSI ..) rfl rfl rfl
theorem Encoding.popc (d : BitVec 6) (a : Src) : Encoding.Statement (.popc d a) :=
  scalar_ok (n := 0x1D) (encSR 0x1D#6 d a ⟨0#6, false⟩ 0#6) (opcode_encSR ..) rfl rfl rfl
theorem Encoding.ret (a : Src) : Encoding.Statement (.ret a) :=
  scalar_ok (n := 0x1E) (encSI 0x1E#6 0#6 a 0#13) (opcode_encSI ..) rfl rfl rfl
theorem Encoding.rtt : Encoding.Statement .rtt :=
  scalar_ok (n := 0x1F) (encSI 0x1F#6 0#6 ⟨0#6, false⟩ 0#13) (opcode_encSI ..) rfl rfl rfl
theorem Encoding.sar (d : BitVec 6) (a : Src) (b : Src) : Encoding.Statement (.sar d a b) :=
  scalar_ok (n := 0x20) (encSR 0x20#6 d a b 0#6) (opcode_encSR ..) rfl rfl rfl
theorem Encoding.sarImm (d : BitVec 6) (a : Src) (c : BitVec 6) : Encoding.Statement (.sarImm d a c) :=
  scalar_ok (n := 0x20) (encSR 0x20#6 d a ⟨c, false⟩ 1#6) (opcode_encSR ..) rfl rfl rfl
theorem Encoding.sel (d : BitVec 6) (a : Src) (b : Src) (c : BitVec 6) : Encoding.Statement (.sel d a b c) :=
  scalar_ok (n := 0x21) (encSR 0x21#6 d a b c) (opcode_encSR ..) rfl rfl rfl
theorem Encoding.settle (scope : BitVec 4) (kind : BitVec 2) (domains : BitVec 7) : Encoding.Statement (.settle scope kind domains) :=
  scalar_ok (n := 0x22) (encSI 0x22#6 0#6 ⟨0#6, false⟩ (scope ++ kind ++ domains)) (opcode_encSI ..) rfl rfl rfl
theorem Encoding.shl (d : BitVec 6) (a : Src) (b : Src) : Encoding.Statement (.shl d a b) :=
  scalar_ok (n := 0x23) (encSR 0x23#6 d a b 0#6) (opcode_encSR ..) rfl rfl rfl
theorem Encoding.shlImm (d : BitVec 6) (a : Src) (c : BitVec 6) : Encoding.Statement (.shlImm d a c) :=
  scalar_ok (n := 0x23) (encSR 0x23#6 d a ⟨c, false⟩ 1#6) (opcode_encSR ..) rfl rfl rfl
theorem Encoding.shr (d : BitVec 6) (a : Src) (b : Src) : Encoding.Statement (.shr d a b) :=
  scalar_ok (n := 0x24) (encSR 0x24#6 d a b 0#6) (opcode_encSR ..) rfl rfl rfl
theorem Encoding.shrImm (d : BitVec 6) (a : Src) (c : BitVec 6) : Encoding.Statement (.shrImm d a c) :=
  scalar_ok (n := 0x24) (encSR 0x24#6 d a ⟨c, false⟩ 1#6) (opcode_encSR ..) rfl rfl rfl
theorem Encoding.sub (d : BitVec 6) (a : Src) (b : Src) : Encoding.Statement (.sub d a b) :=
  scalar_ok (n := 0x25) (encSR 0x25#6 d a b 0#6) (opcode_encSR ..) rfl rfl rfl
theorem Encoding.trap (imm : BitVec 13) : Encoding.Statement (.trap imm) :=
  scalar_ok (n := 0x26) (encSI 0x26#6 0#6 ⟨0#6, false⟩ imm) (opcode_encSI ..) rfl rfl rfl
theorem Encoding.trigger : Encoding.Statement .trigger :=
  scalar_ok (n := 0x27) (encSI 0x27#6 0#6 ⟨0#6, false⟩ 0#13) (opcode_encSI ..) rfl rfl rfl
theorem Encoding.ttnext (d : BitVec 6) : Encoding.Statement (.ttnext d) :=
  scalar_ok (n := 0x28) (encSI 0x28#6 d ⟨0#6, false⟩ 0#13) (opcode_encSI ..) rfl rfl rfl
theorem Encoding.xor (d : BitVec 6) (a : Src) (b : Src) : Encoding.Statement (.xor d a b) :=
  scalar_ok (n := 0x29) (encSR 0x29#6 d a b 0#6) (opcode_encSR ..) rfl rfl rfl
theorem Encoding.xori (d : BitVec 6) (a : Src) (imm : BitVec 13) : Encoding.Statement (.xori d a imm) :=
  scalar_ok (n := 0x2A) (encSI 0x2A#6 d a imm) (opcode_encSI ..) rfl rfl rfl
theorem Encoding.vabs (o : VR) : Encoding.Statement (.vabs o) :=
  wide_ok .vector (n := 0x01) (encVR 0x01#8 o) (opcode_encVR ..) rfl (by decide) rfl rfl
theorem Encoding.vadd (o : VR) : Encoding.Statement (.vadd o) :=
  wide_ok .vector (n := 0x02) (encVR 0x02#8 o) (opcode_encVR ..) rfl (by decide) rfl rfl
theorem Encoding.vand (o : VR) : Encoding.Statement (.vand o) :=
  wide_ok .vector (n := 0x03) (encVR 0x03#8 o) (opcode_encVR ..) rfl (by decide) rfl rfl
theorem Encoding.vclz (o : VR) : Encoding.Statement (.vclz o) :=
  wide_ok .vector (n := 0x04) (encVR 0x04#8 o) (opcode_encVR ..) rfl (by decide) rfl rfl
theorem Encoding.vcmp (o : VR) : Encoding.Statement (.vcmp o) :=
  wide_ok .vector (n := 0x05) (encVR 0x05#8 o) (opcode_encVR ..) rfl (by decide) rfl rfl
theorem Encoding.vcvt (o : VCvt) : Encoding.Statement (.vcvt o) :=
  wide_ok .vector (n := 0x06) (0x06#8 ++ o.vd ++ o.va ++ BitVec.ofBool o.pa ++ o.msk ++ o.sf ++ o.df ++ o.rm ++ BitVec.ofBool o.zi ++ BitVec.ofBool o.zo ++ BitVec.ofBool o.sat ++ o.part) (by simp (disch := decide) only [shift_append]; rfl) rfl (by decide) rfl rfl
theorem Encoding.vdiv (o : VR) : Encoding.Statement (.vdiv o) :=
  wide_ok .vector (n := 0x07) (encVR 0x07#8 o) (opcode_encVR ..) rfl (by decide) rfl rfl
theorem Encoding.vexp2 (o : VR) : Encoding.Statement (.vexp2 o) :=
  wide_ok .vector (n := 0x08) (encVR 0x08#8 o) (opcode_encVR ..) rfl (by decide) rfl rfl
theorem Encoding.vext (d : BitVec 6) (va : BitVec 5) (pa : Bool) (ln : BitVec 6) (ty : BitVec 4) (bp : Bool) : Encoding.Statement (.vext d va pa ln ty bp) :=
  wide_ok .vector (n := 0x09) (0x09#8 ++ d ++ va ++ BitVec.ofBool pa ++ ln ++ 0#9 ++ ty ++ 0#6 ++ (0#1 ++ BitVec.ofBool bp) ++ 0#1) (by simp (disch := decide) only [shift_append]; rfl) rfl (by decide) rfl rfl
theorem Encoding.vfma (o : VR) : Encoding.Statement (.vfma o) :=
  wide_ok .vector (n := 0x0A) (encVR 0x0A#8 o) (opcode_encVR ..) rfl (by decide) rfl rfl
theorem Encoding.vidx (o : VR) : Encoding.Statement (.vidx o) :=
  wide_ok .vector (n := 0x0B) (encVR 0x0B#8 o) (opcode_encVR ..) rfl (by decide) rfl rfl
theorem Encoding.vlog2 (o : VR) : Encoding.Statement (.vlog2 o) :=
  wide_ok .vector (n := 0x0C) (encVR 0x0C#8 o) (opcode_encVR ..) rfl (by decide) rfl rfl
theorem Encoding.vmask (d : BitVec 6) (mx : BitVec 4) : Encoding.Statement (.vmask d mx) :=
  wide_ok .vector (n := 0x0D) (0x0D#8 ++ d ++ mx ++ 0#30) (by simp (disch := decide) only [shift_append]; rfl) rfl (by decide) rfl rfl
theorem Encoding.vmaskWrite (mx : BitVec 4) : Encoding.Statement (.vmaskWrite mx) :=
  wide_ok .vector (n := 0x0D) (0x0D#8 ++ 0#6 ++ mx ++ 1#1 ++ 0#26 ++ 1#2 ++ 0#1) (by simp (disch := decide) only [shift_append]; rfl) rfl (by decide) rfl rfl
theorem Encoding.vmax (o : VR) : Encoding.Statement (.vmax o) :=
  wide_ok .vector (n := 0x0E) (encVR 0x0E#8 o) (opcode_encVR ..) rfl (by decide) rfl rfl
theorem Encoding.vmin (o : VR) : Encoding.Statement (.vmin o) :=
  wide_ok .vector (n := 0x0F) (encVR 0x0F#8 o) (opcode_encVR ..) rfl (by decide) rfl rfl
theorem Encoding.vmov (o : VR) : Encoding.Statement (.vmov o) :=
  wide_ok .vector (n := 0x10) (encVR 0x10#8 o) (opcode_encVR ..) rfl (by decide) rfl rfl
theorem Encoding.vmul (o : VR) : Encoding.Statement (.vmul o) :=
  wide_ok .vector (n := 0x11) (encVR 0x11#8 o) (opcode_encVR ..) rfl (by decide) rfl rfl
theorem Encoding.vneg (o : VR) : Encoding.Statement (.vneg o) :=
  wide_ok .vector (n := 0x12) (encVR 0x12#8 o) (opcode_encVR ..) rfl (by decide) rfl rfl
theorem Encoding.vnot (o : VR) : Encoding.Statement (.vnot o) :=
  wide_ok .vector (n := 0x13) (encVR 0x13#8 o) (opcode_encVR ..) rfl (by decide) rfl rfl
theorem Encoding.vor (o : VR) : Encoding.Statement (.vor o) :=
  wide_ok .vector (n := 0x14) (encVR 0x14#8 o) (opcode_encVR ..) rfl (by decide) rfl rfl
theorem Encoding.vord (o : VR) : Encoding.Statement (.vord o) :=
  wide_ok .vector (n := 0x15) (encVR 0x15#8 o) (opcode_encVR ..) rfl (by decide) rfl rfl
theorem Encoding.vperm (o : VR) : Encoding.Statement (.vperm o) :=
  wide_ok .vector (n := 0x16) (encVR 0x16#8 o) (opcode_encVR ..) rfl (by decide) rfl rfl
theorem Encoding.vpop (vd : BitVec 5) (q : BitVec 3) (qp : Bool) (mk : BitVec 4) : Encoding.Statement (.vpop vd q qp mk) :=
  wide_ok .vector (n := 0x17) (0x17#8 ++ vd ++ q ++ BitVec.ofBool qp ++ 0#14 ++ mk ++ 0#13) (by simp (disch := decide) only [shift_append]; rfl) rfl (by decide) rfl rfl
theorem Encoding.vredadd (o : VR) : Encoding.Statement (.vredadd o) :=
  wide_ok .vector (n := 0x18) (encVR 0x18#8 o) (opcode_encVR ..) rfl (by decide) rfl rfl
theorem Encoding.vredmax (o : VR) : Encoding.Statement (.vredmax o) :=
  wide_ok .vector (n := 0x19) (encVR 0x19#8 o) (opcode_encVR ..) rfl (by decide) rfl rfl
theorem Encoding.vredmin (o : VR) : Encoding.Statement (.vredmin o) :=
  wide_ok .vector (n := 0x1A) (encVR 0x1A#8 o) (opcode_encVR ..) rfl (by decide) rfl rfl
theorem Encoding.vrng (vd : BitVec 5) (va : BitVec 5) (pa : Bool) (mk : BitVec 4) : Encoding.Statement (.vrng vd va pa mk) :=
  wide_ok .vector (n := 0x1B) (0x1B#8 ++ vd ++ va ++ BitVec.ofBool pa ++ 0#12 ++ mk ++ 2#4 ++ 0#6 ++ 2#2 ++ 0#1) (by simp (disch := decide) only [shift_append]; rfl) rfl (by decide) rfl rfl
theorem Encoding.vsar (o : VR) : Encoding.Statement (.vsar o) :=
  wide_ok .vector (n := 0x1C) (encVR 0x1C#8 o) (opcode_encVR ..) rfl (by decide) rfl rfl
theorem Encoding.vscan (o : VR) : Encoding.Statement (.vscan o) :=
  wide_ok .vector (n := 0x1D) (encVR 0x1D#8 o) (opcode_encVR ..) rfl (by decide) rfl rfl
theorem Encoding.vsel (o : VR) : Encoding.Statement (.vsel o) :=
  wide_ok .vector (n := 0x1E) (encVR 0x1E#8 o) (opcode_encVR ..) rfl (by decide) rfl rfl
theorem Encoding.vshl (o : VR) : Encoding.Statement (.vshl o) :=
  wide_ok .vector (n := 0x1F) (encVR 0x1F#8 o) (opcode_encVR ..) rfl (by decide) rfl rfl
theorem Encoding.vshr (o : VR) : Encoding.Statement (.vshr o) :=
  wide_ok .vector (n := 0x20) (encVR 0x20#8 o) (opcode_encVR ..) rfl (by decide) rfl rfl
theorem Encoding.vsqrt (o : VR) : Encoding.Statement (.vsqrt o) :=
  wide_ok .vector (n := 0x21) (encVR 0x21#8 o) (opcode_encVR ..) rfl (by decide) rfl rfl
theorem Encoding.vsub (o : VR) : Encoding.Statement (.vsub o) :=
  wide_ok .vector (n := 0x22) (encVR 0x22#8 o) (opcode_encVR ..) rfl (by decide) rfl rfl
theorem Encoding.vxor (o : VR) : Encoding.Statement (.vxor o) :=
  wide_ok .vector (n := 0x23) (encVR 0x23#8 o) (opcode_encVR ..) rfl (by decide) rfl rfl
theorem Encoding.xmov (o : VR) : Encoding.Statement (.xmov o) :=
  wide_ok .vector (n := 0x24) (encVR 0x24#8 o) (opcode_encVR ..) rfl (by decide) rfl rfl
theorem Encoding.fill (o : FillF) : Encoding.Statement (.fill o) :=
  wide_ok .l (n := 0x01) (0x01#8 ++ o.a.bits ++ o.b.bits ++ o.c.bits ++ o.mode ++ BitVec.ofBool o.bps ++ 0#16) (by simp (disch := decide) only [shift_append]; rfl) rfl (by decide) rfl rfl
theorem Encoding.sld (d : BitVec 6) (a : Src) (ty : BitVec 3) (off : BitVec 16) : Encoding.Statement (.sld d a ty off) :=
  wide_ok .l (n := 0x02) (0x02#8 ++ d ++ 0#1 ++ a.bits ++ ty ++ off ++ 0#7) (by simp (disch := decide) only [shift_append]; rfl) rfl (by decide) rfl rfl
theorem Encoding.sst (v : Src) (a : Src) (ty : BitVec 3) (off : BitVec 16) : Encoding.Statement (.sst v a ty off) :=
  wide_ok .l (n := 0x03) (0x03#8 ++ v.bits ++ a.bits ++ ty ++ off ++ 0#7) (by simp (disch := decide) only [shift_append]; rfl) rfl (by decide) rfl rfl
theorem Encoding.taglu (d : BitVec 6) (a : Src) : Encoding.Statement (.taglu d a) :=
  wide_ok .l (n := 0x04) (0x04#8 ++ d ++ 0#1 ++ a.bits ++ 0#26) (by simp (disch := decide) only [shift_append]; rfl) rfl (by decide) rfl rfl
theorem Encoding.tagset (a : Src) (b : Src) : Encoding.Statement (.tagset a b) :=
  wide_ok .l (n := 0x05) (0x05#8 ++ a.bits ++ b.bits ++ 0#26) (by simp (disch := decide) only [shift_append]; rfl) rfl (by decide) rfl rfl
theorem Encoding.vld (vr : BitVec 6) (a : Src) (mode : BitVec 2) : Encoding.Statement (.vld vr a mode) :=
  wide_ok .l (n := 0x06) (0x06#8 ++ vr ++ 0#1 ++ a.bits ++ mode ++ 0#24) (by simp (disch := decide) only [shift_append]; rfl) rfl (by decide) rfl rfl
theorem Encoding.vldx (vr : BitVec 6) (vi : VSrc) (a : Src) (mx : BitVec 4) : Encoding.Statement (.vldx vr vi a mx) :=
  wide_ok .l (n := 0x07) (0x07#8 ++ vr ++ 0#1 ++ vi.bits ++ a.bits ++ mx ++ 0#15) (by simp (disch := decide) only [shift_append]; rfl) rfl (by decide) rfl rfl
theorem Encoding.vst (v : VSrc) (a : Src) (mode : BitVec 2) : Encoding.Statement (.vst v a mode) :=
  wide_ok .l (n := 0x08) (0x08#8 ++ v.bits ++ a.bits ++ mode ++ 0#24) (by simp (disch := decide) only [shift_append]; rfl) rfl (by decide) rfl rfl
theorem Encoding.vstq (q : BitVec 3) (a : Src) (qp : Bool) : Encoding.Statement (.vstq q a qp) :=
  wide_ok .l (n := 0x09) (0x09#8 ++ q ++ a.bits ++ BitVec.ofBool qp ++ 0#29) (by simp (disch := decide) only [shift_append]; rfl) rfl (by decide) rfl rfl
theorem Encoding.vstx (v : VSrc) (vi : VSrc) (a : Src) (mx : BitVec 4) : Encoding.Statement (.vstx v vi a mx) :=
  wide_ok .l (n := 0x0A) (0x0A#8 ++ v.bits ++ vi.bits ++ a.bits ++ mx ++ 0#15) (by simp (disch := decide) only [shift_append]; rfl) rfl (by decide) rfl rfl
theorem Encoding.xform (c : Src) (s : Src) (d : Src) (n : Src) : Encoding.Statement (.xform c s d n) :=
  wide_ok .l (n := 0x0B) (0x0B#8 ++ c.bits ++ s.bits ++ d.bits ++ n.bits ++ 0#12) (by simp (disch := decide) only [shift_append]; rfl) rfl (by decide) rfl rfl
theorem Encoding.dpload (a : Src) (prog : BitVec 6) (part : BitVec 2) : Encoding.Statement (.dpload a prog part) :=
  wide_ok .m (n := 0x01) (0x01#8 ++ a.bits ++ 0#14 ++ prog ++ 0#11 ++ part) (by simp (disch := decide) only [shift_append]; rfl) rfl (by decide) rfl rfl
theorem Encoding.mcfg (a : Src) : Encoding.Statement (.mcfg a) :=
  wide_ok .m (n := 0x02) (0x02#8 ++ a.bits ++ 0#33) (by simp (disch := decide) only [shift_append]; rfl) rfl (by decide) rfl rfl
theorem Encoding.mldb (head : BitVec 4) (lur : Bool) : Encoding.Statement (.mldb head lur) :=
  wide_ok .m (n := 0x03) (0x03#8 ++ head ++ 0#35 ++ BitVec.ofBool lur) (by simp (disch := decide) only [shift_append]; rfl) rfl (by decide) rfl rfl
theorem Encoding.mldh (a : Src) : Encoding.Statement (.mldh a) :=
  wide_ok .m (n := 0x04) (0x04#8 ++ a.bits ++ 0#33) (by simp (disch := decide) only [shift_append]; rfl) rfl (by decide) rfl rfl
theorem Encoding.mmac (o : MmacF) : Encoding.Statement (.mmac o) :=
  wide_ok .m (n := 0x05) (0x05#8 ++ BitVec.ofBool o.aset ++ BitVec.ofBool o.first ++ BitVec.ofBool o.last ++ o.rows ++ o.abase ++ o.ascale ++ o.dprog ++ o.rq ++ BitVec.ofBool o.strict ++ 0#9) (by simp (disch := decide) only [shift_append]; rfl) rfl (by decide) rfl rfl
theorem Encoding.mret (aset : Bool) (dprog : BitVec 6) (rq : BitVec 3) : Encoding.Statement (.mret aset dprog rq) :=
  wide_ok .m (n := 0x06) (0x06#8 ++ BitVec.ofBool aset ++ 0#20 ++ dprog ++ rq ++ 0#10) (by simp (disch := decide) only [shift_append]; rfl) rfl (by decide) rfl rfl
theorem Encoding.mspc (a : Src) : Encoding.Statement (.mspc a) :=
  wide_ok .m (n := 0x07) (0x07#8 ++ a.bits ++ 0#33) (by simp (disch := decide) only [shift_append]; rfl) rfl (by decide) rfl rfl
theorem Encoding.mswap : Encoding.Statement .mswap :=
  wide_ok .m (n := 0x08) (0x08#8 ++ 0#40) rfl rfl (by decide) rfl rfl
theorem Encoding.atom (o : AtomF) : Encoding.Statement (.atom o) :=
  wide_ok .h (n := 0x01) (0x01#8 ++ o.aop ++ o.sd ++ o.a.bits ++ o.b.bits ++ o.c.bits ++ BitVec.ofBool o.sz ++ o.ord ++ o.scope ++ BitVec.ofBool o.log ++ 0#1) (by simp (disch := decide) only [shift_append]; rfl) rfl (by decide) rfl rfl
theorem Encoding.coll (o : CollF) : Encoding.Statement (.coll o) :=
  wide_ok .h (n := 0x02) (0x02#8 ++ o.group ++ o.a.bits ++ o.b.bits ++ o.c.bits ++ o.op ++ o.ty ++ 0#6) (by simp (disch := decide) only [shift_append]; rfl) rfl (by decide) rfl rfl
theorem Encoding.hback (head : BitVec 4) (n : Src) : Encoding.Statement (.hback head n) :=
  wide_ok .h (n := 0x03) (encHead 0x03#8 head ⟨0#6, false⟩ n ⟨0#6, false⟩ 0#15) (opcode_encHead ..) rfl (by decide) rfl rfl
theorem Encoding.hclose (head : BitVec 4) : Encoding.Statement (.hclose head) :=
  wide_ok .h (n := 0x04) (encHead 0x04#8 head ⟨0#6, false⟩ ⟨0#6, false⟩ ⟨0#6, false⟩ 0#15) (opcode_encHead ..) rfl (by decide) rfl rfl
theorem Encoding.hmark (head : BitVec 4) (mark : Bool) : Encoding.Statement (.hmark head mark) :=
  wide_ok .h (n := 0x05) (encHead 0x05#8 head ⟨0#6, false⟩ ⟨0#6, false⟩ ⟨0#6, false⟩ (0#14 ++ BitVec.ofBool mark)) (opcode_encHead ..) rfl (by decide) rfl rfl
theorem Encoding.hopen (head : BitVec 4) (desc : Src) (pos : Src) (mode : BitVec 2) : Encoding.Statement (.hopen head desc pos mode) :=
  wide_ok .h (n := 0x06) (encHead 0x06#8 head desc pos ⟨0#6, false⟩ (0#13 ++ mode)) (opcode_encHead ..) rfl (by decide) rfl rfl
theorem Encoding.hpos (head : BitVec 4) (d : BitVec 6) : Encoding.Statement (.hpos head d) :=
  wide_ok .h (n := 0x07) (encHead 0x07#8 head ⟨d, false⟩ ⟨0#6, false⟩ ⟨0#6, false⟩ 0#15) (opcode_encHead ..) rfl (by decide) rfl rfl
theorem Encoding.hread (head : BitVec 4) (dst : Src) (n : Src) (tb : Src) (fmt : BitVec 8) (bk : Bool) (raw : Bool) (sat : Bool) (lur : Bool) : Encoding.Statement (.hread head dst n tb fmt bk raw sat lur) :=
  wide_ok .h (n := 0x08) (encHead 0x08#8 head dst n tb (0#3 ++ BitVec.ofBool lur ++ BitVec.ofBool sat ++ BitVec.ofBool raw ++ BitVec.ofBool bk ++ fmt)) (opcode_encHead ..) rfl (by decide) rfl rfl
theorem Encoding.hrewind (head : BitVec 4) (mark : Bool) : Encoding.Statement (.hrewind head mark) :=
  wide_ok .h (n := 0x09) (encHead 0x09#8 head ⟨0#6, false⟩ ⟨0#6, false⟩ ⟨0#6, false⟩ (0#14 ++ BitVec.ofBool mark)) (opcode_encHead ..) rfl (by decide) rfl rfl
theorem Encoding.hskip (head : BitVec 4) (n : Src) : Encoding.Statement (.hskip head n) :=
  wide_ok .h (n := 0x0A) (encHead 0x0A#8 head ⟨0#6, false⟩ n ⟨0#6, false⟩ 0#15) (opcode_encHead ..) rfl (by decide) rfl rfl
theorem Encoding.hwrite (head : BitVec 4) (src : Src) (n : Src) (tag : Src) (fmt : BitVec 8) (bk : Bool) (mode : BitVec 2) (lur : Bool) (sat : Bool) : Encoding.Statement (.hwrite head src n tag fmt bk mode lur sat) :=
  wide_ok .h (n := 0x0B) (encHead 0x0B#8 head src n tag (0#2 ++ BitVec.ofBool sat ++ BitVec.ofBool lur ++ mode ++ BitVec.ofBool bk ++ fmt)) (opcode_encHead ..) rfl (by decide) rfl rfl
theorem Encoding.qsend (q : BitVec 3) (a : Src) (o : Src) (qp : Bool) : Encoding.Statement (.qsend q a o qp) :=
  wide_ok .h (n := 0x0C) (0x0C#8 ++ q ++ a.bits ++ o.bits ++ BitVec.ofBool qp ++ 0#22) (by simp (disch := decide) only [shift_append]; rfl) rfl (by decide) rfl rfl
theorem Encoding.tbarrive (a : Src) : Encoding.Statement (.tbarrive a) :=
  wide_ok .h (n := 0x0D) (0x0D#8 ++ a.bits ++ 0#33) (by simp (disch := decide) only [shift_append]; rfl) rfl (by decide) rfl rfl
theorem Encoding.tbexpect (a : Src) (n : Src) : Encoding.Statement (.tbexpect a n) :=
  wide_ok .h (n := 0x0E) (0x0E#8 ++ a.bits ++ n.bits ++ 0#26) (by simp (disch := decide) only [shift_append]; rfl) rfl (by decide) rfl rfl
theorem Encoding.tbinit (a : Src) (n : Src) : Encoding.Statement (.tbinit a n) :=
  wide_ok .h (n := 0x0F) (0x0F#8 ++ a.bits ++ n.bits ++ 0#26) (by simp (disch := decide) only [shift_append]; rfl) rfl (by decide) rfl rfl
theorem Encoding.tbwait (a : Src) (g : Src) : Encoding.Statement (.tbwait a g) :=
  wide_ok .h (n := 0x10) (0x10#8 ++ a.bits ++ g.bits ++ 0#26) (by simp (disch := decide) only [shift_append]; rfl) rfl (by decide) rfl rfl
theorem Encoding.xfer (o : XferF) : Encoding.Statement (.xfer o) :=
  wide_ok .h (n := 0x11) (0x11#8 ++ BitVec.ofBool o.out ++ o.a.bits ++ o.b.bits ++ o.c.bits ++ o.e.bits ++ BitVec.ofBool o.arr ++ BitVec.ofBool o.lur ++ o.cv ++ 0#7) (by simp (disch := decide) only [shift_append]; rfl) rfl (by decide) rfl rfl
theorem Encoding.dadd (o : DrainF) : Encoding.Statement (.dadd o) :=
  drain_ok (n := 0x1) (encD 0x1#4 o) (opcode_encD ..) rfl rfl rfl
theorem Encoding.dcvt (o : DrainF) : Encoding.Statement (.dcvt o) :=
  drain_ok (n := 0x2) (encD 0x2#4 o) (opcode_encD ..) rfl rfl rfl
theorem Encoding.dend : Encoding.Statement .dend :=
  drain_ok (n := 3) (0x300000#24) rfl rfl rfl rfl
theorem Encoding.dexp2 (o : DrainF) : Encoding.Statement (.dexp2 o) :=
  drain_ok (n := 0x4) (encD 0x4#4 o) (opcode_encD ..) rfl rfl rfl
theorem Encoding.dfma (o : DrainF) : Encoding.Statement (.dfma o) :=
  drain_ok (n := 0x5) (encD 0x5#4 o) (opcode_encD ..) rfl rfl rfl
theorem Encoding.dmax (o : DrainF) : Encoding.Statement (.dmax o) :=
  drain_ok (n := 0x6) (encD 0x6#4 o) (opcode_encD ..) rfl rfl rfl
theorem Encoding.dmin (o : DrainF) : Encoding.Statement (.dmin o) :=
  drain_ok (n := 0x7) (encD 0x7#4 o) (opcode_encD ..) rfl rfl rfl
theorem Encoding.dmul (o : DrainF) : Encoding.Statement (.dmul o) :=
  drain_ok (n := 0x8) (encD 0x8#4 o) (opcode_encD ..) rfl rfl rfl
theorem Encoding.dpush (a : BitVec 4) (sz : BitVec 2) : Encoding.Statement (.dpush a sz) :=
  drain_ok (n := 0x9) (encD 0x9#4 ⟨0#3, a, 0#4, 0#5, 0#2 ++ sz⟩) (opcode_encD ..) rfl rfl rfl
theorem Encoding.dqnt (o : DrainF) : Encoding.Statement (.dqnt o) :=
  drain_ok (n := 0xA) (encD 0xA#4 o) (opcode_encD ..) rfl rfl rfl
theorem Encoding.drcp (o : DrainF) : Encoding.Statement (.drcp o) :=
  drain_ok (n := 0xB) (encD 0xB#4 o) (opcode_encD ..) rfl rfl rfl
theorem Encoding.dsto (a : BitVec 4) (k : BitVec 5) (skew : Bool) (sz : BitVec 2) : Encoding.Statement (.dsto a k skew sz) :=
  drain_ok (n := 0xC) (encD 0xC#4 ⟨0#3, a, 0#4, k, 0#1 ++ BitVec.ofBool skew ++ sz⟩) (opcode_encD ..) rfl rfl rfl
theorem Encoding.dploadImageCheck (op : Nat) : Encoding.Statement (.dploadImageCheck op) := rfl
theorem Encoding.headDescriptorRead (op : Nat) : Encoding.Statement (.headDescriptorRead op) := rfl
theorem Encoding.ecountReread (core : BitVec 7) (head : BitVec 4) : Encoding.Statement (.ecountReread core head) := rfl
theorem Encoding.headBlockFetch (core : BitVec 7) (head : BitVec 4) : Encoding.Statement (.headBlockFetch core head) := rfl
theorem Encoding.headDelivery (op : Nat) : Encoding.Statement (.headDelivery op) := rfl
theorem Encoding.headWritePerform (op : Nat) : Encoding.Statement (.headWritePerform op) := rfl
theorem Encoding.hposComplete (op : Nat) : Encoding.Statement (.hposComplete op) := rfl
theorem Encoding.headCloseComplete (op : Nat) : Encoding.Statement (.headCloseComplete op) := rfl
theorem Encoding.xferGranule (op : Nat) : Encoding.Statement (.xferGranule op) := rfl
theorem Encoding.xferComplete (op : Nat) : Encoding.Statement (.xferComplete op) := rfl
theorem Encoding.tbCredit (op : Nat) : Encoding.Statement (.tbCredit op) := rfl
theorem Encoding.tbarrivePerform (op : Nat) : Encoding.Statement (.tbarrivePerform op) := rfl
theorem Encoding.tbexpectPerform (op : Nat) : Encoding.Statement (.tbexpectPerform op) := rfl
theorem Encoding.qsendWrite (op : Nat) : Encoding.Statement (.qsendWrite op) := rfl
theorem Encoding.remoteAccessPerform (op : Nat) : Encoding.Statement (.remoteAccessPerform op) := rfl
theorem Encoding.atomPerform (op : Nat) : Encoding.Statement (.atomPerform op) := rfl
theorem Encoding.xformComplete (op : Nat) : Encoding.Statement (.xformComplete op) := rfl
theorem Encoding.settleComplete (op : Nat) : Encoding.Statement (.settleComplete op) := rfl
theorem Encoding.triggerRelease (op : Nat) : Encoding.Statement (.triggerRelease op) := rfl
theorem Encoding.launchPacketWrite (op : Nat) : Encoding.Statement (.launchPacketWrite op) := rfl
theorem Encoding.ttnextReply (op : Nat) : Encoding.Statement (.ttnextReply op) := rfl
theorem Encoding.barrierPhaseComplete (core : BitVec 7) (bar : BitVec 7) : Encoding.Statement (.barrierPhaseComplete core bar) := rfl
theorem Encoding.mldbComplete (op : Nat) : Encoding.Statement (.mldbComplete op) := rfl
theorem Encoding.mldhComplete (op : Nat) : Encoding.Statement (.mldhComplete op) := rfl
theorem Encoding.mmacRowFetch (op : Nat) : Encoding.Statement (.mmacRowFetch op) := rfl
theorem Encoding.mmacLastWrite (op : Nat) : Encoding.Statement (.mmacLastWrite op) := rfl
theorem Encoding.mmacDropped (op : Nat) : Encoding.Statement (.mmacDropped op) := rfl
theorem Encoding.forcedRetirement (core : BitVec 7) (set : Bool) : Encoding.Statement (.forcedRetirement core set) := rfl
theorem Encoding.drainUnit (op : Nat) : Encoding.Statement (.drainUnit op) := rfl
theorem Encoding.drainQueueTimeout (op : Nat) : Encoding.Statement (.drainQueueTimeout op) := rfl
theorem Encoding.drainComplete (op : Nat) : Encoding.Statement (.drainComplete op) := rfl
theorem Encoding.slabFailure (core : BitVec 7) (floor : BitVec 2) : Encoding.Statement (.slabFailure core floor) := rfl
theorem Encoding.floorThrottle (tower : Bool) (floor : BitVec 2) (power : Bool) : Encoding.Statement (.floorThrottle tower floor power) := rfl
theorem Encoding.thermalShutdown : Encoding.Statement .thermalShutdown := rfl
theorem Encoding.preempt (seq : Nat) (strand : Nat) : Encoding.Statement (.preempt seq strand) := rfl
theorem Encoding.strandSave (ctx : BitVec 9) : Encoding.Statement (.strandSave ctx) := rfl
theorem Encoding.strandRestore (seq : Nat) (strand : Nat) : Encoding.Statement (.strandRestore seq strand) := rfl
theorem Encoding.pendingResultToSlot (op : Nat) : Encoding.Statement (.pendingResultToSlot op) := rfl
theorem Encoding.stateMachineCheck (ctx : BitVec 9) : Encoding.Statement (.stateMachineCheck ctx) := rfl
theorem Encoding.jobAdmission : Encoding.Statement .jobAdmission := rfl
theorem Encoding.strandPlacement : Encoding.Statement .strandPlacement := rfl
theorem Encoding.jobStart (seq : Nat) : Encoding.Statement (.jobStart seq) := rfl
theorem Encoding.jobCompletion (seq : Nat) : Encoding.Statement (.jobCompletion seq) := rfl
theorem Encoding.jobRerun (seq : Nat) : Encoding.Statement (.jobRerun seq) := rfl
theorem Encoding.memoryRequest (r : MemReq) : Encoding.Statement (.memoryRequest r) := rfl
theorem Encoding.migrationFlip (frame : BitVec 27) (accepted : Bool) : Encoding.Statement (.migrationFlip frame accepted) := rfl
theorem Encoding.attendanceIntervalEnd : Encoding.Statement .attendanceIntervalEnd := rfl
theorem Encoding.sqwr (fn : BitVec 6) (queue : BitVec 9) (value : BitVec 16) : Encoding.Statement (.sqwr fn queue value) := rfl
theorem Encoding.cqrd (fn : BitVec 6) (queue : BitVec 9) (value : BitVec 16) : Encoding.Statement (.cqrd fn queue value) := rfl
theorem Encoding.replay : Encoding.Statement .replay := rfl
theorem Encoding.abort (asid : BitVec 16) (page : BitVec 41) : Encoding.Statement (.abort asid page) := rfl
theorem Encoding.dispResume (seq : BitVec 56) (strand : BitVec 13) : Encoding.Statement (.dispResume seq strand) := rfl
theorem Encoding.dispKill (seq : BitVec 56) (strand : BitVec 13) : Encoding.Statement (.dispKill seq strand) := rfl
theorem Encoding.igo : Encoding.Statement .igo := rfl
theorem Encoding.pgo : Encoding.Statement .pgo := rfl
theorem Encoding.chartMap (frame : BitVec 27) (charg : BitVec 64) : Encoding.Statement (.chartMap frame charg) := rfl
theorem Encoding.chartUnmap (frame : BitVec 27) : Encoding.Statement (.chartUnmap frame) := rfl
theorem Encoding.chartPin (frame : BitVec 27) : Encoding.Statement (.chartPin frame) := rfl
theorem Encoding.chartUnpin (frame : BitVec 27) : Encoding.Statement (.chartUnpin frame) := rfl
theorem Encoding.chartRevoke (frame : BitVec 27) : Encoding.Statement (.chartRevoke frame) := rfl
theorem Encoding.chartMove (frame : BitVec 27) (charg : BitVec 64) : Encoding.Statement (.chartMove frame charg) := rfl
theorem Encoding.chartPool (frame : BitVec 27) (charg : BitVec 64) : Encoding.Statement (.chartPool frame charg) := rfl
theorem Encoding.chartRead (frame : BitVec 27) : Encoding.Statement (.chartRead frame) := rfl
theorem Encoding.run : Encoding.Statement .run := rfl
theorem Encoding.streamEnable (stream : BitVec 4) : Encoding.Statement (.streamEnable stream) := rfl
theorem Encoding.debugStop (seq : BitVec 56) (strand : BitVec 13) : Encoding.Statement (.debugStop seq strand) := rfl
theorem Encoding.debugRead (seq : BitVec 56) (strand : BitVec 13) : Encoding.Statement (.debugRead seq strand) := rfl
theorem Encoding.debugWrite (seq : BitVec 56) (strand : BitVec 13) : Encoding.Statement (.debugWrite seq strand) := rfl
theorem Encoding.debugResume (seq : BitVec 56) (strand : BitVec 13) : Encoding.Statement (.debugResume seq strand) := rfl
theorem Encoding.debugKill (seq : BitVec 56) (strand : BitVec 13) : Encoding.Statement (.debugKill seq strand) := rfl
theorem Encoding.registerWrite (fn : BitVec 7) (off : BitVec 20) (value : BitVec 64) : Encoding.Statement (.registerWrite fn off value) := rfl
theorem Encoding.spdmRequest (tenant : BitVec 16) (open_ : Bool) : Encoding.Statement (.spdmRequest tenant open_) := rfl
theorem Encoding.timetableTrigger : Encoding.Statement .timetableTrigger := rfl
theorem Encoding.iterationBoundary : Encoding.Statement .iterationBoundary := rfl
theorem Encoding.bellTick (stream : BitVec 4) : Encoding.Statement (.bellTick stream) := rfl
theorem Encoding.bellGraceExpiry (stream : BitVec 4) : Encoding.Statement (.bellGraceExpiry stream) := rfl
theorem Encoding.dtimeCorrection (target : BitVec 64) : Encoding.Statement (.dtimeCorrection target) := rfl
theorem Encoding.collBegin (op : Nat) : Encoding.Statement (.collBegin op) := rfl
theorem Encoding.collComplete (op : Nat) : Encoding.Statement (.collComplete op) := rfl
theorem Encoding.collAbort (op : Nat) (reason : BitVec 4) (rank : BitVec 15) : Encoding.Statement (.collAbort op reason rank) := rfl
theorem Encoding.colltoExpiry (op : Nat) : Encoding.Statement (.colltoExpiry op) := rfl
theorem Encoding.portDown (port : BitVec 4) : Encoding.Statement (.portDown port) := rfl
theorem Encoding.linkRetry (port : BitVec 4) : Encoding.Statement (.linkRetry port) := rfl
theorem Encoding.hostMemoryAccess (addr : BitVec 52) (act : LineOp) : Encoding.Statement (.hostMemoryAccess addr act) := rfl
theorem Encoding.functionLevelReset (vf : BitVec 6) : Encoding.Statement (.functionLevelReset vf) := rfl
theorem Encoding.warmReset : Encoding.Statement .warmReset := rfl
theorem Encoding.coldReset (stages : List Firmware) : Encoding.Statement (.coldReset stages) := rfl
theorem Encoding.ifenceLoadComplete (op : Nat) : Encoding.Statement (.ifenceLoadComplete op) := rfl
theorem Encoding.memoryStackOffline (stack : BitVec 4) : Encoding.Statement (.memoryStackOffline stack) := rfl
theorem Encoding.scrubberPoison (asid : BitVec 16) (group : BitVec 57) (block : BitVec 5) : Encoding.Statement (.scrubberPoison asid group block) := rfl
theorem Encoding.uncorrectableMediaError (line : Nat) : Encoding.Statement (.uncorrectableMediaError line) := rfl
theorem Encoding.portUp (port : BitVec 4) : Encoding.Statement (.portUp port) := rfl
theorem Encoding.throttleLifted (tower : Bool) (floor : BitVec 2) (power : Bool) : Encoding.Statement (.throttleLifted tower floor power) := rfl
theorem Encoding.refreshWindowEnd (stack : BitVec 4) : Encoding.Statement (.refreshWindowEnd stack) := rfl
theorem Encoding.powerLoss : Encoding.Statement .powerLoss := rfl

end Sys2Proof.Laws
end

