-- ==== Sys2Proof/Laws/Shared.lean ====
section
/-! SUPPORT. What the operations that many meanings share can do, said once: looking an operation up, adding, replacing and
ending one, a job changed, a result delivered, a trap owed, and a write of the command processor. -/

namespace Sys2Proof.Machine

/-! ### The list of operations -/

theorem findOp_id {n : Nat} {o : Op} : ∀ {l : List Op}, findOp n l = some o → o.id = n
  | [], h => by cases h
  | p :: l, h => by
    simp only [findOp] at h
    split at h
    · cases h; assumption
    · exact findOp_id h

theorem findOp_mem {n : Nat} {o : Op} : ∀ {l : List Op}, findOp n l = some o → o ∈ l
  | [], h => by cases h
  | p :: l, h => by
    simp only [findOp] at h
    split at h
    · cases h; exact List.mem_cons_self
    · exact List.mem_cons_of_mem _ (findOp_mem h)

/-- An operation of a list whose numbers differ is the one that its number finds. -/
theorem findOp_of_mem {o : Op} : ∀ {l : List Op}, (l.map (·.id)).Nodup → o ∈ l → findOp o.id l = some o
  | [], _, h => by cases h
  | p :: l, hn, h => by
    rw [List.map_cons, List.nodup_cons] at hn
    simp only [findOp]
    rcases List.mem_cons.mp h with rfl | h
    · simp
    · have : p.id ≠ o.id := fun e => hn.1 (e ▸ List.mem_map_of_mem h)
      simp only [this, if_false]
      exact findOp_of_mem hn.2 h

theorem op_of_mem {s : State} {o : Op} (h : s.numbered) (m : o ∈ s.ops) : s.op o.id = some o := findOp_of_mem h.1 m

/-- A number that nothing of the list has finds nothing. -/
theorem findOp_none {n : Nat} : ∀ {l : List Op}, (∀ o ∈ l, o.id ≠ n) → findOp n l = none
  | [], _ => rfl
  | p :: l, h => by
    simp only [findOp, h p List.mem_cons_self, if_false]
    exact findOp_none fun o m => h o (List.mem_cons_of_mem _ m)

/-- An ended operation is gone. -/
@[simp] theorem op_endOp_same (s : State) (n : Nat) : (s.endOp n).op n = none :=
  findOp_none fun o m => by simpa using (List.mem_filter.mp m).2

theorem numbered_addOp {s : State} (o : Op) (h : s.numbered) : (s.addOp o).numbered := by
  refine ⟨?_, fun p m => ?_⟩
  · simp only [State.addOp, List.map_append, List.map_cons, List.map_nil]
    rw [List.nodup_append]
    refine ⟨h.1, by simp, ?_⟩
    intro a ha b hb e
    obtain ⟨p, mp, rfl⟩ := List.mem_map.mp ha
    rw [List.mem_singleton] at hb
    exact absurd (h.2 p mp) (by omega)
  · rcases List.mem_append.mp m with m | m
    · exact Nat.lt_succ_of_lt (h.2 p m)
    · rw [List.mem_singleton] at m
      subst m
      exact Nat.lt_succ_self _

theorem numbered_filter {s : State} (f : Op → Bool) (h : s.numbered) : { s with ops := s.ops.filter f }.numbered :=
  ⟨(List.filter_sublist.map _).nodup h.1, fun p m => h.2 p (List.mem_filter.mp m).1⟩

theorem numbered_endOp {s : State} (n : Nat) (h : s.numbered) : (s.endOp n).numbered := numbered_filter _ h

theorem setOpList_ids (o : Op) : ∀ l : List Op, (setOpList o l).map (·.id) = l.map (·.id)
  | [] => rfl
  | p :: l => by
    simp only [setOpList]
    split
    · simp [*]
    · simp [setOpList_ids o l]

theorem numbered_setOp {s : State} (o : Op) (h : s.numbered) : (s.setOp o).numbered := by
  have e := setOpList_ids o s.ops
  refine ⟨by simpa only [State.setOp, e] using h.1, fun p m => ?_⟩
  have : p.id ∈ s.ops.map (·.id) := e ▸ List.mem_map_of_mem m
  obtain ⟨q, mq, hq⟩ := List.mem_map.mp this
  exact hq ▸ h.2 q mq

/-- A replaced operation is found by its number. -/
theorem op_setOp_same {s : State} {o p : Op} (h : s.op o.id = some p) : (s.setOp o).op o.id = some o := by
  have go : ∀ {l : List Op}, findOp o.id l = some p → findOp o.id (setOpList o l) = some o := by
    intro l
    induction l with
    | nil => intro h; cases h
    | cons q l ih =>
      intro h
      simp only [findOp, setOpList] at h ⊢
      by_cases e : q.id = o.id
      · simp [e, findOp]
      · simp only [e, if_false, findOp] at h ⊢
        exact ih h
  exact go h

/-! ### Jobs -/

theorem findJob_seq {n : Nat} {j : Job} : ∀ {l : List Job}, findJob n l = some j → j.seq = n
  | [], h => by cases h
  | p :: l, h => by
    simp only [findJob] at h
    split at h
    · cases h; assumption
    · exact findJob_seq h

/-- A changed job is found by its sequence number. -/
theorem findJob_modJobList {n : Nat} {j : Job} {f : Job → Job} (hf : (f j).seq = n) : ∀ {l : List Job},
    findJob n l = some j → findJob n (modJobList n f l) = some (f j)
  | [], h => by cases h
  | p :: l, h => by
    simp only [findJob, modJobList] at h ⊢
    by_cases e : p.seq = n
    · simp only [e, if_true, Option.some.injEq] at h ⊢
      subst h
      simp [findJob, hf]
    · simp only [e, if_false, findJob] at h ⊢
      exact findJob_modJobList hf h

/-- The other jobs stay. -/
theorem findJob_modJobList_other {n m : Nat} {f : Job → Job} (hf : ∀ j, (f j).seq = j.seq) (h : m ≠ n) : ∀ l : List Job,
    findJob m (modJobList n f l) = findJob m l
  | [] => rfl
  | p :: l => by
    by_cases e : p.seq = n
    · simp [findJob, modJobList, e, hf, h.symm]
    · simp only [findJob, modJobList, e, if_false]
      split
      · rfl
      · exact findJob_modJobList_other hf h l

/-! ### Results and traps that reach a strand later -/

/-- A delivered result changes contexts and operations only. -/
theorem deliver_rest (s : State) (i : StrandId) (d : Option (RegName × Nat)) (v : RegVal) (b : Bool) :
    let t := s.deliver i d v b
    t.mem = s.mem ∧ t.cores = s.cores ∧ t.jobs = s.jobs ∧ t.issue = s.issue := by
  simp only [State.deliver]
  split
  · exact ⟨rfl, rfl, rfl, rfl⟩
  · split <;> exact ⟨rfl, rfl, rfl, rfl⟩
  · exact ⟨rfl, rfl, rfl, rfl⟩

/-- A request that ends without its result leaves the list, and may leave the clearing of a PENDING bit behind. -/
theorem endUnanswered_cases (s : State) (o : Op) :
    s.endUnanswered o = s.endOp o.id
    ∨ ∃ q : Op, q.kind = .noResult ∧ q.owner = o.owner ∧ q.dest = o.dest ∧ s.endUnanswered o = (s.endOp o.id).addOp q := by
  unfold State.endUnanswered
  dsimp only
  split
  · rename_i hd _
    split
    · exact .inr ⟨{ id := 0, core := _, owner := o.owner, tenant := o.tenant, dest := _, kind := .noResult }, rfl, rfl, hd.symm, rfl⟩
    · exact .inl rfl
  · exact .inl rfl

/-- An owed trap changes no memory, no core and no operation. -/
theorem owe_rest (s : State) (i : StrandId) (o : Owed) :
    let t := s.owe i o
    t.mem = s.mem ∧ t.cores = s.cores ∧ t.ops = s.ops ∧ t.issue = s.issue := by
  simp only [State.owe]
  split
  · exact ⟨rfl, rfl, rfl, rfl⟩
  · exact ⟨rfl, rfl, rfl, rfl⟩
  · split <;> exact ⟨rfl, rfl, rfl, rfl⟩
  · exact ⟨rfl, rfl, rfl, rfl⟩

/-- A trap owed to a Resident strand joins those of its context. -/
theorem owe_resident {s : State} {i : StrandId} {c : Nat} (o : Owed) (h : s.ctxOf i = some c) :
    s.owe i o = s.modCtx c fun x => { x with owed := x.owed ++ [o] } := by
  simp only [State.ctxOf] at h
  simp only [State.owe]
  split at h
  · cases h; rename_i e; simp [e]
  · cases h

/-! ### Writes of the command processor -/

theorem activate_eq (s : State) (a : Nat) : s.activate a = { s with mem := (s.activate a).mem } := by
  simp only [State.activate]
  split <;> rfl

theorem countFrame_eq (s : State) (f off : Nat) : s.countFrame f off = { s with mem := (s.countFrame f off).mem } := by
  simp only [State.countFrame]
  split
  · rw [activate_eq]
  · rfl

/-- A fold of steps that change the memory system alone does no more. -/
theorem foldl_mem {α : Type} (f : State → α → State) (h : ∀ s x, f s x = { s with mem := (f s x).mem }) :
    ∀ (l : List α) (s : State), l.foldl f s = { s with mem := (l.foldl f s).mem }
  | [], _ => rfl
  | x :: l, s => by
    have e := foldl_mem f h l (f s x)
    rw [List.foldl_cons]
    rw [h s x] at e ⊢
    exact e

theorem countLines_eq (l : List Nat) (s : State) : s.countLines l = { s with mem := (s.countLines l).mem } :=
  foldl_mem _ (fun s _ => countFrame_eq s _ _) l s

theorem countWalk_eq (s : State) (a : BitVec 16) (va : BitVec 57) (die : Nat) :
    s.countWalk a va die = { s with mem := (s.countWalk a va die).mem } := by
  unfold State.countWalk
  split
  · rfl
  · exact countLines_eq _ s

theorem enterReq_eq (s : State) (a : BitVec 16) (va : BitVec 57) (p : Place) (die : Nat) :
    s.enterReq a va p die = { s with mem := (s.enterReq a va p die).mem } := by
  simp only [State.enterReq]
  rw [countWalk_eq]

theorem countAccess_eq (s : State) (a : BitVec 16) (va : BitVec 57) (p : Place) (die : Nat) :
    s.countAccess a va p die = { s with mem := (s.countAccess a va p die).mem } := by
  simp only [State.countAccess]
  rw [activate_eq, enterReq_eq]

/-- Reading lines counts their requests, and changes nothing outside the memory system. -/
theorem countRead_eq (s : State) (a : BitVec 16) (va n die : Nat) :
    s.countRead a va n die = { s with mem := (s.countRead a va n die).mem } := by
  unfold State.countRead
  split
  · rfl
  · refine foldl_mem _ (fun s i => ?_) _ s
    dsimp only
    split
    · split
      · rfl
      · exact countAccess_eq ..
    · rfl

theorem writePlace_eq (s : State) (p : Place) (bs : List Byte) : s.writePlace p bs = { s with mem := (s.writePlace p bs).mem } := by
  simp only [State.writePlace]
  split <;> rfl

/-- A write at a VA changes device memory only. -/
theorem vaWrite_eq (a : BitVec 16) : ∀ (n : Nat) (s u : State) (va : Nat) (bs : List Byte),
    s.vaWrite a n va bs = some u → u = { s with mem := u.mem }
  | 0, s, u, va, bs, h => by cases h; rfl
  | n + 1, s, u, va, bs, h => by
    simp only [State.vaWrite] at h
    split at h
    · cases h; rfl
    · split at h
      · cases h
      · split at h
        · cases h
        have e := vaWrite_eq a n _ u _ _ h
        rw [writePlace_eq, countAccess_eq] at e
        exact e

theorem putAt_eq {s u : State} {a : BitVec 16} {va : Nat} {bs : List Byte} (h : s.putAt a va bs = some u) :
    u = { s with mem := u.mem } := vaWrite_eq a _ s u va bs h

end Sys2Proof.Machine
end

