-- ==== Sys2Proof/Tests/Slice0.lean ====
section
/-! SUPPORT. Tests of the model, expected results from the spec: worked encodings, ill-formed terms, single steps, and for each
statement a state and operands that meet its hypotheses. -/

open Sys2Proof Sys2Proof.Machine

namespace Sys2Proof.Tests

-- one theorem at a time: each kernel evaluation waits for the kernel, and waiting threads take memory
set_option Elab.async false

/-! ### Worked encodings of the spec decode, and encode back -/

/-- 20 R282: addi s33, s11, -1. -/
theorem test_word_addi : decodeScalar 0x0A12DFFF#32 = .ok (.addi 33#6 ⟨11#6, false⟩ 0x1FFF#13) ∧ encodeScalar (.addi 33#6 ⟨11#6, false⟩ 0x1FFF#13) = 0x0A12DFFF#32 := ⟨rfl, rfl⟩
/-- 21 R308: launch s5, s6, 3. -/
theorem test_word_launch : decodeScalar 0x44518003#32 = .ok (.launch 5#6 ⟨6#6, false⟩ 3#6) ∧ encodeScalar (.launch 5#6 ⟨6#6, false⟩ 3#6) = 0x44518003#32 := ⟨rfl, rfl⟩
/-- 21 R306: ifence. -/
theorem test_word_ifence_wait : decodeScalar 0x3C000000#32 = .ok (.ifenceWait) ∧ encodeScalar (.ifenceWait) = 0x3C000000#32 := ⟨rfl, rfl⟩
/-- 21 R306: ifence.load s5, s9. -/
theorem test_word_ifence_load : decodeScalar 0x3C524001#32 = .ok (.ifenceLoad 5#6 ⟨9#6, false⟩) ∧ encodeScalar (.ifenceLoad 5#6 ⟨9#6, false⟩) = 0x3C524001#32 := ⟨rfl, rfl⟩
/-- 21 R306: ifence.enter.ovl s6. -/
theorem test_word_ifence_enter : decodeScalar 0x3C018006#32 = .ok (.ifenceEnter ⟨6#6, false⟩ true) ∧ encodeScalar (.ifenceEnter ⟨6#6, false⟩ true) = 0x3C018006#32 := ⟨rfl, rfl⟩
/-- 22 R324: settle.rel.clus rmt. -/
theorem test_word_settle_rel : decodeScalar 0x88000481#32 = .ok (.settle 2#4 1#2 1#7) ∧ encodeScalar (.settle 2#4 1#2 1#7) = 0x88000481#32 := ⟨rfl, rfl⟩
/-- 22 R324: settle.acq.clus rmt. -/
theorem test_word_settle_acq : decodeScalar 0x88000501#32 = .ok (.settle 2#4 2#2 1#7) ∧ encodeScalar (.settle 2#4 2#2 1#7) = 0x88000501#32 := ⟨rfl, rfl⟩
/-- 22 R324: settle.full.pkg all. -/
theorem test_word_settle_full : decodeScalar 0x880009FF#32 = .ok (.settle 4#4 3#2 127#7) ∧ encodeScalar (.settle 4#4 3#2 127#7) = 0x880009FF#32 := ⟨rfl, rfl⟩
/-- 22 R332: trigger. -/
theorem test_word_trigger : decodeScalar 0x9C000000#32 = .ok (.trigger) ∧ encodeScalar (.trigger) = 0x9C000000#32 := ⟨rfl, rfl⟩
/-- 21 R300: exit. -/
theorem test_word_exit : decodeScalar 0x38000000#32 = .ok (.exit) ∧ encodeScalar (.exit) = 0x38000000#32 := ⟨rfl, rfl⟩
/-- 22 R331: trap 5. -/
theorem test_word_trap : decodeScalar 0x98000005#32 = .ok (.trap 5#13) ∧ encodeScalar (.trap 5#13) = 0x98000005#32 := ⟨rfl, rfl⟩
/-- 17 R261: ttnext s5. -/
theorem test_word_ttnext : decodeScalar 0xA0500000#32 = .ok (.ttnext 5#6) ∧ encodeScalar (.ttnext 5#6) = 0xA0500000#32 := ⟨rfl, rfl⟩
/-- 22 R320: ret. -/
theorem test_word_ret : decodeScalar 0x780FC000#32 = .ok (.ret ⟨63#6, false⟩) ∧ encodeScalar (.ret ⟨63#6, false⟩) = 0x780FC000#32 := ⟨rfl, rfl⟩
/-- 21 R310: li s24, its immediate in XIMM. -/
theorem test_word_li : decodeScalar 0x49800000#32 = .ok (.li 24#6 0#13) ∧ encodeScalar (.li 24#6 0#13) = 0x49800000#32 := ⟨rfl, rfl⟩
/-- 21 R310: mov s30, s16. -/
theorem test_word_mov : decodeScalar 0x5DE40000#32 = .ok (.mov 30#6 ⟨16#6, false⟩) ∧ encodeScalar (.mov 30#6 ⟨16#6, false⟩) = 0x5DE40000#32 := ⟨rfl, rfl⟩
/-- 21 R310: mul s20, s20, s21. -/
theorem test_word_mul : decodeScalar 0x65450A80#32 = .ok (.mul 20#6 ⟨20#6, false⟩ ⟨21#6, false⟩) ∧ encodeScalar (.mul 20#6 ⟨20#6, false⟩ ⟨21#6, false⟩) = 0x65450A80#32 := ⟨rfl, rfl⟩
/-- 21 R310: min s37, s37, s62. -/
theorem test_word_min : decodeScalar 0x5A595F00#32 = .ok (.min 37#6 ⟨37#6, false⟩ ⟨62#6, false⟩) ∧ encodeScalar (.min 37#6 ⟨37#6, false⟩ ⟨62#6, false⟩) = 0x5A595F00#32 := ⟨rfl, rfl⟩
/-- 23 R357: xor s5, s6, s7. -/
theorem test_word_xor : decodeScalar 0xA4518380#32 = .ok (.xor 5#6 ⟨6#6, false⟩ ⟨7#6, false⟩) ∧ encodeScalar (.xor 5#6 ⟨6#6, false⟩ ⟨7#6, false⟩) = 0xA4518380#32 := ⟨rfl, rfl⟩
/-- 23 R357: xori s5, s6, -1. -/
theorem test_word_xori : decodeScalar 0xA8519FFF#32 = .ok (.xori 5#6 ⟨6#6, false⟩ 0x1FFF#13) ∧ encodeScalar (.xori 5#6 ⟨6#6, false⟩ 0x1FFF#13) = 0xA8519FFF#32 := ⟨rfl, rfl⟩
/-- 23 R349: vord.f32.desc va2, va1 ?m5. -/
theorem test_word_vord : decodeVector 0x15104004A000#48 = .ok (.vord ⟨2#5, 1#5, false, 0#5, false, 1#5, false, 5#4, 0#4, 0#3, false, false, false, 0#2⟩) ∧ encodeWide (.vord ⟨2#5, 1#5, false, 0#5, false, 1#5, false, 5#4, 0#4, 0#3, false, false, false, 0#2⟩) = 0x15104004A000#48 := ⟨rfl, rfl⟩
/-- 23 R351: vpop va4, q0. -/
theorem test_word_vpop : decodeVector 0x172000000000#48 = .ok (.vpop 4#5 0#3 false 0#4) ∧ encodeWide (.vpop 4#5 0#3 false 0#4) = 0x172000000000#48 := ⟨rfl, rfl⟩
/-- 23 R352: vrng va7, va6, bp. -/
theorem test_word_vrng : decodeVector 0x1B3980000404#48 = .ok (.vrng 7#5 6#5 false 0#4) ∧ encodeWide (.vrng 7#5 6#5 false 0#4) = 0x1B3980000404#48 := ⟨rfl, rfl⟩
/-- 23 R356: xform s4, s5, s6, s7. -/
theorem test_word_xform : decodeL 0x0B102860E000#48 = .ok (.xform ⟨4#6, false⟩ ⟨5#6, false⟩ ⟨6#6, false⟩ ⟨7#6, false⟩) ∧ encodeWide (.xform ⟨4#6, false⟩ ⟨5#6, false⟩ ⟨6#6, false⟩ ⟨7#6, false⟩) = 0x0B102860E000#48 := ⟨rfl, rfl⟩
/-- 12 R208: dpload.all d1, s6. -/
theorem test_word_dpload_all : decodeM 0x011800002003#48 = .ok (.dpload ⟨6#6, false⟩ 1#6 3#2) ∧ encodeWide (.dpload ⟨6#6, false⟩ 1#6 3#2) = 0x011800002003#48 := ⟨rfl, rfl⟩
/-- 21 R312: mcfg s23. -/
theorem test_word_mcfg : decodeM 0x025C00000000#48 = .ok (.mcfg ⟨23#6, false⟩) ∧ encodeWide (.mcfg ⟨23#6, false⟩) = 0x025C00000000#48 := ⟨rfl, rfl⟩
/-- 21 R312: mldb.lur h1. -/
theorem test_word_mldb : decodeM 0x031000000001#48 = .ok (.mldb 1#4 true) ∧ encodeWide (.mldb 1#4 true) = 0x031000000001#48 := ⟨rfl, rfl⟩
/-- 21 R312: mldh s12. -/
theorem test_word_mldh : decodeM 0x043000000000#48 = .ok (.mldh ⟨12#6, false⟩) ∧ encodeWide (.mldh ⟨12#6, false⟩) = 0x043000000000#48 := ⟨rfl, rfl⟩
/-- 11 Table 11-3: mmac.first.last a0, s3, s4, s5, d1, q0. -/
theorem test_word_mmac : decodeM 0x056188282000#48 = .ok (.mmac ⟨false, true, true, 3#6, 4#6, 5#6, 1#6, 0#3, false⟩) ∧ encodeWide (.mmac ⟨false, true, true, 3#6, 4#6, 5#6, 1#6, 0#3, false⟩) = 0x056188282000#48 := ⟨rfl, rfl⟩
/-- 21 R312: mret a1, d3, q2. -/
theorem test_word_mret : decodeM 0x068000006800#48 = .ok (.mret true 3#6 2#3) ∧ encodeWide (.mret true 3#6 2#3) = 0x068000006800#48 := ⟨rfl, rfl⟩
/-- 21 R312: mspc s9. -/
theorem test_word_mspc : decodeM 0x072400000000#48 = .ok (.mspc ⟨9#6, false⟩) ∧ encodeWide (.mspc ⟨9#6, false⟩) = 0x072400000000#48 := ⟨rfl, rfl⟩
/-- 21 R312: mswap. -/
theorem test_word_mswap : decodeM 0x080000000000#48 = .ok (.mswap) ∧ encodeWide (.mswap) = 0x080000000000#48 := ⟨rfl, rfl⟩
/-- 20 R284: atom.cas.d.acqrel.pkg s5, s6, s7, s8. -/
theorem test_word_atom : decodeH 0x0121460E21D0#48 = .ok (.atom ⟨2#4, 5#6, ⟨6#6, false⟩, ⟨7#6, false⟩, ⟨8#6, false⟩, true, 3#2, 4#4, false⟩) ∧ encodeWide (.atom ⟨2#4, 5#6, ⟨6#6, false⟩, ⟨7#6, false⟩, ⟨8#6, false⟩, true, 3#2, 4#4, false⟩) = 0x0121460E21D0#48 := ⟨rfl, rfl⟩
/-- 20 R293: coll.f32.max g1, s29, s31. -/
theorem test_word_coll : decodeH 0x020174F80100#48 = .ok (.coll ⟨1#8, ⟨29#6, false⟩, ⟨31#6, false⟩, ⟨0#6, false⟩, 1#3, 0#2⟩) ∧ encodeWide (.coll ⟨1#8, ⟨29#6, false⟩, ⟨31#6, false⟩, ⟨0#6, false⟩, 1#3, 0#2⟩) = 0x020174F80100#48 := ⟨rfl, rfl⟩
/-- 21 R304: hpos h2, s46. -/
theorem test_word_hpos : decodeH 0x072B80000000#48 = .ok (.hpos 2#4 46#6) ∧ encodeWide (.hpos 2#4 46#6) = 0x072B80000000#48 := ⟨rfl, rfl⟩
/-- 21 R304: hskip h1, s8!. -/
theorem test_word_hskip : decodeH 0x0A1008010000#48 = .ok (.hskip 1#4 ⟨8#6, true⟩) ∧ encodeWide (.hskip 1#4 ⟨8#6, true⟩) = 0x0A1008010000#48 := ⟨rfl, rfl⟩
/-- 21 R304: hwrite.f32.keep.bk h2, s15, s3. -/
theorem test_word_hwrite : decodeH 0x0B23C3000132#48 = .ok (.hwrite 2#4 ⟨15#6, false⟩ ⟨3#6, false⟩ ⟨0#6, false⟩ 0x32#8 true 0#2 false false) ∧ encodeWide (.hwrite 2#4 ⟨15#6, false⟩ ⟨3#6, false⟩ ⟨0#6, false⟩ 0x32#8 true 0#2 false false) = 0x0B23C3000132#48 := ⟨rfl, rfl⟩
/-- 22 R319: qsend q0, s15, s16. -/
theorem test_word_qsend : decodeH 0x0C0790000000#48 = .ok (.qsend 0#3 ⟨15#6, false⟩ ⟨16#6, false⟩ false) ∧ encodeWide (.qsend 0#3 ⟨15#6, false⟩ ⟨16#6, false⟩ false) = 0x0C0790000000#48 := ⟨rfl, rfl⟩
/-- 23 R354: xfer.out s22, s13, s23, s24. -/
theorem test_word_xfer : decodeH 0x11AC34B98000#48 = .ok (.xfer ⟨true, ⟨22#6, false⟩, ⟨13#6, false⟩, ⟨23#6, false⟩, ⟨24#6, false⟩, false, false, 0#2⟩) ∧ encodeWide (.xfer ⟨true, ⟨22#6, false⟩, ⟨13#6, false⟩, ⟨23#6, false⟩, ⟨24#6, false⟩, false, false, 0#2⟩) = 0x11AC34B98000#48 := ⟨rfl, rfl⟩
/-- 20 R297: dadd x0, acc, kcol. -/
theorem test_word_dadd : decodeDrain 0x111600#24 = .ok (.dadd ⟨0#3, 8#4, 11#4, 0#5, 0#4⟩) ∧ encodeDrain (.dadd ⟨0#3, 8#4, 11#4, 0#5, 0#4⟩) = 0x111600#24 := ⟨rfl, rfl⟩
/-- 20 R297: dmax x0, x0, c0. -/
theorem test_word_dmax : decodeDrain 0x600008#24 = .ok (.dmax ⟨0#3, 0#4, 0#4, 0#5, 8#4⟩) ∧ encodeDrain (.dmax ⟨0#3, 0#4, 0#4, 0#5, 8#4⟩) = 0x600008#24 := ⟨rfl, rfl⟩
/-- 20 R297: dfma.sat x2, acc, kcol, c5. -/
theorem test_word_dfma : decodeDrain 0x551654#24 = .ok (.dfma ⟨2#3, 8#4, 11#4, 5#5, 4#4⟩) ∧ encodeDrain (.dfma ⟨2#3, 8#4, 11#4, 5#5, 4#4⟩) = 0x551654#24 := ⟨rfl, rfl⟩
/-- 20 R297: dsto.skew.b32 x0, c4. -/
theorem test_word_dsto : decodeDrain 0xC00044#24 = .ok (.dsto 0#4 4#5 true 0#2) ∧ encodeDrain (.dsto 0#4 4#5 true 0#2) = 0xC00044#24 := ⟨rfl, rfl⟩

/-! ### Each check of WellFormed.lean refuses an ill-formed term -/

theorem test_wf_bar : Instr.wf (.barArrive 96#7 ⟨0#6, false⟩) = false := rfl
theorem test_wf_bar_wait : Instr.wf (.barWait 96#7 ⟨0#6, false⟩) = false := rfl
theorem test_wf_bar_sync : Instr.wf (.barSync 127#7 ⟨0#6, false⟩) = false := rfl
theorem test_wf_bwait : Instr.wf (.bwaitWait 1#6 96#7 ⟨0#6, false⟩) = false := rfl
theorem test_wf_bwait_test : Instr.wf (.bwaitTest 1#6 96#7 ⟨0#6, false⟩) = false := rfl
theorem test_wf_br_cc : Instr.wf (.br ⟨0#6, false⟩ 7#3 0#16) = false := rfl
theorem test_wf_br_always_source : Instr.wf (.br ⟨1#6, false⟩ 6#3 0#16) = false := rfl
theorem test_wf_cmp : Instr.wf (.cmp 1#6 ⟨0#6, false⟩ ⟨0#6, false⟩ 6#6) = false := rfl
theorem test_wf_cmpi : Instr.wf (.cmpi 1#6 ⟨0#6, false⟩ 0#10 6#3) = false := rfl
theorem test_wf_loop_cc : Instr.wf (.loop ⟨1#6, false⟩ 6#3 0#16) = false := rfl
theorem test_wf_loop_s0 : Instr.wf (.loop ⟨0#6, false⟩ 0#3 0#16) = false := rfl
theorem test_wf_mfsr : Instr.wf (.mfsr 1#6 0x1A#6) = false := rfl
theorem test_wf_mtsr : Instr.wf (.mtsr 0x1F#6 ⟨0#6, false⟩) = false := rfl
theorem test_wf_ret_s0 : Instr.wf (.ret ⟨0#6, false⟩) = false := rfl
theorem test_wf_settle_scope : Instr.wf (.settle 9#4 3#2 1#7) = false := rfl
theorem test_wf_settle_kind : Instr.wf (.settle 0#4 0#2 1#7) = false := rfl
theorem test_wf_settle_domains : Instr.wf (.settle 0#4 3#2 0#7) = false := rfl
theorem test_wf_vr_type : Instr.wf (.vadd ⟨0#5, 0#5, false, 0#5, false, 0#5, false, 0#4, 3#4, 0#3, false, false, false, 0#2⟩) = false := rfl
theorem test_wf_vr_int_only : Instr.wf (.vshl ⟨0#5, 0#5, false, 0#5, false, 0#5, false, 0#4, 0#4, 0#3, false, false, false, 0#2⟩) = false := rfl
theorem test_wf_vr_float_only : Instr.wf (.vsqrt ⟨0#5, 0#5, false, 0#5, false, 0#5, false, 0#4, 1#4, 0#3, false, false, false, 0#2⟩) = false := rfl
theorem test_wf_vr_rm : Instr.wf (.vadd ⟨0#5, 0#5, false, 0#5, false, 0#5, false, 0#4, 0#4, 5#3, false, false, false, 0#2⟩) = false := rfl
theorem test_wf_vr_unread_a : Instr.wf (.vidx ⟨0#5, 1#5, false, 0#5, false, 0#5, false, 0#4, 1#4, 0#3, false, false, false, 0#2⟩) = false := rfl
theorem test_wf_vr_unread_b : Instr.wf (.vmov ⟨0#5, 0#5, false, 1#5, false, 0#5, false, 0#4, 0#4, 0#3, false, false, false, 0#2⟩) = false := rfl
theorem test_wf_vr_code : Instr.wf (.vmax ⟨0#5, 0#5, false, 0#5, false, 2#5, false, 0#4, 0#4, 0#3, false, false, false, 0#2⟩) = false := rfl
theorem test_wf_vr_bsel_range : Instr.wf (.vmov ⟨0#5, 0#5, false, 0#5, false, 0#5, false, 0#4, 0#4, 0#3, false, false, false, 2#2⟩) = false := rfl
theorem test_wf_vr_bsel_field : Instr.wf (.vadd ⟨0#5, 1#5, false, 0#5, false, 0#5, false, 0#4, 0#4, 0#3, false, false, false, 1#2⟩) = false := rfl
theorem test_wf_vcmp_dest : Instr.wf (.vcmp ⟨16#5, 0#5, false, 0#5, false, 0#5, false, 0#4, 0#4, 0#3, false, false, false, 0#2⟩) = false := rfl
theorem test_wf_vcmp_rm : Instr.wf (.vcmp ⟨0#5, 0#5, false, 0#5, false, 0#5, false, 0#4, 0#4, 1#3, false, false, false, 0#2⟩) = false := rfl
theorem test_wf_vcvt_format : Instr.wf (.vcvt ⟨0#5, 0#5, false, 0#4, 0x34#8, 0x35#8, 0#3, false, false, false, 0#3⟩) = false := rfl
theorem test_wf_vcvt_part : Instr.wf (.vcvt ⟨0#5, 0#5, false, 0#4, 0x30#8, 0x32#8, 0#3, false, false, false, 2#3⟩) = false := rfl
theorem test_wf_vexp2_rm : Instr.wf (.vexp2 ⟨0#5, 0#5, false, 0#5, false, 0#5, false, 0#4, 0#4, 1#3, false, false, false, 0#2⟩) = false := rfl
theorem test_wf_vext_type : Instr.wf (.vext 0#6 0#5 false 0#6 3#4 false) = false := rfl
theorem test_wf_vext_lane : Instr.wf (.vext 0#6 0#5 false 1#6 0#4 true) = false := rfl
theorem test_wf_vscan_rm : Instr.wf (.vscan ⟨0#5, 0#5, false, 0#5, false, 0#5, false, 0#4, 0#4, 4#3, false, false, false, 0#2⟩) = false := rfl
theorem test_wf_xmov_bsel : Instr.wf (.xmov ⟨0#5, 0#5, false, 0#5, false, 0#5, false, 0#4, 0#4, 0#3, false, false, false, 1#2⟩) = false := rfl
theorem test_wf_fill_mode : Instr.wf (.fill ⟨⟨0#6, false⟩, ⟨0#6, false⟩, ⟨0#6, false⟩, 3#2, false⟩) = false := rfl
theorem test_wf_fill_constant : Instr.wf (.fill ⟨⟨0#6, false⟩, ⟨0#6, false⟩, ⟨1#6, false⟩, 0#2, true⟩) = false := rfl
theorem test_wf_sld : Instr.wf (.sld 0#6 ⟨0#6, false⟩ 7#3 0#16) = false := rfl
theorem test_wf_vld : Instr.wf (.vld 0#6 ⟨0#6, false⟩ 3#2) = false := rfl
theorem test_wf_dpload : Instr.wf (.dpload ⟨0#6, false⟩ 0#6 0#2) = false := rfl
theorem test_wf_atom_op : Instr.wf (.atom ⟨10#4, 0#6, ⟨0#6, false⟩, ⟨0#6, false⟩, ⟨0#6, false⟩, false, 0#2, 0#4, false⟩) = false := rfl
theorem test_wf_atom_scope : Instr.wf (.atom ⟨0#4, 0#6, ⟨0#6, false⟩, ⟨0#6, false⟩, ⟨0#6, false⟩, false, 0#2, 9#4, false⟩) = false := rfl
theorem test_wf_atom_sc : Instr.wf (.atom ⟨0#4, 0#6, ⟨0#6, false⟩, ⟨0#6, false⟩, ⟨1#6, false⟩, false, 0#2, 0#4, false⟩) = false := rfl
theorem test_wf_coll_op : Instr.wf (.coll ⟨0#8, ⟨0#6, false⟩, ⟨0#6, false⟩, ⟨0#6, false⟩, 6#3, 0#2⟩) = false := rfl
theorem test_wf_coll_type : Instr.wf (.coll ⟨0#8, ⟨0#6, false⟩, ⟨0#6, false⟩, ⟨0#6, false⟩, 0#3, 3#2⟩) = false := rfl
theorem test_wf_coll_sc : Instr.wf (.coll ⟨0#8, ⟨0#6, false⟩, ⟨0#6, false⟩, ⟨1#6, false⟩, 0#3, 0#2⟩) = false := rfl
theorem test_wf_hopen : Instr.wf (.hopen 0#4 ⟨0#6, false⟩ ⟨0#6, false⟩ 0#2) = false := rfl
theorem test_wf_hread_format : Instr.wf (.hread 0#4 ⟨0#6, false⟩ ⟨0#6, false⟩ ⟨0#6, false⟩ 0x34#8 false false false false) = false := rfl
theorem test_wf_hread_raw_backward : Instr.wf (.hread 0#4 ⟨0#6, false⟩ ⟨0#6, false⟩ ⟨0#6, false⟩ 0#8 true true false false) = false := rfl
theorem test_wf_hwrite_format : Instr.wf (.hwrite 0#4 ⟨0#6, false⟩ ⟨0#6, false⟩ ⟨0#6, false⟩ 0x08#8 false 0#2 false false) = false := rfl
theorem test_wf_hwrite_mode : Instr.wf (.hwrite 0#4 ⟨0#6, false⟩ ⟨0#6, false⟩ ⟨0#6, false⟩ 0x32#8 false 3#2 false false) = false := rfl
theorem test_wf_hwrite_append_backward : Instr.wf (.hwrite 0#4 ⟨0#6, false⟩ ⟨0#6, false⟩ ⟨0#6, false⟩ 0x32#8 true 2#2 false false) = false := rfl
theorem test_wf_hwrite_keep_tag : Instr.wf (.hwrite 0#4 ⟨0#6, false⟩ ⟨0#6, false⟩ ⟨1#6, false⟩ 0x32#8 false 0#2 false false) = false := rfl
theorem test_wf_xfer_cv : Instr.wf (.xfer ⟨false, ⟨0#6, false⟩, ⟨0#6, false⟩, ⟨0#6, false⟩, ⟨0#6, false⟩, false, false, 3#2⟩) = false := rfl
theorem test_wf_xfer_arrive : Instr.wf (.xfer ⟨false, ⟨0#6, false⟩, ⟨0#6, false⟩, ⟨0#6, false⟩, ⟨0#6, false⟩, true, false, 0#2⟩) = false := rfl
theorem test_wf_drain_selector : Instr.wf (.dadd ⟨0#3, 12#4, 0#4, 0#5, 0#4⟩) = false := rfl
theorem test_wf_drain_ksel_b : Instr.wf (.dadd ⟨0#3, 0#4, 1#4, 0#5, 8#4⟩) = false := rfl
theorem test_wf_drain_k : Instr.wf (.dmul ⟨0#3, 0#4, 0#4, 1#5, 0#4⟩) = false := rfl
theorem test_wf_dcvt : Instr.wf (.dcvt ⟨0#3, 0#4, 1#4, 0#5, 0#4⟩) = false := rfl
theorem test_wf_dqnt_k : Instr.wf (.dqnt ⟨0#3, 0#4, 0#4, 31#5, 0#4⟩) = false := rfl
theorem test_wf_dexp2 : Instr.wf (.dexp2 ⟨0#3, 0#4, 0#4, 1#5, 0#4⟩) = false := rfl
theorem test_wf_dfma_b : Instr.wf (.dfma ⟨0#3, 0#4, 12#4, 0#5, 0#4⟩) = false := rfl
theorem test_wf_dpush : Instr.wf (.dpush 0#4 3#2) = false := rfl
theorem test_wf_dsto_k : Instr.wf (.dsto 0#4 31#5 false 0#2) = false := rfl
theorem test_wf_dsto_skew : Instr.wf (.dsto 0#4 0#5 true 1#2) = false := rfl

/-! ### Reserved words are refused by name -/

/-- 04 Table 4-10: opcode 0 of every class is unassigned. -/
theorem test_zero_words : decodeScalar 0#32 = .error .unassigned ∧ decodeVector 0#48 = .error .unassigned
    ∧ decodeL 0#48 = .error .unassigned ∧ decodeM 0#48 = .error .unassigned ∧ decodeH 0#48 = .error .unassigned
    ∧ decodeDrain 0#24 = .error .opcode := ⟨rfl, rfl, rfl, rfl, rfl, rfl⟩
/-- 04 R76: a spare bit of format S.R that is not zero fails check 7. -/
theorem test_spare_bit : decodeScalar 0xA4518381#32 = .error .badField := rfl
/-- 12 R209: the reasons 6 to 9 of a code word. -/
theorem test_drain_rejects : decodeDrain 0xD00000#24 = .error .opcode ∧ decodeDrain 0x118000#24 = .error .selector
    ∧ decodeDrain 0x300001#24 = .error .nonzero ∧ decodeDrain 0x900003#24 = .error .refused := ⟨rfl, rfl, rfl, rfl⟩

/-! ### The hypotheses of the statements can be met -/

/-- The state right after reset; every register is full. -/
abbrev r0 : State := State.reset

theorem full_dec {s : State} {l : List Source} (h : (l.all fun x => !s.issue.regs.isEmpty x.reg) = true) : s.full l :=
  fun x m => by simpa using List.all_eq_true.mp h x m

/-- A latch whose s registers hold the values of a list. -/
def lat (l : List (BitVec 6 × Word)) : State :=
  { issue := { regs := l.foldl (fun r x => r.write (sReg x.1) (.word x.2)) {} } }

/-- The same for strand 0 of job 1, Resident in context 0: its job has one group, of that strand. -/
def jb : Job := { seq := 1, packet := 0#512, queue := none, slot := 0, tenant := 0#16, prio := 0, started := true
                  groups := [⟨1, false, [0]⟩], strands := [{ st := .resident 0, core := some 0 }] }
/-- … -/
def js (l : List (BitVec 6 × Word)) : State :=
  { lat l with jobs := [jb], nextSeq := 2, ctxs := [(0, { strand := some ⟨1, 0⟩ })] }

/-- The tables below, at host page 1 on: the root entry of an ASID at offset 64 of the last, one frame for each level, and at
level 0 the leaf of page 0 alone. -/
abbrev tbl (leaf : List Byte := [0x17]) : List (Nat × Byte) :=
  [(65536, 1), (65538, 18), (131072, 1), (131074, 19), (196608, 1), (196610, 20)]
    ++ ((upto leaf.length).map (262144 + ·)).zip leaf ++ [(262208, 1), (262210, 17)]
/-- Their frames 17 to 20, far at MEDIA 1 to 4. -/
abbrev tblChart : SMap Word := [(17, 0x10002), (18, 0x20002), (19, 0x30002), (20, 0x40002)]
/-- A device memory with translation on and bytes in host memory: the tables, and a TLB that holds page 0 of ASID a, map it,
writable, to host page 0. -/
abbrev mem (a : BitVec 16) (b : List (Nat × Byte)) : MemSys :=
  { tlb := [(a.toNat * 2 ^ 41, [0x14#64])], bytes := (b ++ tbl).map fun y => (hostMedia y.1, y.2), chart := tblChart
    regs := { ten := true, aen := false, rootbase := BitVec.ofNat 43 (20 * 65536 + 64 - 8 * a.toNat) } }
/-- Where its first byte lies. -/
def p0 (va : Nat) : Place := ⟨hostMedia va, none, false, 0x14#64, false⟩

/-- An operation of strand 0 of job 1. -/
def op0 (k : OpKind) : Op := { id := 0, core := 0, owner := ⟨1, 0⟩, tenant := 0#16, kind := k }
/-- The only outstanding operation, with the memory above holding bytes at its first addresses, and head 0 of core 0. -/
def os (k : OpKind) (b : List (Nat × Byte) := []) (x : Head := {}) (prog : Nat := 0) : State :=
  { js [] with ops := [{ op0 k with prog := prog }], nextOp := 1, mem := mem 0 b
               cores := [(0, { heads := [(0, x)] })] }
/-- Page 0 of ASID a is host page 0, in the tables above and in the TLBs. -/
def Host0 (a : BitVec 16) (s : State) : Prop :=
  s.mem.tlb = [(a.toNat * 2 ^ 41, [0x14#64])] ∧ s.mem.regs.ten = true ∧ s.mem.chart = tblChart ∧ s.mem.bad = []
    ∧ s.mem.offline = 0 ∧ s.mem.walk a 0#57 = some 0x14#64 ∧ s.mem.parked = [] ∧ s.mem.regs.aen = false

theorem pteIndex_page0 {va : BitVec 57} (h : va.toNat < 65536) (l : Nat) : pteIndex l va = pteIndex l 0#57 := by
  have e (k n : Nat) (hk : 16 ≤ k) : (va.extractLsb' k n).toNat = 0 := by
    rw [BitVec.extractLsb'_toNat, Nat.shiftRight_eq_div_pow, Nat.div_eq_of_lt (Nat.lt_of_lt_of_le h (Nat.pow_le_pow_right (by decide : 0 < 2) hk)), Nat.zero_mod]
  rcases l with _ | _ | _ | _ | _ <;> simp only [pteIndex] <;> rw [e _ _ (by decide)] <;> rfl
theorem walk_page0 (m : MemSys) (a : BitVec 16) {va : BitVec 57} (h : va.toNat < 65536) : m.walk a va = m.walk a 0#57 := by
  have f : ∀ l t, m.walkFrom va l t = m.walkFrom 0#57 l t := by
    intro l
    induction l with
    | zero => intro t; simp only [MemSys.walkFrom, pteIndex_page0 h]
    | succ l ih => intro t; simp only [MemSys.walkFrom, pteIndex_page0 h, ih]
  simp only [MemSys.walk, f]
theorem walk_congr {m n : MemSys} (r : n.regs = m.regs) (d : ∀ x, n.dpaWord x = m.dpaWord x) (a : BitVec 16) (va : BitVec 57) : n.walk a va = m.walk a va := by
  have f : ∀ l t, n.walkFrom va l t = m.walkFrom va l t := by
    intro l
    induction l with
    | zero => intro t; simp only [MemSys.walkFrom, d]
    | succ l ih => intro t; simp only [MemSys.walkFrom, d, ih]
  simp only [MemSys.walk, f, r, d]
/-- The frames of the tables lie at host page 1 or later, and no other frame is mapped. -/
theorem place_tbl {m : MemSys} (h : m.chart = tblChart) {f off a : Nat} (e : m.place f off = some a) : hostMedia 65536 ≤ a := by
  have c : m.entry f = 0#64 ∨ m.entry f = 0x10002#64 ∨ m.entry f = 0x20002#64 ∨ m.entry f = 0x30002#64 ∨ m.entry f = 0x40002#64 := by
    rw [MemSys.entry, h]
    simp only [mget]
    repeat' split
    all_goals decide
  unfold MemSys.place MemSys.tierOf at e
  rcases c with c | c | c | c | c <;> rw [c] at e <;> simp [chState, chMedia, mediaAt, hostMedia] at e ⊢ <;> omega

theorem placeOf_host {a : BitVec 16} {s : State} (i : Host0 a s) {va : Nat} (h : va < 65536) (w : Bool) : s.placeOf a (BitVec.ofNat 57 va) w = some (p0 va) := by
  obtain ⟨h1, h2, -, -, -, h3, h4, -⟩ := i
  have v : (BitVec.ofNat 57 va).toNat = va := by simp [BitVec.toNat_ofNat]; omega
  have k : tlbKey a (BitVec.ofNat 57 va) = a.toNat * 2 ^ 41 := by simp only [tlbKey, v]; omega
  have d := (walk_page0 s.mem a (by rw [v]; exact h : (BitVec.ofNat 57 va).toNat < 65536)).trans h3
  have x : s.xlate a (BitVec.ofNat 57 va) = some 0x14#64 := by
    simp [State.xlate, State.walkWaits, h2, h4, MemSys.candidates, MemSys.held, dieKey, d, k, h1, mget]
  have m : va % 65536 = va := by omega
  simp only [State.placeOf, x, v, m]
  cases w <;> simp [p0, pteAddr]

theorem put_rest (a : Nat) : ∀ (bs : List Byte) (m : MemSys), (m.put a bs).tlb = m.tlb ∧ (m.put a bs).regs = m.regs ∧ (m.put a bs).chart = m.chart
    ∧ (m.put a bs).bad = m.bad ∧ (m.put a bs).offline = m.offline ∧ (m.put a bs).moves = m.moves ∧ (m.put a bs).parked = m.parked := by
  intro bs
  induction bs generalizing a with
  | nil => exact fun m => ⟨rfl, rfl, rfl, rfl, rfl, rfl, rfl⟩
  | cons b bs ih => exact fun m => ih (a + 1) _

theorem put_byte (a : Nat) : ∀ (bs : List Byte) (m : MemSys) (x : Nat), a + bs.length ≤ x → (m.put a bs).byte x = m.byte x := by
  intro bs
  induction bs generalizing a with
  | nil => exact fun m x _ => rfl
  | cons b bs ih =>
    intro m x h
    rw [List.length_cons] at h
    exact (ih (a + 1) _ x (by omega)).trans (mget_mset_other _ _ _ (by omega))
theorem read_congr {m n : MemSys} : ∀ k a, (∀ x, a ≤ x → n.byte x = m.byte x) → n.read a k = m.read a k
  | 0, _, _ => rfl
  | k + 1, a, h => by rw [MemSys.read, MemSys.read, h a (Nat.le_refl a), read_congr k (a + 1) fun x l => h x (by omega)]

/-- A write in page 0 leaves the mapping. -/
theorem writePlace_host {a : BitVec 16} {s : State} (i : Host0 a s) {va : Nat} (bs : List Byte) (h : va + bs.length ≤ 65536) :
    Host0 a (s.writePlace (p0 va) bs) := by
  obtain ⟨h1, h2, h3, h4, h5, h6, h7, h8⟩ := i
  obtain ⟨r1, r2, r3, r4, r5, r6, r7⟩ := put_rest (hostMedia va) bs s.mem
  have w : (s.writePlace (p0 va) bs).mem = { s.mem.put (hostMedia va) bs with bad := [] } := by
    show s.mem.write (hostMedia va) bs = _
    unfold MemSys.write
    have z : (s.mem.put (hostMedia va) bs).bad = [] := r4.trans h4
    split
    · show { s.mem.put (hostMedia va) bs with bad := mset false (s.mem.put (hostMedia va) bs).bad (hostMedia va / 64) false } = _
      rw [z]; rfl
    · show s.mem.put (hostMedia va) bs = _
      rw [← z]
  have d (x : Nat) : (s.writePlace (p0 va) bs).mem.dpaWord x = s.mem.dpaWord x := by
    have e (f : Nat) : (s.writePlace (p0 va) bs).mem.entry f = s.mem.entry f := by
      rw [w]; show mget 0#64 (s.mem.put (hostMedia va) bs).chart f = _; rw [r3]; rfl
    have p (f off : Nat) : (s.writePlace (p0 va) bs).mem.place f off = s.mem.place f off := by
      have t : (s.writePlace (p0 va) bs).mem.tierOf f = s.mem.tierOf f := by
        unfold MemSys.tierOf; rw [e]; rw [w]; simp only [r6]
      unfold MemSys.place; rw [t, e]; rw [w]; simp only [r5]
    unfold MemSys.dpaWord
    simp only [p, e]
    split
    · rfl
    · rename_i y hy
      have b : (s.writePlace (p0 va) bs).mem.isBad y = s.mem.isBad y := by
        unfold MemSys.isBad; rw [w, h4]
      have l := place_tbl h3 hy
      have q : (s.writePlace (p0 va) bs).mem.read y 8 = s.mem.read y 8 := read_congr 8 y fun x hx => by
        rw [w]; exact put_byte _ bs s.mem x (by unfold hostMedia at l ⊢; omega)
      rw [b, q]
  refine ⟨?_, ?_, ?_, ?_, ?_, (walk_congr ?_ d a 0#57).trans h6, ?_, ?_⟩ <;> rw [w]
  · exact r1.trans h1
  · exact (congrArg MemRegs.ten r2).trans h2
  · exact r3.trans h3
  · exact r5.trans h5
  · exact r2
  · exact r7.trans h7
  · exact (congrArg MemRegs.aen r2).trans h8

theorem countFrame_host {a : BitVec 16} {s : State} (i : Host0 a s) (f off : Nat) : s.countFrame f off = s := by
  have c : s.mem.attend f = s.mem := by simp [MemSys.attend, i.2.2.2.2.2.2.2]
  unfold State.countFrame
  rw [c]
  show (match s.mem.place f off with | some b => s.activate b | none => s) = s
  split
  · rename_i b e
    have := place_tbl i.2.2.1 e
    have : ¬b < 1099511627776 := by unfold hostMedia at this; omega
    simp [State.activate, this]
  · rfl
theorem countAccess_host {a : BitVec 16} {s : State} (i : Host0 a s) {va : Nat} (h : va < 65536) :
    s.countAccess a (BitVec.ofNat 57 va) (p0 va) = s := by
  have v : (BitVec.ofNat 57 va).toNat = va := by simp [BitVec.toNat_ofNat]; omega
  have k : tlbKey a (BitVec.ofNat 57 va) = a.toNat * 2 ^ 41 := by simp only [tlbKey, v]; omega
  have f : s.mem.fill a (BitVec.ofNat 57 va) 0x14#64 = s.mem := by simp [MemSys.fill, dieKey, k, i.1, mget]
  have e : ∀ l : List Nat, l.foldl (fun s dpa => s.countFrame (dpa / 65536) (dpa % 65536)) s = s := by
    intro l
    induction l with
    | nil => rfl
    | cons x l ih => rw [List.foldl_cons, countFrame_host i, ih]
  have c : s.countWalk a (BitVec.ofNat 57 va) = s := by unfold State.countWalk; split; rfl; exact e _
  have : ¬hostMedia va < 1099511627776 := by unfold hostMedia; omega
  simp [State.countAccess, State.enterReq, c, p0, f, State.activate, this]

theorem vaWrite_host {a : BitVec 16} : ∀ (n va : Nat) (bs : List Byte) (s : State), Host0 a s → va + bs.length ≤ 65536 →
    ∃ u, s.vaWrite a n va bs = some u ∧ Host0 a u
  | 0, _, _, s, i, _ => ⟨s, rfl, i⟩
  | n + 1, va, bs, s, i, h => by
    unfold State.vaWrite
    split
    · exact ⟨s, rfl, i⟩
    · rename_i z
      have : bs.length ≠ 0 := by cases bs <;> simp_all
      rw [placeOf_host i (by omega)]
      have m : s.mayRequest (p0 va) (BitVec.ofNat 57 va) true = true := rfl
      simp only [m, Bool.not_true, Bool.false_eq_true, if_false, countAccess_host i (by omega : va < 65536)]
      exact vaWrite_host n _ _ _ (writePlace_host i _ (by rw [List.length_take]; omega)) (by rw [List.length_drop]; omega)

theorem putAt_host {a : BitVec 16} {s : State} (i : Host0 a s) (va : Nat) (bs : List Byte) (h : va + bs.length ≤ 65536) :
    ∃ u, s.putAt a va bs = some u ∧ Host0 a u := vaWrite_host _ va bs s i h

theorem length_leBytes : ∀ n x : Nat, (leBytes n x).length = n
  | 0, _ => rfl
  | n + 1, x => by simp [leBytes, length_leBytes n]
theorem length_flat {α β : Type} (f : α → List β) (k : Nat) : ∀ l : List α, (∀ a, (f a).length = k) → (l.flatMap f).length = k * l.length
  | [], _ => rfl
  | a :: l, h => by rw [List.flatMap_cons, List.length_append, h, length_flat f k l h, List.length_cons, Nat.mul_succ, Nat.add_comm]
theorem length_slotImage (s : State) (i : StrandId) (r : StopReq) (h : (s.ctx 0).regs = {}) : (s.slotImage 0 i r).length = 24576 := by
  have v (b : Bool) (n : Nat) : (vecBytes (Regs.vGet {} b (BitVec.ofNat 5 n))).length = 256 := by
    have : Regs.vGet {} b (BitVec.ofNat 5 n) = Vec.zero := by cases b <;> rfl
    rw [this, vecBytes, length_flat _ 4 _ fun _ => length_leBytes 4 _]; rfl
  simp only [State.slotImage, h, List.length_append, bitsLine, length_leBytes, partBytes, List.length_map, upto, List.length_range,
    State.savedSpecs, length_flat _ 8 _ fun _ => length_leBytes 8 _, length_flat _ 256 _ (v _)]

theorem read_add (m : MemSys) : ∀ a j k : Nat, m.read a (j + k) = m.read a j ++ m.read (a + j) k
  | a, 0, k => by rw [Nat.zero_add]; rfl
  | a, j + 1, k => by
    rw [Nat.add_right_comm, show a + (j + 1) = a + 1 + j by omega]
    exact congrArg _ (read_add m (a + 1) j k)
theorem vaRead_host {a : BitVec 16} {s : State} (i : Host0 a s) : ∀ fuel va n : Nat, n = 0 ∨ n + va % 64 ≤ 64 * fuel → va + n ≤ 65536 →
    s.vaRead a fuel va n = some (s.mem.read (hostMedia va) n) ∧ s.vaBlocked a false fuel va n = none
  | 0, va, n, h, _ => by obtain rfl : n = 0 := by omega
                         exact ⟨rfl, rfl⟩
  | fuel + 1, va, n, h, l => by
    by_cases z : n = 0
    · subst z; exact ⟨rfl, rfl⟩
    · have b : s.badPlace (p0 va) = false := by simp [State.badPlace, p0, MemSys.isBad, i.2.2.2.1, mget]
      have p := placeOf_host i (by omega : va < 65536) false
      obtain ⟨m, e⟩ : ∃ m, m = Nat.min n (64 - va % 64) := ⟨_, rfl⟩
      have e1 : m ≤ n ∧ (m = n ∨ m = 64 - va % 64) := by
        have e : m = min n (64 - va % 64) := e
        omega
      obtain ⟨r1, r2⟩ := vaRead_host i fuel (va + m) (n - m) (by omega) (by omega)
      have c := read_add s.mem (hostMedia va) m (n - m)
      rw [show m + (n - m) = n by omega, show hostMedia va + m = hostMedia (va + m) by unfold hostMedia; omega] at c
      have q : s.mayRequest (p0 va) (BitVec.ofNat 57 va) false = true := rfl
      have k : s.lineBlocked a false va = none := by simp only [State.lineBlocked, p, q, if_true]
      unfold State.vaRead State.vaBlocked
      simp only [z, p, k, ← e, r2, r1, b, q, c]
      exact ⟨rfl, rfl⟩
theorem bytesAt_host {a : BitVec 16} {s : State} (i : Host0 a s) (va n : Nat) (h : va + n ≤ 65536) :
    s.bytesAt a va n = some (s.mem.read (hostMedia va) n) := (vaRead_host i _ va n (by omega) h).1
theorem blocked_host {a : BitVec 16} {s : State} (i : Host0 a s) (va n : Nat) (h : va + n ≤ 65536) : s.blocked a false va n = none :=
  (vaRead_host i _ va n (by omega) h).2
theorem vaBlocked_write_host {a : BitVec 16} {s : State} (i : Host0 a s) : ∀ fuel va n : Nat, va + n ≤ 65536 → s.vaBlocked a true fuel va n = none
  | 0, _, _, _ => rfl
  | fuel + 1, va, n, l => by
    unfold State.vaBlocked
    by_cases z : n = 0
    · simp [z]
    · have k : s.lineBlocked a true va = none := by
        simp only [State.lineBlocked, placeOf_host i (by omega : va < 65536)]; rfl
      have e1 : Nat.min n (64 - va % 64) ≤ n := Nat.min_le_left _ _
      simp only [z, k, if_false]
      exact vaBlocked_write_host i fuel _ _ (by omega)
theorem blocked_write_host {a : BitVec 16} {s : State} (i : Host0 a s) (va n : Nat) (h : va + n ≤ 65536) : s.blocked a true va n = none :=
  vaBlocked_write_host i _ va n h
theorem read_length (m : MemSys) : ∀ n a, (m.read a n).length = n
  | 0, _ => rfl
  | n + 1, a => congrArg (· + 1) (read_length m n (a + 1))
theorem host0_of {s : State} (a : BitVec 16) (b : List (Nat × Byte)) (h : s.mem = mem a b)
    (w : (mem a b).walk a 0#57 = some 0x14#64 := by decide +kernel) : Host0 a s := by
  unfold Host0; rw [h]; exact ⟨rfl, rfl, rfl, rfl, rfl, w, rfl, rfl⟩
theorem host0_os {k : OpKind} {b : List (Nat × Byte)} {x : Head} {n : Nat} (h : (mem 0 b).walk 0#16 0#57 = some 0x14#64) :
    Host0 0#16 (os k b x n) := host0_of 0 b rfl h
theorem placeOf_os {k : OpKind} {b : List (Nat × Byte)} {x : Head} {n : Nat} (w : Bool)
    (h : (mem 0 b).walk 0#16 0#57 = some 0x14#64 := by decide +kernel) : (os k b x n).placeOf 0#16 0#57 w = some (p0 0) :=
  placeOf_host (va := 0) (host0_os h) (by decide) w
theorem mayReach_os {k : OpKind} {b : List (Nat × Byte)} {x : Head} {n : Nat} (o : Op) (w : Bool) (h : o.tenant = 0#16)
    (e : (mem 0 b).walk 0#16 0#57 = some 0x14#64 := by decide +kernel) : (os k b x n).mayReach o 0#57 w (p0 0) :=
  Or.inr ⟨rfl, h ▸ placeOf_os w e, rfl, fun _ e => by cases e⟩
theorem byteAt_host {a : BitVec 16} {s : State} (i : Host0 a s) {va : Nat} (h : va < 65536) :
    s.bytesAt a va 1 = some [s.mem.byte (hostMedia va)] := bytesAt_host i va 1 h
theorem countRead_host {a : BitVec 16} {s : State} (i : Host0 a s) (va n : Nat) (h : va + n ≤ 65536) : s.countRead a va n = s := by
  have f : ∀ l : List Nat, (∀ x ∈ l, va / 64 * 64 + 64 * x < 65536) → l.foldl (fun u x =>
      match u.placeOf a (BitVec.ofNat 57 (va / 64 * 64 + 64 * x)) false with
      | some p => if p.held then u else u.countAccess a (BitVec.ofNat 57 (va / 64 * 64 + 64 * x)) p
      | none => u) s = s := by
    intro l
    induction l with
    | nil => exact fun _ => rfl
    | cons x l ih =>
      intro m
      have hx := m x (List.mem_cons_self ..)
      simp only [List.foldl_cons, placeOf_host i hx]
      rw [countAccess_host i hx]
      exact ih fun y hy => m y (List.mem_cons_of_mem _ hy)
  unfold State.countRead
  split
  · rfl
  · exact f _ fun x m => by
      have : x < (va % 64 + n + 63) / 64 := by simpa [upto] using m
      omega
theorem ne_waits {x : Option Blocked} (h : x = none) : x ≠ some .waits := h ▸ nofun
theorem some_of {α : Type} {x : Option α} (h : x.isSome = true) : ∃ a, x = some a := Option.isSome_iff_exists.mp h

theorem witness_ScalarResults : ∃ (a b : Src) (s : State), s.full [srcOf a 0, srcOf b 1] ∧ s.full [srcOf a 0] :=
  ⟨⟨1#6, true⟩, ⟨63#6, false⟩, r0, full_dec rfl, full_dec rfl⟩

theorem witness_CompareAndSelectResults : ∃ (a b : Src) (c n : BitVec 6) (m : BitVec 3) (s : State),
    s.full [srcOf a 0, srcOf b 1] ∧ s.full [srcOf a 0] ∧ n.toNat < 6 ∧ m.toNat < 6 ∧ s.full [srcOf a 0, srcOf b 1, ⟨sReg c, false, 3⟩] :=
  ⟨⟨1#6, false⟩, ⟨2#6, false⟩, 3#6, 5#6, 5#3, r0, full_dec rfl, full_dec rfl, by decide, by decide, full_dec rfl⟩
theorem witness_SelYields : ∃ (a b : Src) (c : BitVec 6) (s : State), s.full [srcOf a 0, srcOf b 1] ∧ s.issue.regs.isEmpty (sReg c) = true :=
  ⟨⟨2#6, false⟩, ⟨3#6, false⟩, 1#6, { issue := { regs := { emptyS := 2 } } }, full_dec rfl, rfl⟩

theorem witness_ResultLandsAfterItsLatency :
    (∃ (n : RegName) (v : RegVal), realReg n ∧ v.fits n ∧ n.discards = true)
    ∧ ∃ (s : State) (n : RegName) (l u : Nat) (v : RegVal), realReg n ∧ v.fits n ∧ n.discards = false ∧ s.now + l ≤ u
      ∧ ∃ w, w < s.now + l ∧ ∀ p ∈ s.cur.flight, p.tag ≠ s.nextOp :=
  ⟨⟨sReg 0#6, .word 0#64, by unfold realReg; decide, Or.inl rfl, rfl⟩,
    r0, vReg true 31#5, 1, 1, .lanes Vec.zero, by unfold realReg; decide, Or.inr rfl, rfl, by decide, 0, by decide, fun p h => by cases h⟩

/-- s1 empty. -/
def e1 : State := { issue := { regs := { emptyS := 2 } } }
theorem witness_EmptySourceTrapsOrYields :
    (∃ (a : Src) (s : State), s.issue.regs.isEmpty (sReg a.reg) = true ∧ a.pol = true)
    ∧ (∃ (a b : Src) (s : State), (s.issue.regs.isEmpty (sReg a.reg) = false ∨ a.pol = false)
      ∧ s.issue.regs.isEmpty (sReg b.reg) = true ∧ b.pol = true)
    ∧ ∃ (a b : Src) (s : State), (s.issue.regs.isEmpty (sReg a.reg) = true ∨ s.issue.regs.isEmpty (sReg b.reg) = true)
      ∧ (s.issue.regs.isEmpty (sReg a.reg) = true → a.pol = false) ∧ (s.issue.regs.isEmpty (sReg b.reg) = true → b.pol = false) :=
  ⟨⟨⟨1#6, true⟩, e1, rfl, rfl⟩, ⟨⟨1#6, false⟩, ⟨1#6, true⟩, e1, Or.inr rfl, rfl, rfl⟩,
    ⟨1#6, false⟩, ⟨2#6, true⟩, e1, Or.inl rfl, fun _ => rfl, fun h => by cases h⟩

theorem witness_ControlTransfersSetPc : ∃ (a : Src) (c d : BitVec 3) (s : State), s.full [srcOf a 0] ∧ c.toNat < 6 ∧ d.toNat = 6 :=
  ⟨⟨1#6, false⟩, 5#3, 6#3, r0, full_dec rfl, by decide, rfl⟩

/-- A context with a handler at 7, outside it or inside it. -/
def hs (h : Bool) : State := { ctxs := [(0, { sr := { xvec := 7#16 }, hact := h })] }
theorem witness_TrapEntersOrStops :
    (∃ (s : State) (c : BitVec 8), strandFirst c = true ∧ s.hasExited s.curStrand = false ∧ s.cur.sr.xvec ≠ 0#16 ∧ s.cur.hact = false)
    ∧ (∃ (s : State) (c : BitVec 8), s.hasExited s.curStrand = false ∧ strandFirst c = false)
    ∧ (∃ s : State, s.hasExited s.curStrand = false ∧ s.cur.sr.xvec = 0#16)
    ∧ ∃ s : State, s.hasExited s.curStrand = false ∧ s.cur.hact = true :=
  ⟨⟨hs false, 0x38#8, rfl, rfl, by decide, rfl⟩, ⟨hs false, 0x3F#8, rfl, rfl⟩, ⟨r0, rfl, rfl⟩, hs true, rfl, rfl⟩

/-- A latch at PL 1, or in a handler, with SLOTRES, SNAPV, and a snapshot taken at PC 3. -/
def rs (pl : BitVec 2) (slot : BitVec 3) (v : Bool) (xpc : BitVec 16) : State :=
  { issue := { sr := { pl := pl, slotres := slot, snapv := v, xpc := xpc } }
    ctxs := [(0, { hact := true, snap := some ⟨{}, none, 3#16⟩ })] }
theorem witness_TrapAndReturnFromTrap :
    (∃ s : State, s.issue.sr.pl ≠ 0#2 ∧ s.issue.sr.slotres = 7#3)
    ∧ (∃ s : State, s.cur.hact = true ∧ s.issue.sr.slotres ≠ 7#3 ∧ s.issue.sr.snapv = false)
    ∧ (∃ (s : State) (p : Snapshot), s.cur.hact = true ∧ s.issue.sr.slotres ≠ 7#3 ∧ s.issue.sr.snapv = true ∧ s.cur.snap = some p
      ∧ p.pc = s.issue.sr.xpc)
    ∧ (∃ (s : State) (p : Snapshot), s.cur.hact = true ∧ s.issue.sr.snapv = true ∧ s.cur.snap = some p ∧ p.pc ≠ s.issue.sr.xpc)
    ∧ ∃ s : State, s.issue.sr.pl = 0#2 ∧ s.cur.hact = false :=
  ⟨⟨rs 1 7 false 0, by decide, rfl⟩, ⟨rs 0 2 false 0, rfl, by decide, rfl⟩, ⟨rs 0 2 true 3, _, rfl, by decide, rfl, rfl, rfl⟩,
    ⟨rs 0 2 true 4, _, rfl, rfl, rfl, by decide⟩, r0, rfl, rfl⟩

/-- Context 0 selects view v of head 15 of core 0, with one of its commands outstanding when `busy`; s1 and PL 1. -/
def hv (v : BitVec 2) (busy : Bool) (x : Word) : State :=
  { issue := { (lat [(1#6, x)]).issue with sr := { pl := 1 } }, ctxs := [(0, { hview := [(15, v)] })]
    ops := if busy then [{ id := 0, core := 0, owner := ⟨1, 0⟩, tenant := 0#16, kind := .hpos 15 0 }] else [], nextOp := 1 }
theorem witness_HstateWrites :
    (∃ (a : Src) (s : State), s.full [srcOf a 0] ∧ s.issue.sr.pl ≠ 0#2 ∧ (s.sVal a).getLsbD 63 = true)
    ∧ (∀ v : BitVec 2, ∃ (a : Src) (s : State), s.full [srcOf a 0] ∧ s.issue.sr.pl ≠ 0#2 ∧ (s.sVal a).getLsbD 63 = false
      ∧ mget 0#2 s.cur.hview 15 = v ∧ s.headOps s.curCore 15 ≠ [])
    ∧ ∀ (v : BitVec 2) (p : Bool), ∃ (a : Src) (s : State), s.full [srcOf a 0] ∧ s.issue.sr.pl ≠ 0#2 ∧ (s.sVal a).getLsbD 63 = false
      ∧ mget 0#2 s.cur.hview 15 = v ∧ s.headOps s.curCore 15 = [] ∧ (s.sVal a).getLsbD 6 = p :=
  ⟨⟨⟨1#6, false⟩, hv 0 false 0x8000000000000003, full_dec rfl, by decide, rfl⟩,
    fun v => ⟨⟨1#6, false⟩, hv v true 0x40, full_dec (by decide +revert), by decide +revert⟩,
    fun v p => ⟨⟨1#6, false⟩, hv v false (if p then 0x7F else 0x3F), full_dec (by decide +revert), by decide +revert⟩⟩

/-- s1 and PL of a latch. -/
def wl (v : Word) (pl : BitVec 2) : State := { issue := { (lat [(1#6, v)]).issue with sr := { pl := pl } } }
theorem witness_SpecialRegisterWrites :
    (∃ (a : Src) (s : State), s.full [srcOf a 0] ∧ s.issue.sr.pl ≠ 0#2 ∧ ((s.sVal a).extractLsb' 0 2).toNat < 2
      ∧ ((s.sVal a).extractLsb' 16 5).toNat < 24 ∧ ((s.sVal a).extractLsb' 5 3).toNat ≤ 4)
    ∧ (∃ (a : Src) (s : State), s.full [srcOf a 0] ∧ s.issue.sr.pl ≠ 0#2 ∧ 4 < ((s.sVal a).extractLsb' 5 3).toNat
      ∧ 2 ≤ ((s.sVal a).extractLsb' 0 2).toNat ∧ 24 ≤ ((s.sVal a).extractLsb' 16 5).toNat)
    ∧ (∃ (a : Src) (s : State), s.full [srcOf a 0] ∧ s.issue.sr.pl = 0#2 ∧ (s.sVal a).extractLsb' 0 2 ≠ 0#2)
    ∧ (∃ (a : Src) (s : State), s.full [srcOf a 0] ∧ s.issue.sr.pl = 0#2 ∧ (s.sVal a).extractLsb' 16 5 ≠ s.issue.sr.prio)
    ∧ ∃ (a : Src) (s : State), s.full [srcOf a 0] ∧ s.issue.sr.pl = 0#2 ∧ (s.sVal a).extractLsb' 0 2 = 0#2
      ∧ (s.sVal a).extractLsb' 16 5 = s.issue.sr.prio := by
  exact ⟨⟨⟨1#6, false⟩, wl 0x170081 1, full_dec rfl, by decide⟩, ⟨⟨1#6, false⟩, wl 0x1800A2 1, full_dec rfl, by decide⟩,
    ⟨⟨1#6, false⟩, wl 1 0, full_dec rfl, by decide⟩, ⟨⟨1#6, false⟩, wl 0x10000 0, full_dec rfl, by decide⟩,
    ⟨1#6, false⟩, wl 0 0, full_dec rfl, by decide⟩

theorem witness_SettleOrdersTheStrandsAccesses :
    (∃ (k : BitVec 2) (s : State), k ≠ 0#2 ∧ ∀ o : Op, ¬(o ∈ s.ops ∧ o.owner = s.curStrand ∧ o.kind.standsStopped = false))
    ∧ (∃ (k : BitVec 2) (c : BitVec 4) (s : State) (o : Op), k ≠ 0#2 ∧ k ≠ 2#2 ∧ (c = 6#4 ∨ c = 8#4) ∧ o ∈ s.ops ∧ o.owner = s.curStrand
      ∧ o.kind.standsStopped = false ∧ o.id < s.nextOp ∧ s.peerWrite o = true)
    ∧ ∃ (k : BitVec 2) (s : State) (d : BitVec 7) (o : Op), k ≠ 0#2 ∧ k ≠ 1#2 ∧ o ∈ s.ops ∧ o.owner = s.curStrand
      ∧ o.kind.standsStopped = false ∧ o.domains &&& d ≠ 0#7 ∧ (k = 3#2 ∨ k = 1#2 ∧ o.kind.isWrite = true ∨ k = 2#2 ∧ o.kind.isRead = true) :=
  ⟨⟨1#2, r0, by decide, fun o h => by cases h.1⟩,
    ⟨1#2, 8#4, { js [] with ops := [{ op0 (.xfer true 0 0 64 none false 0 0) with parked := some (0#57, true) }], nextOp := 1 }, _, by decide, by decide,
      Or.inr rfl, List.mem_singleton.mpr rfl, rfl, rfl, by decide, by decide +kernel⟩,
    3#2, { js [] with ops := [{ op0 .ttnext with domains := 64#7 }], nextOp := 1 }, 64#7, _, by decide, by decide,
      List.mem_singleton.mpr rfl, rfl, rfl, by decide, Or.inl rfl⟩

/-- A strand of job 1 whose core binds barrier 5 to y. -/
def bs (v : Word) (y : Nat × Nat) : State := { js [(1#6, v)] with
  ctxs := [(0, { strand := some ⟨1, 0⟩, syncAt := some 0#16, waitAt := [(0#16, 0, 1)] })], nets := [{ bar := 5, job := 1, group := 0, phc := 1 }]
  cores := [(0, { bars := [(5, y)] })] }
theorem witness_BarriersArriveAndWait :
    (∃ (bar : BitVec 7) (a : Src) (s : State) (x : Group), s.full [srcOf a 0]
      ∧ s.groupOf s.curStrand ((s.sVal a).extractLsb' 0 8).toNat = some x ∧ s.binding s.curCore bar.toNat = none
      ∧ s.cur.syncAt ≠ some s.issue.pcb ∧ s.cur.waitAt.filter (fun y => y.1 == s.issue.pcb && y.2.1 == s.issue.slot) = [] ∧ (BitVec.ofNat 32 (s.net bar.toNat 1 0).phc - (s.sVal a).extractLsb' 32 32).toNat < 2 ^ 31)
    ∧ (∃ (bar : BitVec 7) (a : Src) (s : State) (x : Group), s.full [srcOf a 0]
      ∧ s.groupOf s.curStrand ((s.sVal a).extractLsb' 0 8).toNat = some x
      ∧ s.binding s.curCore bar.toNat = some (s.curStrand.seq, ((s.sVal a).extractLsb' 0 8).toNat) ∧ s.cur.syncAt = some s.issue.pcb
      ∧ 2 ^ 31 ≤ (BitVec.ofNat 32 (s.net bar.toNat 1 0).phc - (s.sVal a).extractLsb' 32 32).toNat
      ∧ mget 0 (s.net bar.toNat 1 0).arrivals 0 ≤ (s.net bar.toNat 1 0).phc
      ∧ ∃ y l, s.cur.waitAt.filter (fun y => y.1 == s.issue.pcb && y.2.1 == s.issue.slot) = y :: l ∧ y.2.2 ≤ (s.net bar.toNat 1 0).phc)
    ∧ (∃ (a : Src) (s : State), s.full [srcOf a 0] ∧ s.groupOf s.curStrand ((s.sVal a).extractLsb' 0 8).toNat = none)
    ∧ ∃ (bar : BitVec 7) (a : Src) (s : State) (y : Nat × Nat), s.full [srcOf a 0] ∧ s.binding s.curCore bar.toNat = some y
      ∧ y ≠ (s.curStrand.seq, ((s.sVal a).extractLsb' 0 8).toNat) := by
  exact ⟨⟨95#7, ⟨1#6, false⟩, js [(1#6, 0)], ⟨1, false, [0]⟩, full_dec rfl, rfl, rfl, by decide, rfl, by decide⟩,
    ⟨5#7, ⟨1#6, false⟩, bs 0x200000000 (1, 0), ⟨1, false, [0]⟩, full_dec rfl, rfl, rfl, rfl, by decide, by decide, _, _, rfl, by decide⟩,
    ⟨⟨1#6, false⟩, js [(1#6, 1)], full_dec rfl, rfl⟩, 5#7, ⟨1#6, false⟩, bs 0 (2, 0), (2, 0), full_dec rfl, rfl, by decide⟩

/-- The strand has an overlay. -/
def ov : State := { js [] with ctxs := [(0, { strand := some ⟨1, 0⟩, overlay := some {} })] }
theorem witness_ChildAndStrandRequests :
    (∃ (d : BitVec 6) (a : Src) (s : State), d ≠ 0#6 ∧ s.full [srcOf a 0] ∧ s.recordsUsed s.curCore < 64)
    ∧ (∃ s : State, ∀ o ∈ s.ops, o.owner = s.curStrand → ∀ va, o.kind ≠ .ifenceLoad va)
    ∧ (∃ (s : State) (j : Job) (x : Strand), findJob s.curStrand.seq s.jobs = some j ∧ s.hasTriggered s.curStrand = false
      ∧ s.strand s.curStrand = some x)
    ∧ (∃ s : State, s.hasTriggered s.curStrand = true)
    ∧ ∃ (a : Src) (s : State) (r : Ranges), s.full [srcOf a 0] ∧ (∀ o ∈ s.ops, o.owner = s.curStrand → ∀ va, o.kind ≠ .ifenceLoad va)
      ∧ r = s.cur.kernel ∧ s.cur.overlay = some r :=
  ⟨⟨63#6, ⟨1#6, false⟩, js [], by decide, full_dec rfl, by decide⟩, ⟨js [], fun o h => by cases h⟩, ⟨js [], _, _, rfl, rfl, rfl⟩,
    ⟨{ js [] with jobs := [{ jb with strands := [{ st := .resident 0, triggered := true }] }] }, rfl⟩,
    ⟨1#6, false⟩, ov, {}, full_dec rfl, (fun _ h => nomatch h),
      rfl, rfl⟩

/-- A vector instruction of type ty with operands 1, 2 and 3 and mask 4. -/
def vr (ty : BitVec 4) : VR := ⟨1, 1, false, 2, false, 3, false, 4, ty, 4, false, false, false, 0⟩

theorem witness_VectorBitLanes : ∃ (o : VR) (s : State), s.full (s.vrSources o 1) ∧ s.full (s.vrSources o 2)
    ∧ s.full (s.vrSources o 2 ++ [⟨mReg (o.vc.setWidth 4), false, 2⟩]) ∧ s.full (s.vrSources o 0)
    ∧ s.full [⟨vReg (!s.clusterB) o.va, o.pa, 0⟩, ⟨mReg o.msk, false, 3⟩] :=
  ⟨vr 1, r0, full_dec rfl, full_dec rfl, full_dec rfl, full_dec rfl, full_dec rfl⟩

theorem witness_VectorIntegerLanes : ∀ ty : BitVec 4, ty = 1#4 ∨ ty = 2#4 → ∃ (o : VR) (s : State), o.ty = ty
    ∧ s.full (s.vrSources o 1) ∧ s.full (s.vrSources o 2) ∧ s.full (s.vrSources o 3) :=
  fun ty h => by rcases h with rfl | rfl <;> exact ⟨vr _, r0, rfl, full_dec rfl, full_dec rfl, full_dec rfl⟩

/-- Every mask bit of m4 set, and FCTL. -/
def vs (v : Vec) (fctl : BitVec 8) : State :=
  { issue := { regs := ({} : Regs).write (vReg false 1) (.lanes v), sr := { fctl := fctl } } }
theorem witness_VectorFloatLanes :
    (∃ (o : VR) (s : State), o.ty = 0#4 ∧ s.full (s.vrSources o 1) ∧ s.full (s.vrSources o 2) ∧ s.full (s.vrSources o 3)
      ∧ ∀ (f : Nat → Flags) (i : Nat), ¬(i < 64 ∧ f i &&& s.issue.sr.fctl.setWidth 5 ≠ 0#5))
    ∧ ∃ (o : VR) (s : State), o.ty = 0#4 ∧ s.full (s.vrSources o 2) ∧ (s.mVal o.msk).getLsbD 0 = true
      ∧ (wr ((rd o.zi (lane (s.vrA o) 0)).div (rd o.zi (lane (s.vrB o) 0))) o.rm.toNat 0 o.sat o.zo).2
        &&& s.issue.sr.fctl.setWidth 5 ≠ 0#5 :=
  ⟨⟨vr 0, r0, rfl, full_dec rfl, full_dec rfl, full_dec rfl, fun f i h => by simpa [State.reset] using h.2⟩,
    ⟨1, 1, false, 2, false, 3, false, 0, 0, 0, false, false, false, 0⟩, vs (lanesOf fun _ => 0x3F800000) 31, rfl, full_dec rfl,
      by decide, by decide⟩

theorem witness_FloatSignAndExtremes : ∃ (o : VR) (s : State), o.ty = 0#4 ∧ o.zi = false ∧ s.full (s.vrSources o 1)
    ∧ s.full (s.vrSources o 2) := ⟨vr 0, r0, rfl, rfl, full_dec rfl, full_dec rfl⟩

theorem witness_RoundingKeepsF32Values : ∃ x : BitVec 32, isNan32 x = false := ⟨0x7F800000, by decide⟩

/-- Queue 3 of core 0 holds one entry. -/
def qs : State := { cores := [(0, { queues := [(3, [Vec.zero])] })] }
theorem witness_MasksLanesAndQueues :
    (∃ (o p : VR) (va : BitVec 5) (pa : Bool) (mk : BitVec 4) (q : BitVec 3) (s : State), (o.ty = 1#4 ∨ o.ty = 2#4) ∧ s.full (s.vrSources o 2)
      ∧ p.ty = 0#4 ∧ s.full (s.vrSources p 2) ∧ s.full [⟨vReg s.clusterB va, pa, 0⟩] ∧ s.full [⟨mReg mk, false, 3⟩]
      ∧ s.full ((if s.issue.ximm.isSome then [] else [⟨vReg s.clusterB va, pa, 0⟩]) ++ [⟨mReg mk, false, 3⟩])
      ∧ ∃ e l, s.queue q = e :: l)
    ∧ ∃ (mk : BitVec 4) (q : BitVec 3) (s : State), s.full [⟨mReg mk, false, 3⟩] ∧ s.queue q = [] :=
  ⟨⟨vr 2, vr 0, 31#5, true, 15#4, 3#3, qs, Or.inr rfl, full_dec rfl, rfl, full_dec rfl, full_dec rfl, full_dec rfl, full_dec rfl, _, _, rfl⟩,
    15#4, 7#3, r0, full_dec rfl, rfl⟩

theorem nth_replicate : ∀ m n : Nat, nth 0#32 (List.replicate m 0#32) n = 0#32
  | 0, _ => rfl
  | _ + 1, 0 => rfl
  | m + 1, n + 1 => nth_replicate m n
/-- A cross-lane instruction of type ty on va1 under m4, rounding to nearest. -/
def cr (ty : BitVec 4) : VR := ⟨1, 1, false, 0, false, 0, false, 4, ty, 0, false, false, false, 0⟩
/-- va1, m4 and FCTL of a latch. -/
def cl (v : Vec) (m : Word) (fctl : BitVec 8) : State :=
  { issue := { regs := (({} : Regs).write (vReg false 1) (.lanes v)).write (mReg 4) (.word m), sr := { fctl := fctl } } }
/-- The flags of the six levels of a tree of f32 lanes. -/
def treeFlags (o : VR) (s : State) : Flags :=
  let m := s.mVal o.msk
  let plus (x y : Lane) : Lane × Flags := wr ((rd false x).add o.rm.toNat (rd false y)) o.rm.toNat 0 o.sat o.zo
  let level (k : Nat) : Nat → Lane := (List.range k).foldl (fun v _ j => (plus (v (2 * j)) (v (2 * j + 1))).1)
    fun i => if m.getLsbD i then lane (s.vrA o) i else 0x80000000#32
  ((List.range 6).flatMap fun k => (List.range (32 / 2 ^ k)).map fun j => (plus (level k (2 * j)) (level k (2 * j + 1))).2).foldl
    (fun x y => x ||| y) 0#5
/-- Infinity in the even lanes, its negative in the odd ones. -/
def infs : Vec := lanesOf fun i => if i % 2 = 0 then 0x7F800000#32 else 0xFF800000#32
theorem witness_CrossLaneResults :
    (∀ ty : BitVec 4, ty.toNat ≤ 2 → ∃ (o : VR) (s : State), o.ty = ty ∧ s.full (s.vrSources o 1)
      ∧ (∀ f : Flags, ¬(f &&& s.issue.sr.fctl.setWidth 5 ≠ 0#5)) ∧ (List.range 64).filter (fun i => (s.mVal o.msk).getLsbD i) = [])
    ∧ (∃ (o : VR) (s : State) (i : Nat), o.ty = 0#4 ∧ o.zi = false ∧ s.full (s.vrSources o 1)
      ∧ ((List.range 64).filter fun i => (s.mVal o.msk).getLsbD i).head? = some i ∧ treeFlags o s &&& s.issue.sr.fctl.setWidth 5 ≠ 0#5)
    ∧ (∃ (o : VR) (s : State) (i : Nat), o.ty = 0#4 ∧ s.full (s.vrSources o 1)
      ∧ i ∈ (List.range 64).filter (fun i => (s.mVal o.msk).getLsbD i)
      ∧ 0x7F800000 < (lane (s.vrA o) i &&& 0x7FFFFFFF#32).toNat)
    ∧ (∀ ty : BitVec 4, ty.toNat ≤ 2 → ∃ (o : VR) (s : State) (k : Nat), o.ty = ty ∧ s.full (s.vrSources o 1)
      ∧ (List.range 64).filter (fun i => (s.mVal o.msk).getLsbD i) = [k] ∧ ¬0x7F800000 < (lane (s.vrA o) k &&& 0x7FFFFFFF#32).toNat)
    ∧ ∃ (o : VR) (s : State), o.ty = 0#4 ∧ s.full (s.vrSources o 1) ∧ (List.range 64).filter (fun i => (s.mVal o.msk).getLsbD i) = [0, 1]
      ∧ (wr (rd o.zi (lane (s.vrA o) 0), 0#5) o.rm.toNat 0 o.sat o.zo).2 = 0#5
      ∧ (wr ((rd false (wr (rd o.zi (lane (s.vrA o) 0), 0#5) o.rm.toNat 0 o.sat o.zo).1).add o.rm.toNat (rd false (lane (s.vrA o) 1))) o.rm.toNat 0
          o.sat o.zo).2 &&& s.issue.sr.fctl.setWidth 5 ≠ 0#5 := by
  refine ⟨fun ty h => ⟨cr ty, cl infs 0 0, rfl, full_dec (by show ((cl infs 0 0).vrSources (cr 0) 1).all _ = true; decide +kernel), fun f h => h (by simp [cl]), by
      show (List.range 64).filter (fun i => ((cl infs 0 0).mVal 4#4).getLsbD i) = []; decide +kernel⟩,
    ⟨cr 0, cl infs 3 31, 0, rfl, rfl, full_dec rfl, by decide +kernel, by decide +kernel⟩,
    ⟨cr 0, cl (lanesOf fun _ => 0x7FC00000#32) 3 0, 1, rfl, full_dec rfl, by decide +kernel, by decide +kernel⟩,
    fun ty h => ⟨cr ty, cl infs 2 0, 1, rfl, full_dec (by show ((cl infs 2 0).vrSources (cr 0) 1).all _ = true; decide +kernel),
      by show (List.range 64).filter (fun i => ((cl infs 2 0).mVal 4#4).getLsbD i) = [1]; decide +kernel,
      by show ¬2139095040 < (lane ((cl infs 2 0).vrA (cr 0)) 1 &&& 2147483647#32).toNat; decide +kernel⟩,
    ⟨cr 0, cl infs 3 31, rfl, full_dec rfl, by decide +kernel, by decide +kernel, by decide +kernel⟩⟩

theorem witness_VectorConversions :
    (∀ x : Nat × Nat × Nat, x ∈ [(0x32, 0x33, 0), (0x30, 0x32, 1), (0x32, 0x20, 3), (0x01, 0x02, 3)] → ∃ (o : VCvt) (s : State) (sf df : Fmt),
      o.sf.toNat = x.1 ∧ o.df.toNat = x.2.1 ∧ o.part.toNat = x.2.2 ∧ Fmt.ofCode o.sf.toNat = some sf ∧ Fmt.ofCode o.df.toNat = some df
      ∧ (∀ f ∈ [sf, df], f.width < 32 → o.part.toNat < 32 / f.width) ∧ (sf.width = 32 → df.width = 32 → o.part = 0#3)
      ∧ s.full [⟨vReg s.clusterB o.va, o.pa, 0⟩, ⟨mReg o.msk, false, 3⟩]
      ∧ ∀ (f : Nat → Flags) (i : Nat), f i &&& s.issue.sr.fctl.setWidth 5 = 0#5)
    ∧ ∃ (o : VCvt) (s : State) (sf df : Fmt), Fmt.ofCode o.sf.toNat = some sf ∧ Fmt.ofCode o.df.toNat = some df ∧ sf.width = 32 ∧ df.width = 8
      ∧ (s.mVal o.msk).getLsbD 0 = true
      ∧ (roundTo (sf.decZi o.zi (lane (s.vVal s.clusterB o.va) 0).toNat) df o.rm.toNat 0 o.sat o.zo).2 &&& s.issue.sr.fctl.setWidth 5 ≠ 0#5 := by
  refine ⟨fun x h => ?_, ⟨1, 1, false, 4, 0x32, 0x01, 0, false, false, false, 0⟩, cl (lanesOf fun _ => 0x7F7FFFFF#32) 1 31, _, _, rfl, rfl, rfl, rfl,
    by decide +kernel, by decide +kernel⟩
  simp only [List.mem_cons, List.not_mem_nil, or_false] at h
  rcases h with rfl | rfl | rfl | rfl
  · exact ⟨⟨1, 2, false, 0, 0x32, 0x33, 0, false, false, false, 0⟩, r0, _, _, rfl, rfl, rfl, rfl, rfl, by decide, by decide, full_dec rfl,
      fun f i => by simp [State.reset]⟩
  · exact ⟨⟨1, 2, false, 0, 0x30, 0x32, 0, false, false, false, 1⟩, r0, _, _, rfl, rfl, rfl, rfl, rfl, by decide, by decide, full_dec rfl,
      fun f i => by simp [State.reset]⟩
  · exact ⟨⟨1, 2, false, 0, 0x32, 0x20, 0, false, false, false, 3⟩, r0, _, _, rfl, rfl, rfl, rfl, rfl, by decide, by decide, full_dec rfl,
      fun f i => by simp [State.reset]⟩
  · exact ⟨⟨1, 2, false, 0, 0x01, 0x02, 0, false, false, false, 3⟩, r0, _, _, rfl, rfl, rfl, rfl, rfl, by decide, by decide, full_dec rfl,
      fun f i => by simp [State.reset]⟩

theorem witness_LocalLoadsReadTheScratchpad :
    (∃ (vi : VSrc) (a : Src) (ty : BitVec 3) (off : BitVec 16) (mode : BitVec 2) (mx : BitVec 4) (s : State), s.full [srcOf a 0]
      ∧ ty ≠ 7#3 ∧ (s.sVal a + off.signExtend 64).toNat % 0x4000000 / 2 ^ (ty.toNat / 2) * 2 ^ (ty.toNat / 2) < 0x2000000
      ∧ (∀ l c, s.lReadBlocked s.curCore l c = false) ∧ (∀ r, (s.core s.curCore).isPacked r = false) ∧ mode ≠ 3#2
      ∧ mode = 0#2 ∧ (s.sVal a).getLsbD 25 = false
      ∧ s.full [srcOf a 0, ⟨vReg6 vi.reg, vi.pol, 1⟩, ⟨mReg mx, false, 3⟩]
      ∧ ∀ i, ¬((s.core s.curCore).tagEntry i).valid = true)
    ∧ ∃ (a : Src) (s : State) (i : Nat), s.full [srcOf a 0] ∧ i < 256 ∧ ((s.core s.curCore).tagEntry i).valid = true
      ∧ ((s.core s.curCore).tagEntry i).key = (s.sVal a).setWidth 63 ∧ ((s.core s.curCore).tagEntry i).tenant = s.tenantOf s.curStrand
      ∧ ∀ j, j < i → ((s.core s.curCore).tagEntry j).key ≠ (s.sVal a).setWidth 63 :=
  ⟨⟨⟨63#6, false⟩, ⟨1#6, false⟩, 6#3, 0x7FFF#16, 0#2, 15#4, lat [(1#6, 0x1FF8000)], full_dec rfl, by decide, by decide,
      (fun _ c => by cases c <;> rfl), fun _ => rfl, by decide, rfl, by decide, full_dec rfl, by intro i h; cases h⟩,
    ⟨1#6, false⟩, { lat [(1#6, 9)] with cores := [(0, { tags := [(1, ⟨true, 9, 0⟩)] })] }, 1, full_dec rfl, by decide, rfl, rfl, rfl,
      fun j h => by obtain rfl : j = 0 := by omega
                    decide⟩

theorem witness_LocalStoresWriteTheirBytes :
    (∃ (v : Src) (vv vi : VSrc) (a : Src) (ty : BitVec 3) (off : BitVec 16) (mode : BitVec 2) (mx : BitVec 4) (s : State),
      s.full [srcOf a 0, srcOf v 3] ∧ ty ≠ 7#3
      ∧ (s.sVal a + off.signExtend 64).toNat % 0x4000000 / 2 ^ (ty.toNat / 2) * 2 ^ (ty.toNat / 2) < 0x2000000
      ∧ (∀ l c, s.lWriteBlocked s.curCore l c = false) ∧ s.full [srcOf a 0, ⟨vReg6 vv.reg, vv.pol, 3⟩] ∧ mode ≠ 3#2
      ∧ (s.sVal a).getLsbD 25 = false
      ∧ s.full [srcOf a 0, ⟨vReg6 vi.reg, vi.pol, 1⟩, ⟨vReg6 vv.reg, vv.pol, 3⟩, ⟨mReg mx, false, 3⟩] ∧ s.full [srcOf a 0, srcOf v 1])
    ∧ (∃ (q : BitVec 3) (a : Src) (s : State), s.full [srcOf a 0] ∧ (∃ e l, s.queue q = e :: l)
      ∧ ∀ l c, s.lWriteBlocked s.curCore l c = false)
    ∧ ∃ (o : FillF) (s : State), s.full ([srcOf o.a 0, srcOf o.b 1] ++ if o.bps then [] else [srcOf o.c 2]) ∧ o.mode ≠ 3#2
      ∧ (s.sVal o.b).toNat / 256 % 64 + (s.sVal o.b).toNat % 128 ≤ 64 ∧ ∀ l c, s.lWriteBlocked s.curCore l c = false :=
  ⟨⟨⟨2#6, false⟩, ⟨1#6, false⟩, ⟨33#6, true⟩, ⟨1#6, false⟩, 6#3, 7#16, 2#2, 15#4, lat [(1#6, 0x1FFFFF8)], full_dec rfl, by decide, by decide,
      (fun _ c => by cases c <;> rfl), full_dec rfl, by decide, by decide, full_dec rfl, full_dec rfl⟩,
    ⟨3#3, ⟨1#6, false⟩, qs, full_dec rfl, ⟨_, _, rfl⟩, fun _ c => by cases c <;> rfl⟩,
    ⟨⟨1#6, false⟩, ⟨2#6, false⟩, ⟨3#6, false⟩, 1#2, false⟩, lat [(2#6, 0x3F01)], full_dec rfl, by decide, by decide, fun _ c => by cases c <;> rfl⟩

/-- A transfer that reads, and one that writes, the first 64 bytes of the scratchpad. -/
def rd0 : State := { js [] with ops := [{ op0 (.hmove 0) with reads := [⟨0, 64⟩] }], nextOp := 1 }
def wr0 : State := { js [] with ops := [{ op0 (.hmove 0) with writes := [⟨0, 64⟩] }], nextOp := 1 }
theorem witness_LocalAccessesYieldOrTrap :
    (∃ (v a : Src) (ty : BitVec 3) (s : State), ty ≠ 7#3 ∧ (s.sVal a).toNat < 0x2000000 ∧ s.full [srcOf a 0] ∧ s.full [srcOf a 0, srcOf v 3]
      ∧ s.lReadBlocked s.curCore [⟨0, 2 ^ (ty.toNat / 2)⟩] true = true ∧ s.lWriteBlocked s.curCore [⟨0, 2 ^ (ty.toNat / 2)⟩] true = true)
    ∧ (∃ (a : Src) (s : State), s.full [srcOf a 0] ∧ s.lReadBlocked s.curCore [⟨0, 8⟩] true = false
      ∧ (s.core s.curCore).isPacked ⟨0, 8⟩ = true)
    ∧ ∃ (o : FillF) (s : State), s.full ([srcOf o.a 0, srcOf o.b 1] ++ if o.bps then [] else [srcOf o.c 2])
      ∧ 64 < (s.sVal o.b).toNat / 256 % 64 + (s.sVal o.b).toNat % 128 :=
  ⟨⟨⟨2#6, false⟩, ⟨1#6, false⟩, 0#3, wr0, by decide, by decide, full_dec rfl, full_dec rfl, by decide, by decide⟩,
    ⟨⟨1#6, false⟩, { cores := [(0, { packed := [⟨0, 1, 1, none⟩] })] }, full_dec rfl, rfl, by decide⟩,
    ⟨⟨1#6, false⟩, ⟨2#6, false⟩, ⟨3#6, false⟩, 0#2, true⟩, lat [(2#6, 0x3F02)], full_dec rfl, by decide⟩

/-- An XFORM with its card in s1, its source at s2, its destination at s3 and its size in s4. -/
abbrev xregs (card dst n : Word) : List (BitVec 6 × Word) := [(1#6, card), (3#6, dst), (4#6, n)]
/-- The same, with n jobs of the core outstanding and granules 0 of the scratchpad packed when `pk`. -/
def xs (card dst len : Word) (n : Nat) (pk : Bool) : State :=
  { js (xregs card dst len) with
    ops := List.replicate n (op0 (.xform 6 0 0 64 0)), cores := [(0, { packed := if pk then [⟨0, 1, 1, none⟩] else [] })] }
/-- The only outstanding operation is that XFORM. -/
def xc (card dst len : Word) : State :=
  { xs card dst len 0 false with
    ops := [{ op0 (.xform card 0 dst.toNat len.toNat 0) with reads := [⟨0, len.toNat⟩], writes := [⟨dst.toNat, 64⟩] }] }
/-- The output of XFORM 0 may reach the first granule. -/
def xu (card len : Word) : State :=
  { xs card 0x2000 len 0 false with cores := [(0, { packed := [⟨0, 0, 1, some (0, 1)⟩] })] }
/-- An EXPD with PACK whose source an earlier command has still to write, with n jobs of the core outstanding. -/
def xr (n : Nat) : State :=
  { xs 0x32000051 0x8000 2048 n false with
    ops := List.replicate n (op0 (.xform 6 0 0 64 0)) ++ [{ op0 (.hmove 0) with writes := [⟨0, 2048⟩] }], nextOp := 1 }
theorem witness_XformRunsItsCard :
    (∃ (c x d n : Src) (s : State), s.full [srcOf c 0, srcOf x 1, srcOf d 2, srcOf n 3] ∧ 0x400000 < (s.sVal n).toNat)
    ∧ (∃ (c x d n : Src) (s : State), s.full [srcOf c 0, srcOf x 1, srcOf d 2, srcOf n 3] ∧ (s.sVal n).toNat ≤ 0x400000
      ∧ rubric (s.sVal c) 0 0 0 0 = some (2, 0))
    ∧ (∀ l : Word × Nat, l ∈ [(0x3200000003, 64), (1, 2048)] → ∃ (c x d n : Src) (s : State), s.full [srcOf c 0, srcOf x 1, srcOf d 2, srcOf n 3]
      ∧ s.sVal c = l.1 ∧ (s.sVal n).toNat = l.2 ∧ rubric (s.sVal c) ((s.sVal x).toNat % 0x400000) ((s.sVal d).toNat % 0x400000) (s.sVal n).toNat
        (outBytes (s.sVal c) ((s.core s.curCore).streamCount (s.sVal c) ((s.sVal x).toNat % 0x400000) (s.sVal n).toNat)) = none
      ∧ (s.core s.curCore).unsettled ⟨(s.sVal x).toNat % 0x400000, (s.sVal n).toNat⟩ = true)
    ∧ (∀ b : Bool, ∃ (c x d n : Src) (s : State), s.full [srcOf c 0, srcOf x 1, srcOf d 2, srcOf n 3]
      ∧ (let card := s.sVal c
         let src := (s.sVal x).toNat % 0x400000
         let dst := (s.sVal d).toNat % 0x400000
         let len := (s.sVal n).toNat
         let m := (s.core s.curCore).streamCount card src len
         let most := s.rangeCount s.curCore card.toNat src len
         len ≤ 0x400000 ∧ rubric card src dst len (outBytes card m) = none ∧ (s.core s.curCore).unsettled ⟨src, len⟩ = false
         ∧ cardHas card 5 = true ∧ s.openSource s.curCore card src len = true ∧ most ≠ m
         ∧ (((s.core s.curCore).clearPacked ⟨src, len⟩).reservePacked ⟨dst, outBytes card most⟩ s.curStrand.seq s.nextOp).isSome = true
         ∧ decide ((s.ops.filter fun o => o.core == s.curCore && (match o.kind with | .xform .. => true | _ => false)).length < 4) = b))
    ∧ (∀ (b pk : Bool) (l : Word × Nat), l ∈ [(0x3200000003, 4096), (1, 2048), (0x3232000005, 4096), (0x1003200000007, 4096)] →
      ∃ (c x d n : Src) (s : State), s.full [srcOf c 0, srcOf x 1, srcOf d 2, srcOf n 3] ∧ (s.sVal n).toNat ≤ 0x400000
      ∧ s.sVal c = l.1
      ∧ (let card := s.sVal c
         let src := (s.sVal x).toNat % 0x400000
         let dst := (s.sVal d).toNat % 0x400000
         let len := (s.sVal n).toNat
         let m := (s.core s.curCore).streamCount card src len
         let expd := cardHas card 1
         rubric card src dst len (outBytes card m) = none ∧ (s.core s.curCore).unsettled ⟨src, len⟩ = false
         ∧ s.openSource s.curCore card src len = false
         ∧ (cardHas card 1 = false → pk = true → (s.core s.curCore).packedByte ⟨src, len⟩ = some 0)
         ∧ (pk = false → (expd = false → (s.core s.curCore).packedByte ⟨src, len⟩ = none)
           ∧ (if cardHas card 5 then (if expd then (s.core s.curCore).clearPacked ⟨src, len⟩ else s.core s.curCore).markPacked
               ⟨dst, outBytes card m⟩ s.curStrand.seq else some (s.core s.curCore)).isSome = true)
         ∧ decide ((s.ops.filter fun o => o.core == s.curCore && (match o.kind with | .xform .. => true | _ => false)).length < 4) = b))
    ∧ (∃ (q : Packed) (n : Nat) (card : Word) (s : State), (∃ o, s.op 0 = some o ∧ o.kind = .xform card 0 0x2000 n 0) ∧ q ∈ (s.core 0).packed
      ∧ q.open_.any (·.1 == 0) = true)
    ∧ (∀ l : Word × Nat, l ∈ [(0x3200000003, 64), (0x3200000007, 64)] → ∃ (c x d n : Src) (op rm : Nat) (o : Op) (s : State), s.op op = some o
      ∧ o.kind = .xform (s.sVal c) ((s.sVal x).toNat % 0x400000) ((s.sVal d).toNat % 0x400000) (s.sVal n).toNat rm ∧ s.sVal c = l.1
      ∧ s.ready o = true ∧ (∀ r ∈ o.reads, s.readBlocked o.core op r = false) ∧ ∀ r ∈ o.writes, s.writeBlocked o.core op r = false)
    ∧ ∀ st : Nat, st = 0 ∨ st = 2 ∨ st = 3 ∨ st = 8 → ∃ card : Word, cardStage card 5 = st := by
  refine ⟨⟨⟨1#6, false⟩, ⟨2#6, false⟩, ⟨3#6, false⟩, ⟨4#6, false⟩, lat [(4#6, 0x400001)], full_dec rfl, by decide⟩,
    ⟨⟨1#6, false⟩, ⟨2#6, false⟩, ⟨3#6, false⟩, ⟨4#6, false⟩, r0, full_dec rfl, by decide, by decide⟩,
    fun l h => ⟨⟨1#6, false⟩, ⟨2#6, false⟩, ⟨3#6, false⟩, ⟨4#6, false⟩, xu l.1 (BitVec.ofNat 64 l.2), ?_⟩,
    fun b => ⟨⟨1#6, false⟩, ⟨2#6, false⟩, ⟨3#6, false⟩, ⟨4#6, false⟩, xr (if b then 3 else 4), full_dec (by cases b <;> decide +kernel),
      by cases b <;> decide +kernel⟩,
    fun b pk l h => ⟨⟨1#6, false⟩, ⟨2#6, false⟩, ⟨3#6, false⟩, ⟨4#6, false⟩, xs l.1 0x2000 (BitVec.ofNat 64 l.2) (if b then 3 else 4) pk, ?_⟩,
    ⟨⟨128, 0, 1, some (0, 31)⟩, 2048, 0x32000051, { xc 0x32000051 0x2000 2048 with cores := [(0, { packed := [⟨128, 0, 1, some (0, 31)⟩] })] },
      ⟨_, rfl, rfl⟩, by decide, by decide⟩,
    fun l h => ⟨⟨1#6, false⟩, ⟨2#6, false⟩, ⟨3#6, false⟩, ⟨4#6, false⟩, 0, 0, _, xc l.1 0x2000 (BitVec.ofNat 64 l.2), rfl, ?_⟩, fun st h => ?_⟩
  · simp only [List.mem_cons, List.not_mem_nil, or_false] at h
    rcases h with rfl | rfl <;> exact ⟨full_dec (by decide +kernel), by decide +kernel⟩
  · simp only [List.mem_cons, List.not_mem_nil, or_false] at h
    rcases h with rfl | rfl | rfl | rfl <;> cases b <;> cases pk <;> exact ⟨full_dec (by decide +kernel), by decide +kernel⟩
  · simp only [List.mem_cons, List.not_mem_nil, or_false] at h
    rcases h with rfl | rfl <;> exact ⟨by decide +kernel, by decide +kernel⟩
  · rcases h with rfl | rfl | rfl | rfl
    · exact ⟨0, by decide⟩
    · exact ⟨0x200000, by decide⟩
    · exact ⟨0x300000, by decide⟩
    · exact ⟨0x800000, by decide⟩

/-- An accepted configuration: bf16 for both operands, dense, every floor requested, 512 positions. -/
abbrev cfg : Word := 0x83C3030
/-- The strand of job 1, its core with a configuration that has been stored. -/
def ms (l : List (BitVec 6 × Word)) : State := { js l with cores := [(0, { mcfg := cfg, mcfgSet := true })] }

theorem witness_MatrixCommandsAreTaken :
    (∃ (a : Src) (s : State), s.engineTakes ∧ s.full [srcOf a 0] ∧ mcfgOk (s.sVal a) = true)
    ∧ (∃ (a : Src) (s : State), s.engineTakes ∧ s.full [srcOf a 0] ∧ mcfgOk (s.sVal a) = false
      ∧ ((s.sVal a).toNat % 2 = 1 ∨ s.cur.kernel.idxlen.toNat < (s.sVal a).toNat + 2))
    ∧ (∃ (a : Src) (s : State), s.engineTakes ∧ s.full [srcOf a 0] ∧ (s.sVal a).toNat % 2 = 0
      ∧ (s.sVal a).toNat + 2 ≤ s.cur.kernel.idxlen.toNat)
    ∧ (∃ (a : Src) (part : BitVec 2) (s : State), s.engineTakes ∧ s.full [srcOf a 0] ∧ (s.sVal a).toNat ∈ [64, 128, 256, 512]
      ∧ (let c := s.core s.curCore
         let live := mcFreq c.mcfg &&& s.availFloors s.curCore
         c.mcfgSet = true ∧ mcSparse c.mcfg = 0 ∧ mcKunits c.mcfg = 8 ∧ holdsMinusOne (mcBfmt c.mcfg) = true ∧ live ≠ 0#4
         ∧ (mcStrict c.mcfg = true → live = mcFreq c.mcfg)
         ∧ (s.sVal a).toNat % 64 = 0 ∧ c.packedByte ⟨(s.sVal a).toNat % 0x400000, imageSize part.toNat⟩ = none
         ∧ c.unsettled ⟨(s.sVal a).toNat % 0x400000, imageSize part.toNat⟩ = false
         ∧ s.aboveWatermark s.curCore ⟨(s.sVal a).toNat % 0x400000, imageSize part.toNat⟩ = false))
    ∧ (∃ (a : Src) (part : BitVec 2) (s : State), s.engineTakes ∧ s.full [srcOf a 0] ∧ (s.sVal a).toNat % 64 = 0
      ∧ (s.core s.curCore).packedByte ⟨(s.sVal a).toNat % 0x400000, imageSize part.toNat⟩ = none
      ∧ (s.core s.curCore).unsettled ⟨(s.sVal a).toNat % 0x400000, imageSize part.toNat⟩ = false
      ∧ s.aboveWatermark s.curCore ⟨(s.sVal a).toNat % 0x400000, imageSize part.toNat⟩ = true)
    ∧ (∃ (a : Src) (part : BitVec 2) (s : State), s.engineTakes ∧ s.full [srcOf a 0] ∧ (s.sVal a).toNat % 64 = 0
      ∧ (s.core s.curCore).unsettled ⟨(s.sVal a).toNat % 0x400000, imageSize part.toNat⟩ = true)
    ∧ (∃ s : State, ∃ i, (s.core s.curCore).engine = some i ∧ i ≠ s.curStrand)
    ∧ ∃ s : State, 4 ≤ s.matrixQueued s.curCore :=
  ⟨⟨⟨1#6, false⟩, ms [(1#6, cfg)], ⟨Or.inl rfl, by decide⟩, full_dec rfl, by decide⟩, ⟨⟨1#6, false⟩, ms [(1#6, 1)], ⟨Or.inl rfl, by decide⟩, full_dec rfl, by decide, by decide⟩,
    ⟨⟨1#6, false⟩, { ms [(1#6, 6)] with ctxs := [(0, { strand := some ⟨1, 0⟩, kernel := { idxlen := 8 } })] }, ⟨Or.inl rfl, by decide⟩,
      full_dec rfl, by decide, by decide⟩,
    ⟨⟨1#6, false⟩, 0, ms [(1#6, 512)], ⟨Or.inl rfl, by decide⟩, full_dec rfl, by decide, by decide⟩,
    ⟨⟨1#6, false⟩, 2, { ms [(1#6, 512)] with ops := [{ op0 (.xfer false 512 0 64 none false 0 0) with writes := [⟨512, 64⟩] }] },
      ⟨Or.inl rfl, by decide⟩, full_dec rfl, by decide⟩,
    ⟨⟨1#6, false⟩, 0, { js [] with cores := [(0, { packed := [⟨0, 0, 1, some (0, 1)⟩] })] }, ⟨Or.inl rfl, by decide⟩, full_dec rfl, by decide, by decide⟩,
    ⟨{ js [] with cores := [(0, { engine := some ⟨1, 1⟩ })] }, _, rfl, by decide⟩,
    { js [] with ops := List.replicate 4 (op0 (.dpload 0 0 0)) }, by decide⟩

/-- A stage that serves the configuration. -/
def st1 : Stage := { valid := true, bfmt := 0x30, ks := 512, deal := [0], live := 15, freq := 15, job := 1 }
/-- A reduction of the strand, on set 0. -/
def red0 : Reduction := { id := 0, owner := ⟨1, 0⟩ }
/-- The engine is the strand's, with a stage of a mode; its set 0 has an open reduction unless FIRST is to open one. An XFER may be
writing the first row. -/
def mms (first : Bool) (mode : Fin 3) (above : Bool := false) : State :=
  { ms [(1#6, 1), (2#6, 0x40)] with
    ops := if above then [{ op0 (.xfer false 0x40 0 64 none false 0 0) with writes := [⟨0x40, 64⟩] }] else []
    ctxs := [(0, { strand := some ⟨1, 0⟩, kernel := { idxlen := 8 } })], nextOp := 1
    cores := [(0, { mcfg := cfg ||| BitVec.ofNat 64 (mode.val * 65536), mcfgSet := true, stageA := { st1 with mode := mode.val }
                    engine := some ⟨1, 0⟩, sets := if first then [] else [(0, { reds := [red0] })] })] }
theorem witness_MmacIsTaken : ∀ (first : Bool) (mode : Fin 3) (above : Bool), ∃ (o : MmacF) (s : State), s.numbered ∧ s.engineTakes
    ∧ s.full [⟨sReg o.rows, false, 0⟩, ⟨sReg o.abase, false, 1⟩, ⟨sReg o.ascale, false, 2⟩] ∧ o.first = first
    ∧ (let c := s.core s.curCore
       let g := c.stageA
       let rows := (s.issue.regs.sGet o.rows).toNat
       let abase := (s.issue.regs.sGet o.abase).toNat % 0x400000
       let ascale := (s.issue.regs.sGet o.ascale).toNat % 0x400000
       let red := (c.set o.aset).openBy s.curStrand
       let elapsed := match red with | some r => if o.first then 0 else r.elapsed | none => 0
       g.mode = mode ∧ c.mcfgSet = true ∧ 1 ≤ rows ∧ rows ≤ 256 ∧ abase % 64 = 0 ∧ g.valid = true ∧ g.job = s.curStrand.seq ∧ g.bfmt = mcBfmt c.mcfg
       ∧ g.mode = mcSparse c.mcfg ∧ g.ks = mcKs c.mcfg ∧ (o.first = true ↔ red = none)
       ∧ (g.mode = 2 → s.cur.sr.mdpc.toNat + 1 < s.cur.kernel.idxlen.toNat)
       ∧ ¬(mcStrict c.mcfg = true ∨ o.strict = true) ∧ g.used &&& c.failed = 0#4
       ∧ (∀ r ∈ mmacReads rows abase ascale g.ks (mcAfmt c.mcfg), c.isPacked r = false ∧ c.unsettled r = false)
       ∧ s.lastWriteAt elapsed rows g.passes (mcAfmt c.mcfg) ≤ s.issue.sr.redlim.toNat ∧ s.stoppedDrain s.curCore o.aset = none
       ∧ ((mmacReads rows abase ascale g.ks (mcAfmt c.mcfg)).take 2).any (s.aboveWatermark s.curCore) = above) := by
  intro first mode above
  refine ⟨⟨false, first, true, 1#6, 2#6, 3#6, 0#6, 0#3, false⟩, mms first mode above, ?_, ⟨Or.inr ?_, ?_⟩, full_dec ?_, rfl, ?_⟩
  · cases above
    · exact ⟨List.nodup_nil, (fun _ h => nomatch h)⟩
    · exact ⟨List.nodup_cons.mpr ⟨List.not_mem_nil, List.nodup_nil⟩, fun o h => by obtain rfl := List.mem_singleton.mp h; exact Nat.zero_lt_one⟩
  all_goals revert first mode above; decide +kernel

theorem witness_MretRetiresTheReduction :
    (∃ (set : Bool) (s : State), s.numbered ∧ s.engineTakes ∧ s.stoppedDrain s.curCore set = none
      ∧ ((s.core s.curCore).set set).openBy s.curStrand = none)
    ∧ (∃ (set : Bool) (s : State) (r : Reduction), s.numbered ∧ s.engineTakes ∧ s.stoppedDrain s.curCore set = none
      ∧ ((s.core s.curCore).set set).reds = [r] ∧ r.closed = false ∧ r.owner = s.curStrand ∧ s.earlierMatrix s.curCore ≠ [])
    ∧ ∃ (set : Bool) (s : State) (r : Reduction), s.numbered ∧ s.engineTakes ∧ s.stoppedDrain s.curCore set = none
      ∧ ((s.core s.curCore).set set).reds = [r] ∧ r.closed = false ∧ r.owner = s.curStrand ∧ s.earlierMatrix s.curCore = []
      ∧ s.nextOp ∉ (s.core s.curCore).drains ∧ (∀ o ∈ s.ops, s.nextOp ∉ o.waits)
      ∧ s.ctxOf s.curStrand = some s.issue.ctx ∧ s.cur.stop = none :=
  ⟨⟨true, ms [], ⟨by decide, (fun _ h => nomatch h)⟩, ⟨Or.inl rfl, by decide⟩, rfl, rfl⟩,
    ⟨true, { js [] with cores := [(0, { engine := some ⟨1, 0⟩, sets := [(1, { reds := [red0] })] })]
                        ops := [op0 .mswap], nextOp := 1 }, red0,
      ⟨by decide, (fun o h => by obtain rfl := List.mem_singleton.mp h; decide)⟩, ⟨Or.inr rfl, by decide⟩, rfl, rfl, rfl, rfl, by decide⟩,
    true, { js [] with cores := [(0, { engine := some ⟨1, 0⟩, sets := [(1, { reds := [red0] })] })] }, red0,
      ⟨by decide, (fun _ h => nomatch h)⟩, ⟨Or.inr rfl, by decide⟩, rfl, rfl, rfl, rfl, rfl, by decide, (fun _ h => nomatch h), rfl, rfl⟩

/-- The drain of a retired reduction. -/
def dr0 : Drain := { set := false, prog := 0, rq := 0, rmax := 256 }
/-- Its program holds the constant 0x32, and a unit of it is in the pipe. -/
def dp0 : State := { os (.drain dr0) with cores := [(0, { pipe := some {}, progs := [(0, { consts := [0x32] })] })] }
theorem witness_DrainMicroOperations : ∃ (o : DrainF) (s : State) (p : Pipe) (d : Drain) (x : Op) (f : Fmt),
    (s.core s.drainCore).pipe = some p ∧ s.op p.op = some x ∧ x.kind = .drain d
    ∧ Fmt.ofCode ((nth 0#32 (mget {} (s.core s.drainCore).progs d.prog).consts o.k.toNat).toNat % 256) = some f :=
  ⟨⟨7#3, 8#4, 0#4, 0#5, 0#4⟩, dp0, {}, dr0, op0 (.drain dr0), .flt f32, rfl, rfl, rfl, by decide⟩

/-- Head 0 of the strand's core. -/
def hds (x : Head) (l : List (BitVec 6 × Word)) : State :=
  { js l with cores := [(0, { heads := [(0, x)], mcfg := cfg, mcfgSet := true, queues := [(3, [Vec.zero])] })] }
/-- A reading head at position 10 of a flat tape. -/
def hr : Head := { mode := 1, job := 1, pos := 10, ecount := 300000, desc := { len := 10000 } }

theorem witness_HeadMovementsAndPosition :
    (∃ (h : BitVec 4) (n : Src) (s : State), s.headTakes h.toNat ∧ s.full [srcOf n 1] ∧ (s.sVal n).toNat < 2 ^ 48
      ∧ (s.head s.curCore h.toNat).pos + (s.sVal n).toNat ≤ (s.head s.curCore h.toNat).ecount
      ∧ (s.head s.curCore h.toNat).mode ≠ 2 ∧ (s.sVal n).toNat ≤ (s.head s.curCore h.toNat).pos
      ∧ (s.head s.curCore h.toNat).markA.2 = false)
    ∧ ∃ (h : BitVec 4) (s : State) (p : Nat), s.headTakes h.toNat ∧ (s.head s.curCore h.toNat).markB = (p, true) :=
  ⟨⟨0, ⟨1#6, false⟩, hds hr [(1#6, 10)], ⟨rfl, by decide, rfl⟩, full_dec rfl, by decide⟩,
    0, hds { hr with markB := (7, true) } [], 7, ⟨rfl, by decide, rfl⟩, rfl⟩

theorem witness_HeadTransfersAreAccepted :
    (∃ (h : BitVec 4) (a n : Src) (s : State), s.headBusy s.curCore h.toNat = false ∧ (s.head s.curCore h.toNat).mode = 0
      ∧ s.full [srcOf a 0, srcOf n 1])
    ∧ (∃ (h : BitVec 4) (a n e : Src) (fmt : BitVec 8) (bk : Bool) (s : State), s.headTakes h.toNat
      ∧ s.full [srcOf a 0, srcOf n 1, srcOf e 2] ∧ e.reg ≠ 0#6
      ∧ (let x := s.head s.curCore h.toNat
         let c := (s.sVal n).toNat
         x.mode ≠ 2 ∧ c ≤ 2 ^ 22 ∧ (s.sVal a).toNat % 0x400000 % Nat.max 1 (codeWidth fmt.toNat / 8) = 0
         ∧ bytesFor c (codeWidth fmt.toNat) ≤ 0x400000 ∧ (s.sVal e).toNat % 16 = 0 ∧ s.moveCheck x bk c = .pass))
    ∧ (∃ (h : BitVec 4) (a n e : Src) (s : State) (m : Nat), s.headTakes h.toNat ∧ s.full [srcOf a 0, srcOf n 1, srcOf e 2] ∧ e.reg = 0#6
      ∧ (let x := s.head s.curCore h.toNat
         let c := (s.sVal n).toNat
         x.mode ≠ 2 ∧ 2048 * c ≤ 0x400000 ∧ s.rawCheck x c = (.pass, m)
         ∧ ((s.core s.curCore).markPacked ⟨(s.sVal a).toNat % 0x400000, 2048 * c⟩ s.curStrand.seq).isSome = true))
    ∧ ∀ mode : BitVec 2, mode = 0#2 ∨ mode = 2#2 → ∃ (h : BitVec 4) (n e : Src) (fmt : BitVec 8) (s : State), s.headTakes h.toNat
      ∧ s.full [srcOf (⟨0#6, false⟩ : Src) 0, srcOf n 1, srcOf e 2]
      ∧ (let x := s.head s.curCore h.toNat
         let c := (s.sVal n).toNat
         x.mode ≠ 1 ∧ c < 2 ^ 48 ∧ bytesFor c (codeWidth fmt.toNat) ≤ 0x400000
         ∧ (if mode = 2#2 then s.appendCheck x c ((s.sVal e).toNat % 256) else s.moveCheck x false c) = .pass
         ∧ s.wholeBlocks x mode.toNat false c ((s.sVal e).toNat % 256) = .pass) :=
  ⟨⟨0, ⟨1#6, false⟩, ⟨2#6, false⟩, js [], rfl, rfl, full_dec rfl⟩,
    ⟨0, ⟨1#6, false⟩, ⟨2#6, false⟩, ⟨3#6, false⟩, 0x32, true, hds hr [(1#6, 4), (2#6, 10), (3#6, 16)], ⟨rfl, by decide, rfl⟩,
      full_dec rfl, by decide, by decide⟩,
    ⟨0, ⟨1#6, false⟩, ⟨2#6, false⟩, ⟨0#6, false⟩, hds hr [], 0, ⟨rfl, by decide, rfl⟩, full_dec rfl, rfl, by decide⟩,
    fun mode h => by
      rcases h with rfl | rfl
      · exact ⟨0, ⟨2#6, false⟩, ⟨3#6, false⟩, 0x32, hds { hr with mode := 2 } [(2#6, 10)], ⟨rfl, by decide, rfl⟩, full_dec rfl, by decide⟩
      · exact ⟨0, ⟨2#6, false⟩, ⟨3#6, false⟩, 0x32, hds { hr with mode := 2, ecount := 10, desc := { kind := 2, len := 9, rlen := 9, gelem := 32 } }
          [(2#6, 16), (3#6, 0x32)], ⟨rfl, by decide, rfl⟩, full_dec rfl, by decide⟩⟩

theorem witness_MldbIsTaken : ∃ (h : BitVec 4) (s : State), s.engineTakes ∧ s.headTakes h.toNat
    ∧ (let c := s.core s.curCore
       let x := s.head s.curCore h.toNat
       let w := c.mcfg
       let live := mcFreq w &&& s.availFloors s.curCore
       c.mcfgSet = true ∧ x.mode ≠ 2 ∧ s.moveCheck x false ((if mcSparse w = 1 then 256 else 512) * mcKs w) = .pass
       ∧ (mcStrict w = true → live = mcFreq w) ∧ live ≠ 0#4
       ∧ (mcKs w + (if mcSparse w = 1 then 1024 else 512) - 1) / (if mcSparse w = 1 then 1024 else 512) ≤ 2 * (floorsOf live).length) :=
  ⟨0, hds hr [], ⟨Or.inl rfl, by decide⟩, ⟨rfl, by decide, rfl⟩, by decide⟩

/-- The fields of an XFER, an ATOM and a COLL whose operands are s1 to s4. -/
def xf (e : BitVec 6) : XferF := ⟨true, ⟨1#6, false⟩, ⟨2#6, false⟩, ⟨3#6, false⟩, ⟨e, false⟩, true, false, 1#2⟩
theorem witness_TransfersTakeARecord :
    (∀ e n : Nat, e = 0 ∨ e = 4 → n = 0 ∨ n = 128 → ∃ (f : XferF) (s : State), s.recordsUsed s.curCore < 64
      ∧ s.full [srcOf f.a 0, srcOf f.b 1, srcOf f.c 2, srcOf f.e 3] ∧ f.e.reg = BitVec.ofNat 6 e ∧ (s.sVal f.c).toNat = n
      ∧ (s.sVal f.a).toNat % 0x400000 % 64 = 0 ∧ (s.sVal f.b).toNat % 2 ^ 57 % 64 = 0 ∧ f.cv = 1#2
      ∧ (s.sVal f.e).toNat % 0x4000000 % 16 = 0
      ∧ (let y := tbTarget s.curCore ((s.sVal f.e).toNat % 0x4000000); s.tbBlocked y.1 y.2 true = false))
    ∧ (∃ (f : XferF) (s : State), s.recordsUsed s.curCore < 64 ∧ s.full [srcOf f.a 0, srcOf f.b 1, srcOf f.c 2, srcOf f.e 3]
      ∧ f.e.reg ≠ 0#6 ∧ (s.sVal f.c).toNat = 0 ∧ (s.sVal f.a).toNat % 0x400000 % 64 = 0 ∧ (s.sVal f.b).toNat % 2 ^ 57 % 64 = 0
      ∧ (s.sVal f.e).toNat % 0x4000000 % 16 = 0
      ∧ (let y := tbTarget s.curCore ((s.sVal f.e).toNat % 0x4000000); s.tbBlocked y.1 y.2 true = true))
    ∧ (∃ (q : BitVec 3) (a b : Src) (s : State), s.recordsUsed s.curCore < 64 ∧ s.full [srcOf a 0, srcOf b 1]
      ∧ (∃ e l, s.queue q = e :: l) ∧ (s.sVal a).toNat % 0x4000000 % 4 = 0 ∧ (s.sVal b).toNat % 0x4000000 % 16 = 0)
    ∧ (∃ (m : AtomF) (s : State), s.recordsUsed s.curCore < 64 ∧ s.full [srcOf m.a 0, srcOf m.b 1, srcOf m.c 2])
    ∧ ∀ op : BitVec 3, op = 4#3 ∨ op = 5#3 → ∃ (g : CollF) (s : State) (x : Group), s.recordsUsed s.curCore < 64
      ∧ s.full [srcOf g.a 0, srcOf g.b 1, srcOf g.c 2] ∧ s.groupOf s.curStrand g.group.toNat = some x ∧ g.op = op
      ∧ (let n := (s.sVal g.b).toNat
         let total := s.total (s.tenantOf s.curStrand) g.group.toNat x
         n ≠ 0 ∧ (s.sVal g.a).toNat % 0x400000 % 4 = 0 ∧ (s.sVal g.c).toNat % 0x400000 % 4 = 0 ∧ n * 4 ≤ 0x400000
         ∧ n * 4 / total ≤ 0x400000 ∧ n % total = 0 ∧ (s.sVal g.c).toNat < total) :=
  ⟨fun e n he hn => by
      rcases he with rfl | rfl <;> rcases hn with rfl | rfl
      · exact ⟨xf 0, js [(1#6, 64), (2#6, 128)], by decide, full_dec rfl, by decide⟩
      · exact ⟨xf 0, js [(1#6, 64), (2#6, 128), (3#6, 128)], by decide, full_dec rfl, by decide⟩
      · exact ⟨xf 4, js [(1#6, 64), (2#6, 128), (4#6, 16)], by decide, full_dec rfl, by decide⟩
      · exact ⟨xf 4, js [(1#6, 64), (2#6, 128), (3#6, 128), (4#6, 16)], by decide, full_dec rfl, by decide⟩,
    ⟨xf 4, { js [(1#6, 64), (2#6, 128), (4#6, 16)] with ops := [op0 (.rload 0x2C00108 4 true false)] }, by decide, full_dec rfl, by decide⟩,
    ⟨3#3, ⟨1#6, false⟩, ⟨2#6, false⟩, hds hr [(1#6, 4), (2#6, 16)], by decide, full_dec rfl, ⟨_, _, rfl⟩, by decide⟩,
    ⟨⟨2, 5#6, ⟨1#6, false⟩, ⟨2#6, false⟩, ⟨3#6, false⟩, true, 3, 4, false⟩, js [], by decide, full_dec rfl⟩,
    fun op h => by rcases h with rfl | rfl <;> exact ⟨⟨0, ⟨1#6, false⟩, ⟨2#6, false⟩, ⟨3#6, false⟩, _, 2⟩, js [(2#6, 0x100000)], ⟨1, false, [0]⟩, by decide, full_dec rfl, rfl,
      rfl, by decide⟩⟩

theorem witness_TransactionBarrierInstructions :
    (∃ (a b : Src) (s : State), s.full [srcOf a 0, srcOf b 1] ∧ (s.sVal a).toNat % 0x4000000 % 16 = 0
      ∧ s.tbPending s.curCore ((s.sVal a).toNat % 0x4000000) = false ∧ s.tbPending s.curCore ((s.sVal a).toNat % 0x400000) = false
      ∧ 1 ≤ (s.sVal b).toNat ∧ (s.sVal b).toNat ≤ 65535
      ∧ s.tbBlocked s.curCore ((s.sVal a).toNat % 0x400000) true = false ∧ s.tbBlocked s.curCore ((s.sVal a).toNat % 0x400000) false = false
      ∧ ((s.core s.curCore).tbObj ((s.sVal a).toNat % 0x400000)).gen ≠ (s.sVal b).toNat % 65536)
    ∧ (∀ w : Bool, ∃ (a b : Src) (s : State), s.full [srcOf a 0, srcOf b 1] ∧ (s.sVal a).toNat % 0x4000000 % 16 = 0
      ∧ s.tbPending s.curCore ((s.sVal a).toNat % 0x400000) = false ∧ 1 ≤ (s.sVal b).toNat ∧ (s.sVal b).toNat ≤ 65535
      ∧ s.tbBlocked s.curCore ((s.sVal a).toNat % 0x400000) w = true)
    ∧ (∃ (a b : Src) (s : State), s.full [srcOf a 0, srcOf b 1] ∧ (s.sVal a).toNat % 0x4000000 % 16 = 0
      ∧ s.tbPending s.curCore ((s.sVal a).toNat % 0x400000) = true)
    ∧ (∃ (a b : Src) (s : State), s.full [srcOf a 0, srcOf b 1] ∧ (s.sVal a).toNat % 0x4000000 % 16 = 0 ∧ (s.sVal b).toNat = 0
      ∧ s.tbPending s.curCore ((s.sVal a).toNat % 0x400000) = false
      ∧ ((s.core s.curCore).tbObj ((s.sVal a).toNat % 0x400000)).gen = (s.sVal b).toNat % 65536)
    ∧ (∃ (a b : Src) (s : State), s.full [srcOf a 0, srcOf b 1] ∧ (s.sVal a).toNat % 0x4000000 % 16 = 0 ∧ 65535 < (s.sVal b).toNat)
    ∧ ∃ (a b : Src) (s : State), s.full [srcOf a 0, srcOf b 1] ∧ (s.sVal a).toNat % 0x4000000 % 16 ≠ 0 :=
  ⟨⟨⟨1#6, false⟩, ⟨2#6, false⟩, js [(1#6, 0x2000010), (2#6, 65535)], full_dec rfl, by decide⟩,
    fun w => ⟨⟨1#6, false⟩, ⟨2#6, false⟩, { js [(2#6, 1)] with ops := [op0 (if w then .rload 0x2C00108 4 true false else .atom 0 0 true 7 9 1 4 none)] },
      by cases w <;> exact full_dec rfl, by cases w <;> decide⟩,
    ⟨⟨1#6, false⟩, ⟨2#6, false⟩, { js [(2#6, 1)] with ops := [op0 (.tbarrive 0)] }, full_dec rfl, by decide⟩,
    ⟨⟨1#6, false⟩, ⟨2#6, false⟩, js [], full_dec rfl, by decide⟩,
    ⟨⟨1#6, false⟩, ⟨2#6, false⟩, js [(2#6, 65536)], full_dec rfl, by decide⟩,
    ⟨1#6, false⟩, ⟨2#6, false⟩, js [(1#6, 8)], full_dec rfl, by decide⟩

/-- A descriptor at VA 0: one group, ECOUNT 100. -/
abbrev desc0 : List (Nat × Byte) := [(8, 1), (32, 100)]
/-- A group at VA 0 whose first block holds 16 elements of f32. -/
abbrev tape0 : List (Nat × Byte) := [(0, 0x32), (1, 0x7F), (62, 0xCE), (63, 0x80)]
/-- A head on that tape. -/
def h0 : Head := { mode := 3, job := 1, ecount := 16, desc := { len := 1 } }
/-- A delivery of its 16 elements to the scratchpad as f32, forward. -/
abbrev rd16 : OpKind := .hread 0 0 16 16 0 none 0x32 false false false 0

theorem witness_HeadStepsPerform :
    (∀ mode, mode = 1 ∨ mode = 2 → ∃ (s : State) (op : Nat) (o : Op) (h va pos : Nat) (p : Place), s.op op = some o
      ∧ o.kind = .hopen h va pos mode ∧ s.ready o = true ∧ s.mayReach o (descLine va) (mode != 1) p ∧ s.badPlace p = false
      ∧ (let d := lineBits (s.readPlace p 64)
         descValid va d = true ∧ pos ≤ descEcount d ∧ descClaim d = 0#64) ∧ p.revoked = false)
    ∧ (∃ (s : State) (op : Nat) (o : Op) (h pos : Nat), s.op op = some o ∧ o.kind = .hpos h pos ∧ s.headFront o h = true)
    ∧ (∀ mode, mode = 1 ∨ mode = 2 → ∃ (s : State) (op : Nat) (o : Op) (h : Nat) (p : Place), s.op op = some o ∧ o.kind = .hclose h
      ∧ s.headFront o h = true ∧ (s.head o.core h).mode = mode ∧ s.mayReach o (descLine (s.head o.core h).descVa) true p
      ∧ p.revoked = false)
    ∧ (∃ (s : State) (core : BitVec 7) (hd : BitVec 4) (p : Place), (s.head core.toNat hd.toNat).reread = 1
      ∧ s.placeOf (s.headTenant (s.head core.toNat hd.toNat)) (descLine (s.head core.toNat hd.toNat).descVa) false = some p
      ∧ s.badPlace p = false ∧ s.mayReread core.toNat hd.toNat = true ∧ s.hasCredit core.toNat p = true
      ∧ s.mayRequest p (descLine (s.head core.toNat hd.toNat).descVa) false = true)
    ∧ (∃ (s : State) (core : BitVec 7) (hd : BitVec 4) (a : Op) (rest : List Op) (g b tag : Nat) (p : Place),
      s.headOps core.toNat hd.toNat = a :: rest ∧ (∀ q n, a.kind ≠ .hskip hd.toNat q n)
      ∧ s.prefetch core.toNat hd.toNat = some (g, b, tag)
      ∧ s.placeOf (s.headTenant (s.head core.toNat hd.toNat)) (BitVec.ofNat 57 (blockVa (s.head core.toNat hd.toNat).desc g b)) false = some p
      ∧ s.badPlace p = false ∧ tag % 256 ≠ 0xFF ∧ s.hasCredit core.toNat p = true
      ∧ s.mayRequest p (BitVec.ofNat 57 (blockVa (s.head core.toNat hd.toNat).desc g b)) false = true)
    ∧ ∃ (s : State) (core : BitVec 7) (hd : BitVec 4) (a : Op) (rest : List Op) (q n : Nat),
      s.headOps core.toNat hd.toNat = a :: rest ∧ a.kind = .hskip hd.toNat q n ∧ s.ready a = true
      ∧ (s.head core.toNat hd.toNat).desc.kind ≠ 2
      ∧ s.skipWalk (s.headTenant (s.head core.toNat hd.toNat)) (s.head core.toNat hd.toNat).desc q (n + 1) q n = none
      ∧ (let x := s.head core.toNat hd.toNat
         s.tagCredits core.toNat (s.headTenant x) x.desc (s.groupsOf (s.headTenant x) x.desc q n) = true) :=
  ⟨fun mode h => by
      rcases h with rfl | rfl <;>
        exact ⟨os (.hopen 0 0 100 _) desc0, 0, _, 0, 0, 100, p0 0, rfl, rfl, rfl, mayReach_os _ _ rfl, by decide, by decide +kernel, rfl⟩,
    ⟨os (.hpos 0 7), 0, _, 0, 7, rfl, rfl, rfl⟩,
    fun mode h => by
      rcases h with rfl | rfl <;> exact ⟨os (.hclose 0) [] { h0 with mode := _ }, 0, _, 0, p0 0, rfl, rfl, rfl, rfl, mayReach_os _ _ rfl, rfl⟩,
    ⟨os (.hskip 0 0 0) desc0 { h0 with reread := 1 }, 0, 0, p0 0, rfl, placeOf_os _, rfl, rfl, rfl, rfl⟩,
    ⟨os rd16 tape0 h0, 0, 0, op0 rd16, [], 0, 1, 0x7F32, p0 64, rfl, by simp [op0], by decide +kernel, by decide +kernel, by decide, by decide, rfl, rfl⟩,
    os (.hskip 0 0 16) tape0 h0, 0, 0, op0 (.hskip 0 0 16), [], 0, 16, rfl, rfl, rfl, by decide, by decide +kernel, by decide +kernel⟩

theorem witness_HeadTransfersPerform :
    (∃ (op : Nat) (o : Op) (h : Nat) (s : State) (f : Fmt) (pos n e dst fmt g b off tag rm : Nat) (y : Staged),
      s.op op = some o ∧ s.headFront o h = true ∧ o.kind = .hread h pos n e dst none fmt false false false rm ∧ o.prog < n
      ∧ Fmt.ofCode fmt = some f ∧ f.width ≠ 4
      ∧ s.meetForward (s.headTenant (s.head o.core h)) (s.head o.core h).desc false pos (pos + o.prog) = .elem g b off tag
      ∧ tag % 256 ≠ 0xFF ∧ (s.head o.core h).staged g b = some y ∧ tagCount y.tag = tagCount tag ∧ y.poison = false
      ∧ bitmapOver (y.tag % 256) y.bits = false
      ∧ s.writeBlocked o.core op ⟨(dst + o.prog * (f.width / 8)) % 0x400000, Nat.min (n - o.prog) (tagCount tag - off) * (f.width / 8)⟩ = false)
    ∧ (∃ (op : Nat) (o : Op) (h : Nat) (s : State) (f : Fmt) (pos n src spec fmt g b off tag rm : Nat) (p : Place),
      s.op op = some o ∧ s.headFront o h = true ∧ o.kind = .hwrite h pos n src spec fmt true 0 false rm ∧ o.prog < n
      ∧ s.meetBackward (s.headTenant (s.head o.core h)) (s.head o.core h).desc true pos (pos - o.prog) = .elem g b off tag
      ∧ tag % 256 ≠ 0xFF ∧ Fmt.ofCode (tag % 256) = some f
      ∧ s.readBlocked o.core op ⟨(src + o.prog * codeWidth fmt / 8) % 0x400000, bytesFor (Nat.min (n - o.prog) (off + 1)) (codeWidth fmt)⟩ = false
      ∧ s.mayReach o (BitVec.ofNat 57 (blockVa (s.head o.core h).desc g b)) true p ∧ s.badPlace p = false ∧ p.revoked = false)
    ∧ (∃ (op : Nat) (o : Op) (h : Nat) (s : State) (pos n src spec fmt rm : Nat) (p : Place), s.op op = some o ∧ s.headFront o h = true
      ∧ o.kind = .hwrite h pos n src spec fmt false 2 false rm ∧ o.prog = n ∧ n ≠ 0
      ∧ s.mayReach o (descLine (s.head o.core h).descVa) true p ∧ p.revoked = false)
    ∧ ∃ (op : Nat) (o : Op) (h : Nat) (s : State) (pos n : Nat) (g : Stage), s.op op = some o ∧ s.headFront o h = true
      ∧ o.kind = .mldb h pos n g ∧ o.prog = n ∧ (s.core o.core).stageS.id = op ∧ (s.core o.core).stageS.loading = true :=
  ⟨⟨0, op0 rd16, 0, os rd16 tape0 { h0 with stage := [⟨0, 1, 0x7F32, 0, false⟩] }, .flt f32, 0, 16, 16, 0, 0x32, 0, 1, 0, 0x7F32, 0, _,
      rfl, rfl, rfl, by decide, by decide, by decide, by decide +kernel, by decide, rfl, rfl, rfl, by decide, by decide⟩,
    ⟨0, op0 (.hwrite 0 16 16 0 0 0x32 true 0 false 0), 0, os (.hwrite 0 16 16 0 0 0x32 true 0 false 0) tape0 h0, .flt f32, 16, 16, 0, 0, 0x32,
      0, 1, 15, 0x7F32, 0, p0 64, rfl, rfl, rfl, by decide, by decide +kernel, by decide, by decide, by decide,
      Or.inr ⟨rfl, by decide +kernel, rfl, fun _ e => by cases e⟩, by decide, rfl⟩,
    ⟨0, { op0 (.hwrite 0 0 16 0 0 0x32 false 2 false 0) with prog := 16 }, 0, os (.hwrite 0 0 16 0 0 0x32 false 2 false 0) desc0 h0 16, 0, 16, 0, 0,
      0x32, 0, p0 0, rfl, rfl, rfl, rfl, by decide, mayReach_os _ _ rfl, rfl⟩,
    0, op0 (.mldb 0 0 0 {}), 0, { os (.mldb 0 0 0 {}) with cores := [(0, { heads := [(0, h0)], stageS := { loading := true } })] }, 0, 0, {},
      rfl, rfl, rfl, rfl, rfl, rfl⟩

/-- An XFER, with its source at address 0 of the scratchpad and its destination at VA 0, or the other way round. -/
abbrev xk (out : Bool) : OpKind := .xfer out 0 0 64 (some 0) true 0 0
/-- An ATOM of 8 bytes at VA 0, whose result goes to s5. -/
def oa (aop ord : Nat) : Op := { op0 (.atom 0 aop true 7 9 ord 4 none) with dest := some (sReg 5#6, 3) }
def sa (aop ord : Nat) : State := { os (.atom 0 aop true 7 9 ord 4 none) with
  ops := [oa aop ord], ctxs := [(0, { strand := some ⟨1, 0⟩, tags := [(regKey (sReg 5#6), 3)] })] }
theorem placeOf_sa (aop ord : Nat) : (sa aop ord).placeOf 0#16 0#57 true = some (p0 0) :=
  placeOf_host (va := 0) (host0_os (k := .atom 0 aop true 7 9 ord 4 none) (b := []) (x := {}) (n := 0) (by decide +kernel)) (by decide) true
theorem witness_TransfersPerform :
    (∃ (op : Nat) (o : Op) (s : State) (sp va n rm : Nat) (arr : Bool) (tb : Option Nat) (p : Place), s.op op = some o ∧ s.ready o = true
      ∧ o.kind = .xfer true sp va n tb arr 0 rm ∧ o.prog < n ∧ s.readBlocked o.core op ⟨(sp + o.prog) % 0x400000, xferUnit true 0⟩ = false
      ∧ s.mayReach o (BitVec.ofNat 57 (va + xferSize 0 o.prog)) true p ∧ p.revoked = false)
    ∧ (∃ (op : Nat) (o : Op) (s : State) (sp va n rm : Nat) (arr : Bool) (tb : Option Nat) (p : Place), s.op op = some o ∧ s.ready o = true
      ∧ o.kind = .xfer false sp va n tb arr 0 rm ∧ o.prog < n
      ∧ s.writeBlocked o.core op ⟨(sp + xferSize 0 o.prog) % 0x400000, xferSize 0 64⟩ = false
      ∧ s.mayReach o (BitVec.ofNat 57 (va + o.prog)) false p ∧ s.badPlace p = false)
    ∧ (∃ (op : Nat) (o : Op) (s : State) (obj : Nat), s.op op = some o ∧ s.ready o = true ∧ o.kind = .xfer true 0 0 64 (some obj) true 0 0
      ∧ 64 ≤ o.prog)
    ∧ (∃ (op : Nat) (o : Op) (s : State) (x tb : Nat) (e : Vec), s.op op = some o ∧ s.ready o = true ∧ o.kind = .qsend x tb e ∧ e.length = 64)
    ∧ ∀ aop ord : Nat, ∃ (op c tag : Nat) (o : Op) (r : BitVec 6) (p : Place) (x y : Word) (s : State), s.op op = some o ∧ s.ready o = true
      ∧ o.kind = .atom 0 aop true x y ord 4 none ∧ s.mayReach o 0#57 true p ∧ p.revoked = false ∧ s.badPlace p = false
      ∧ s.ctxOf o.owner = some c ∧ o.dest = some (sReg r, tag) ∧ r ≠ 0#6 ∧ mget 0 (s.ctx c).tags (regKey (sReg r)) = tag
      ∧ x.toNat < 2 ^ 64 ∧ y.toNat < 2 ^ 64 :=
  ⟨⟨0, op0 (xk true), os (xk true), 0, 0, 64, 0, true, some 0, p0 0, rfl, rfl, rfl, by decide, by decide, mayReach_os _ _ rfl, rfl⟩,
    ⟨0, op0 (xk false), os (xk false), 0, 0, 64, 0, true, some 0, p0 0, rfl, rfl, rfl, by decide, by decide, mayReach_os _ _ rfl, rfl⟩,
    ⟨0, { op0 (xk true) with prog := 64 }, os (xk true) [] {} 64, 0, rfl, rfl, rfl, by decide⟩,
    ⟨0, op0 (.qsend 0 16 Vec.zero), os (.qsend 0 16 Vec.zero), 0, 16, _, rfl, rfl, rfl, rfl⟩,
    fun aop ord => ⟨0, 0, 3, oa aop ord, 5#6, p0 0, 7, 9, sa aop ord, rfl, rfl, rfl, Or.inr ⟨rfl, placeOf_sa aop ord, rfl, fun _ e => nomatch e⟩, rfl, rfl, rfl, rfl,
      by decide, rfl, by decide, by decide⟩⟩

theorem witness_TransactionBarrierUpdates :
    (∃ (op n : Nat) (o : Op) (s : State), s.op op = some o ∧ o.kind = .credit 16 n true ∧ s.ready o = true
      ∧ ((s.core (tbTarget o.core 16).1).tbObj (tbTarget o.core 16).2).arrived < ((s.core (tbTarget o.core 16).1).tbObj (tbTarget o.core 16).2).quota
      ∧ ((s.core (tbTarget o.core 16).1).tbObj (tbTarget o.core 16).2).bal + n < 2 ^ 31)
    ∧ (∃ (op : Nat) (o : Op) (s : State), s.op op = some o ∧ o.kind = .tbarrive 16 ∧ s.ready o = true
      ∧ ((s.core (tbTarget o.core 16).1).tbObj (tbTarget o.core 16).2).arrived < ((s.core (tbTarget o.core 16).1).tbObj (tbTarget o.core 16).2).quota)
    ∧ (∃ (op : Nat) (o : Op) (s : State), s.op op = some o ∧ o.kind = .tbarrive 16 ∧ s.ready o = true
      ∧ ((s.core (tbTarget o.core 16).1).tbObj (tbTarget o.core 16).2).arrived = ((s.core (tbTarget o.core 16).1).tbObj (tbTarget o.core 16).2).quota)
    ∧ ∃ (op n : Nat) (o : Op) (s : State), s.op op = some o ∧ o.kind = .tbexpect 16 n ∧ n = 2 ^ 31 ∧ s.ready o = true
      ∧ -2 ^ 31 ≤ ((s.core (tbTarget o.core 16).1).tbObj (tbTarget o.core 16).2).bal - n :=
  ⟨⟨0, 0x7FFFFFFF, op0 (.credit 16 0x7FFFFFFF true), { os (.credit 16 0x7FFFFFFF true) with cores := [(0, ({ sp := [(22, 1)] } : CoreSt))] },
      rfl, rfl, rfl, by decide, by decide⟩,
    ⟨0, op0 (.tbarrive 16), { os (.tbarrive 16) with cores := [(0, ({ sp := [(22, 1)] } : CoreSt))] }, rfl, rfl, rfl, by decide⟩,
    ⟨0, op0 (.tbarrive 16), os (.tbarrive 16), rfl, rfl, rfl, by decide⟩,
    0, 2 ^ 31, op0 (.tbexpect 16 (2 ^ 31)), os (.tbexpect 16 (2 ^ 31)), rfl, rfl, rfl, rfl, by decide⟩

/-- Queue 256, enabled, with its ring at VA 0x8000. -/
def lq (sqwr sqrd : BitVec 16) (k : OpKind) : State :=
  { os k with queues := [(256, { enable := true, sqbase := 0x8000, sqwr := sqwr, sqrd := sqrd })] }
/-- A good image of one bundle and one halfword, at VA 0. -/
abbrev img0 : List (Nat × Byte) := [(2, 1), (5, 1), (6, 1)]
/-- A context that fetches from halfword n next. -/
def fetching (n : BitVec 16) (s : State) : State := { s with ctxs := [(0, { strand := some ⟨1, 0⟩, pc := n })] }

theorem witness_StrandRequestsPerform :
    (∃ (s : State) (op : Nat) (o : Op) (sc kind c : Nat) (d : BitVec 7), s.op op = some o ∧ s.ready o = true ∧ o.kind = .settle sc kind d
      ∧ s.peerWaits o.owner sc kind op = false ∧ s.ctxOf o.owner = some c ∧ kind ≠ 1)
    ∧ (∃ (s : State) (op : Nat) (o : Op) (sc : Nat) (x : Strand), s.op op = some o ∧ s.ready o = true ∧ o.kind = .trigger sc
      ∧ s.strand o.owner = some x)
    ∧ (∀ v : Bool, ∃ (s : State) (op : Nat) (o : Op), s.op op = some o ∧ s.ready o = true ∧ o.kind = .ttnext ∧ s.commits o.owner = v)
    ∧ (∃ (s : State) (op va : Nat) (o : Op) (hb : List Byte), s.op op = some o ∧ s.ready o = true ∧ o.kind = .ifenceLoad va ∧ o.copying = none
      ∧ s.blocked o.tenant false va 64 = none ∧ s.bytesAt o.tenant va 64 = some hb ∧ badImage (lineBits hb) = true)
    ∧ (∃ (s : State) (op va q : Nat) (o : Op) (pl : BitVec 2) (b : BitVec 512), s.op op = some o ∧ s.ready o = true
      ∧ o.kind = .launch va q pl none (some b) none ∧ (s.queueRegs (256 + q)).enable = false)
    ∧ (∃ (s t : State) (op va q : Nat) (o : Op) (pl : BitVec 2) (b : BitVec 512), s.op op = some o ∧ s.ready o = true
      ∧ o.kind = .launch va q pl none (some b) none
      ∧ (let r := s.queueRegs (256 + q)
         r.enable = true ∧ r.sqbase ≠ 0#57 ∧ (r.sqwr.toNat + 1) % 2 ^ (r.log2n.toNat + 4) ≠ r.sqrd.toNat
         ∧ s.blocked r.tenant true (r.sqbase.toNat + 64 * r.sqwr.toNat) 64 = none
         ∧ s.putAt r.tenant (r.sqbase.toNat + 64 * r.sqwr.toNat) (bitsLine b) = some t))
    ∧ (∃ (s : State) (op va q : Nat) (o : Op) (pl : BitVec 2) (p : Place), s.op op = some o ∧ s.ready o = true
      ∧ o.kind = .launch va q pl none none none
      ∧ (let r := s.queueRegs (256 + q)
         r.enable = true ∧ r.sqbase ≠ 0#57 ∧ (r.sqwr.toNat + 1) % 2 ^ (r.log2n.toNat + 4) = r.sqrd.toNat)
      ∧ s.mayReach o (BitVec.ofNat 57 va) false p ∧ s.badPlace p = false)
    ∧ (∃ (s : State) (core bar : BitVec 7) (job g : Nat), s.binding core.toNat bar.toNat = some (job, g)
      ∧ s.phaseReady (s.net bar.toNat job g) = true)
    ∧ (∀ b : Bool, ∃ (op va : Nat) (o : Op) (hb bs : List Byte) (s : State), s.op op = some o ∧ s.ready o = true ∧ o.kind = .ifenceLoad va
      ∧ o.copying = none ∧ s.blocked o.tenant false va 64 = none ∧ s.bytesAt o.tenant va 64 = some hb
      ∧ badImage (lineBits hb) = false ∧ headerParams (lineBits hb) = 0
      ∧ s.loadRefused o.core o.owner.seq (headerRanges (lineBits hb)) = b
      ∧ s.blocked o.tenant false va (imageBytes (headerRanges (lineBits hb))) = none
      ∧ s.bytesAt o.tenant va (imageBytes (headerRanges (lineBits hb))) = some bs)
    ∧ ∃ (op va c : Nat) (o : Op) (r : Ranges) (bs : List Byte) (s : State), s.op op = some o ∧ s.ready o = true
      ∧ o.kind = .ifenceLoad va ∧ o.copying = some (r, bs) ∧ s.ctxOf o.owner = some c :=
  ⟨⟨os (.settle 4 3 127), 0, _, 4, 3, 0, 127, rfl, rfl, rfl, rfl, rfl, by decide⟩, ⟨os (.trigger 4), 0, _, 4, _, rfl, rfl, rfl, rfl⟩,
    fun v => by
      cases v
      · exact ⟨os .ttnext, 0, op0 .ttnext, rfl, rfl, rfl, rfl⟩
      · exact ⟨{ os .ttnext with tt := { run := true, current := some { num := 5, jobs := [1] } }, jobs := [{ jb with iter := some 5 }] }, 0,
          op0 .ttnext, rfl, rfl, rfl, rfl⟩,
    ⟨os (.ifenceLoad 0), 0, 0, op0 (.ifenceLoad 0), List.replicate 64 0#8, rfl, rfl, rfl, rfl, by decide +kernel, by decide +kernel, by decide +kernel⟩,
    ⟨os (.launch 0 0 0 none (some 1) none), 0, 0, 0, op0 (.launch 0 0 0 none (some 1) none), 0, 1, rfl, rfl, rfl, rfl⟩,
    (by
      obtain ⟨t, h⟩ := some_of (x := (lq 14 0 (.launch 0 0 0 none (some 1) none)).putAt 0 0x8380 (bitsLine 1)) (by decide +kernel)
      exact ⟨lq 14 0 (.launch 0 0 0 none (some 1) none), t, 0, 0, 0, op0 (.launch 0 0 0 none (some 1) none), 0, 1, rfl, rfl, rfl, rfl, by decide +kernel,
        by decide +kernel, by decide +kernel, h⟩),
    ⟨lq 15 0 (.launch 0 0 0 none none none), 0, 0, 0, op0 (.launch 0 0 0 none none none), 0, p0 0, rfl, rfl, rfl, by decide +kernel,
      Or.inr ⟨rfl, by decide +kernel, rfl, fun _ e => nomatch e⟩, by decide +kernel⟩,
    ⟨{ js [] with nets := [{ bar := 5, job := 1, group := 0, arrivals := [(0, 1)] }], cores := [(0, { bars := [(5, 1, 0)] })] }, 0, 5, 1, 0, rfl,
      by decide⟩,
    (fun b => by
      have g (x : State) (q : (x.bytesAt 0#16 0 (imageBytes (headerRanges (lineBits (leBytes 64 0x1010000010000))))).isSome = true) := some_of q
      cases b
      · obtain ⟨bs, h⟩ := g (os (.ifenceLoad 0) img0) (by decide +kernel)
        exact ⟨0, 0, op0 (.ifenceLoad 0), leBytes 64 0x1010000010000, bs, os (.ifenceLoad 0) img0, rfl, rfl, rfl, rfl, by decide +kernel,
          by decide +kernel, by decide +kernel, by decide +kernel, by decide +kernel, by decide +kernel, h⟩
      · obtain ⟨bs, h⟩ := g (fetching (headerRanges (lineBits (leBytes 64 0x1010000010000))).idxbase (os (.ifenceLoad 0) img0)) (by decide +kernel)
        exact ⟨0, 0, op0 (.ifenceLoad 0), leBytes 64 0x1010000010000, bs, fetching (headerRanges (lineBits (leBytes 64 0x1010000010000))).idxbase (os (.ifenceLoad 0) img0), rfl, rfl, rfl, rfl, by decide +kernel,
          by decide +kernel, by decide +kernel, by decide +kernel, by decide +kernel, by decide +kernel, h⟩),
    0, 0, 0, { op0 (.ifenceLoad 0) with copying := some ({}, []) }, {}, [],
      { os (.ifenceLoad 0) with ops := [{ op0 (.ifenceLoad 0) with copying := some ({}, []) }] }, rfl, rfl, rfl, rfl, rfl⟩

/-- The only operation, on a core c. -/
def oc (k : OpKind) (c : CoreSt) (prog : Nat := 0) : State := { os k [] {} prog with cores := [(0, c)] }
theorem ok_oc {k : OpKind} {c : CoreSt} {n : Nat} (h : mwf spDefault c.sp = true ∧ ∀ y ∈ c.sets, mwf 0#32 y.2.acc = true) :
    (oc k c n).numbered ∧ (oc k c n).canonical :=
  ⟨⟨by simp [oc, os, op0], by simp [oc, os, op0]⟩, rfl, fun x m => by obtain rfl := List.mem_singleton.mp m; exact h⟩

/-- An MMAC of one row over the stage st1. -/
def mm (last : Bool) : Mmac :=
  { set := true, first := true, last := last, rows := 1, abase := 0, ascale := 0, prog := 0, rq := 0, afmt := 0x30, zeroed := 0, stage := st1, red := 0 }
theorem witness_MatrixEngineSteps :
    (∃ (s : State) (op : Nat) (o : Op) (prog x part : Nat), s.numbered ∧ s.canonical ∧ s.op op = some o ∧ o.kind = .dpload prog x part ∧ part ≠ 2
      ∧ s.ready o = true ∧ (∀ d ∈ s.runningDrains o.core op, d.prog ≠ prog) ∧ (s.exactDrains o.core prog).readBlocked o.core op ⟨x, imageSize part⟩ = false
      ∧ codeFault ((upto 32).map fun i => (s.core o.core).spWord (x + 64 + 4 * i)) 0 ((upto 16).map fun i => (s.core o.core).spWord (x + 4 * i)) = none)
    ∧ (∃ (s : State) (op : Nat) (o : Op) (prog x part r n c : Nat), s.numbered ∧ s.canonical ∧ s.op op = some o ∧ o.kind = .dpload prog x part
      ∧ part ≠ 2 ∧ s.ready o = true ∧ (∀ d ∈ s.runningDrains o.core op, d.prog ≠ prog) ∧ (s.exactDrains o.core prog).readBlocked o.core op ⟨x, imageSize part⟩ = false
      ∧ codeFault ((upto 32).map fun i => (s.core o.core).spWord (x + 64 + 4 * i)) 0 ((upto 16).map fun i => (s.core o.core).spWord (x + 4 * i))
        = some (r, n) ∧ s.ctxOf o.owner = some c)
    ∧ (∃ (s : State) (op : Nat) (o : Op) (prog x : Nat), s.numbered ∧ s.canonical ∧ s.op op = some o ∧ o.kind = .dpload prog x 2
      ∧ s.ready o = true ∧ (∀ d ∈ s.runningDrains o.core op, d.prog ≠ prog) ∧ (s.exactDrains o.core prog).readBlocked o.core op ⟨x, 2048⟩ = false)
    ∧ (∃ (s : State) (op n : Nat) (o : Op) (g : Stage), s.numbered ∧ s.canonical ∧ s.op op = some o ∧ o.kind = .mldh n g ∧ s.ready o = true
      ∧ n ∈ [64, 128, 256, 512] ∧ g.deal ≠ [] ∧ (s.core o.core).stageS = g ∧ g.id = op ∧ g.loading = true
      ∧ s.planeRead o g.phys 15#4 = false)
    ∧ (∃ (s : State) (op : Nat) (o : Op) (m : Mmac), s.numbered ∧ s.canonical ∧ s.op op = some o ∧ o.kind = .mmac m
      ∧ s.mayFetchRow o m = true ∧ s.stoppedDrain o.core m.set = none)
    ∧ (∀ last : Bool, ∃ (s : State) (op : Nat) (o : Op) (m : Mmac) (r : Reduction), s.numbered ∧ s.canonical ∧ s.op op = some o ∧ o.kind = .mmac m
      ∧ o.prog = m.rows ∧ s.engineRuns o.owner = true ∧ ((s.core o.core).set m.set).reds = [r] ∧ r.id = m.red ∧ r.retire = none ∧ m.last = last)
    ∧ (∃ (s : State) (op x : Nat) (o : Op) (m : Mmac), s.numbered ∧ s.canonical ∧ s.op op = some o ∧ o.kind = .mmac m ∧ o.prog = 0
      ∧ m.stage.id ∈ (s.core o.core).cancelled ∧ s.ctxOf o.owner = some x)
    ∧ ∃ (s : State) (core : BitVec 7) (set : Bool) (r : Reduction) (x : Nat), s.numbered ∧ s.canonical
      ∧ ((s.core core.toNat).set set).reds = [r] ∧ r.closed = false ∧ s.ctxOf r.owner = some x
      ∧ (s.ctx x).sr.redlim.toNat ≤ r.elapsed ∧ s.mmacsOf core.toNat r.id = [] :=
  ⟨⟨oc (.dpload 63 0 0) { sp := [(2, 0x30)] }, 0, op0 (.dpload 63 0 0), 63, 0, 0, (ok_oc (by decide)).1, (ok_oc (by decide)).2, rfl, rfl,
      by decide, rfl, by decide, rfl, by decide +kernel⟩,
    ⟨oc (.dpload 63 0 0) {}, 0, op0 (.dpload 63 0 0), 63, 0, 0, 6, 0, 0, (ok_oc (by decide)).1, (ok_oc (by decide)).2, rfl, rfl,
      by decide, rfl, by decide, rfl, by decide +kernel, rfl⟩,
    ⟨oc (.dpload 63 0 2) {}, 0, op0 (.dpload 63 0 2), 63, 0, (ok_oc (by decide)).1, (ok_oc (by decide)).2, rfl, rfl, rfl, by decide, rfl⟩,
    ⟨oc (.mldh 512 { loading := true, deal := [3] }) { stageS := { loading := true, deal := [3] } }, 0, 512, op0 (.mldh 512 _), _,
      (ok_oc (by decide)).1, (ok_oc (by decide)).2, rfl, rfl, rfl, by decide, by decide, rfl, rfl, rfl, by decide⟩,
    ⟨oc (.mmac (mm true)) { stageA := st1, sets := [(1, { reds := [red0] })] }, 0, op0 (.mmac (mm true)), mm true, (ok_oc (by decide)).1, (ok_oc (by decide)).2, rfl, rfl,
      by decide +kernel, rfl⟩,
    fun last => ⟨oc (.mmac (mm last)) { sets := [(1, { reds := [red0] })] } 1, 0, { op0 (.mmac (mm last)) with prog := 1 }, mm last, red0,
      (ok_oc (by decide)).1, (ok_oc (by decide)).2, rfl, rfl, rfl, rfl, rfl, rfl, rfl, rfl⟩,
    ⟨oc (.mmac (mm true)) { cancelled := [0] }, 0, 0, op0 (.mmac (mm true)), mm true, (ok_oc (by decide)).1, (ok_oc (by decide)).2, rfl, rfl, rfl,
      by decide, rfl⟩,
    oc .ttnext { sets := [(0, { reds := [{ red0 with elapsed := 65536 }] })] }, 0, false, { red0 with elapsed := 65536 }, 0,
      (ok_oc (by decide)).1, (ok_oc (by decide)).2, rfl, rfl, rfl, by decide, rfl⟩

/-- The drain's turn, with a pipe, or none, and its program loaded by job 1. -/
def ds (p : Option Pipe) (loaded : Bool) (prog : Nat) : State :=
  oc (.drain { dr0 with rmax := 1, nanStop := true }) { drains := [0], pipe := p, progs := [(0, { loaded := loaded, job := 1 })] } prog
def od (prog : Nat) : Op := { op0 (.drain { dr0 with rmax := 1, nanStop := true }) with prog := prog }
/-- The same drain with its accumulators to clear, and the owner's MMAC with FIRST behind it on the set. -/
def dc (p : Option Pipe) : State :=
  { ds p true 0 with
    ops := [op0 (.drain { dr0 with rmax := 1, nanStop := true, clear := true }),
            { op0 (.mmac { mm true with set := false }) with id := 1 }], nextOp := 2 }
theorem witness_DrainUnitsPerform :
    (∀ loaded : Bool, ∃ (op : Nat) (o : Op) (d : Drain) (s : State), s.op op = some o ∧ o.kind = .drain d ∧ s.ready o = true ∧ d.stopped = false
      ∧ s.drainTurn o = true ∧ o.prog < 8 * d.rmax ∧ (s.core o.core).pipe = none ∧ d.first = true
      ∧ (mget {} (s.core o.core).progs d.prog).loaded = loaded ∧ (mget {} (s.core o.core).progs d.prog).job = o.owner.seq)
    ∧ (∃ (op : Nat) (o : Op) (d : Drain) (s : State), s.op op = some o ∧ o.kind = .drain d ∧ s.ready o = true ∧ d.stopped = false
      ∧ s.drainTurn o = true ∧ o.prog < 8 * d.rmax ∧ (s.core o.core).pipe = none ∧ d.first = true ∧ d.clear = true
      ∧ (mget {} (s.core o.core).progs d.prog).loaded = true ∧ (mget {} (s.core o.core).progs d.prog).job = o.owner.seq)
    ∧ (∃ (op : Nat) (o : Op) (d : Drain) (s : State) (p : Pipe) (x : DrainStore), s.op op = some o ∧ o.kind = .drain d ∧ s.ready o = true
      ∧ d.stopped = false ∧ s.drainTurn o = true ∧ o.prog < 8 * d.rmax ∧ (s.core o.core).pipe = some p ∧ p.done = true ∧ p.op = op
      ∧ p.nan = none ∧ p.refusedNow (s.core o.core) = [] ∧ (s.core o.core).unsettledBefore op ⟨x.addr, x.size⟩ = false ∧ p.pushes.length ≤ 64 - (mget [] (s.core o.core).queues d.rq).length
      ∧ p.stores = [x] ∧ s.writeBlocked o.core op ⟨x.addr, x.size⟩ = false ∧ p.group ≤ x.group ∧ x.group < p.group + p.width ∧ x.stage < 16
      ∧ x.addr + x.size ≤ 0x400000)
    ∧ (∃ (op n : Nat) (o : Op) (d : Drain) (s : State) (p : Pipe), s.op op = some o ∧ o.kind = .drain d ∧ s.ready o = true ∧ d.stopped = false
      ∧ s.drainTurn o = true ∧ o.prog < 8 * d.rmax ∧ (s.core o.core).pipe = some p ∧ p.done = true ∧ p.op = op ∧ d.nanStop = true ∧ p.nan = some n ∧ p.stores = []
      ∧ ∃ q ∈ s.ops, q.core = o.core ∧ q.owner = o.owner ∧ q.prog = 0 ∧ ∃ m, q.kind = .mmac m ∧ m.first = true ∧ m.set = d.set)
    ∧ (∃ (op : Nat) (o : Op) (d : Drain) (s : State) (p : Pipe) (x : Nat × Nat × Nat), s.op op = some o ∧ o.kind = .drain d ∧ s.ready o = true
      ∧ d.stopped = false ∧ s.drainTurn o = true ∧ o.prog < 8 * d.rmax ∧ (s.core o.core).pipe = some p ∧ p.done = true ∧ p.op = op ∧ p.nan = none
      ∧ p.refusedNow (s.core o.core) = [x] ∧ x.2.2 ≠ 0 ∧ ∀ y ∈ p.stores, (s.core o.core).unsettledBefore op ⟨y.addr, y.size⟩ = false)
    ∧ (∃ (op : Nat) (o : Op) (d : Drain) (s : State) (p : Pipe), s.op op = some o ∧ o.kind = .drain d ∧ (s.core o.core).pipe = some p ∧ p.op = op
      ∧ p.done = true ∧ 1024 ≤ p.waited ∧ 64 - (mget [] (s.core o.core).queues d.rq).length < p.pushes.length)
    ∧ ∃ (op : Nat) (o : Op) (d : Drain) (s : State), s.op op = some o ∧ o.kind = .drain d ∧ s.ready o = true ∧ s.drainTurn o = true
      ∧ 8 * d.rmax ≤ o.prog :=
  ⟨fun l => ⟨0, od 0, _, ds none l 0, rfl, rfl, rfl, rfl, by decide +revert, by decide, rfl, rfl, rfl, rfl⟩,
    ⟨0, op0 (.drain { dr0 with rmax := 1, nanStop := true, clear := true }), _, dc none, rfl, rfl, rfl, rfl, by decide, by decide, rfl, rfl, rfl, rfl, rfl⟩,
    ⟨0, od 0, _, ds (some { done := true, stores := [⟨0, 15, 0x3FFFFC, 4, 1⟩] }) true 0, _, _, rfl, rfl, rfl, rfl, by decide, by decide, rfl, rfl, rfl,
      rfl, rfl, rfl, by decide, rfl, by decide, by decide, by decide, by decide, by decide⟩,
    ⟨0, 4, op0 (.drain { dr0 with rmax := 1, nanStop := true, clear := true }), _, dc (some { done := true, nan := some 4 }), _, rfl, rfl, rfl, rfl, by decide,
      by decide, rfl, rfl, rfl, rfl, rfl, rfl, _, List.mem_cons_of_mem _ (List.mem_singleton.mpr rfl), rfl, rfl, rfl, _, rfl, rfl, rfl⟩,
    ⟨0, od 0, _, ds (some { done := true, refused := [(0, 3, 2)] }) true 0, _, _, rfl, rfl, rfl, rfl, by decide, by decide, rfl, rfl, rfl, rfl, rfl,
      by decide, (fun _ h => nomatch h)⟩,
    ⟨0, od 0, _, ds (some { done := true, waited := 1024, pushes := List.replicate 65 (0, 0, Vec.zero) }) true 0, _, rfl, rfl, rfl, rfl, rfl, by decide,
      by decide⟩,
    0, od 8, _, ds none true 8, rfl, rfl, rfl, by decide, by decide⟩

theorem witness_FloorsFailAndThrottle : ∀ b : Bool, ∃ (floor : BitVec 2) (s : State),
    (floor.toNat ∈ (s.core 0).stageA.deal ∧ (s.core 0).stageA.valid = true) ∧ ¬(floor.toNat ∈ (s.core 0).stageS.deal ∧ (s.core 0).stageS.loading = b) :=
  fun b => ⟨3, { cores := [(0, { stageA := { deal := [0, 3], valid := true }, stageS := { deal := [3], loading := !b } })] }, by cases b <;> decide, by cases b <;> decide⟩

/-- A part whose next step runs ADD, and one whose next step runs a drain micro-operation. -/
abbrev ra : State := r0.withFetchWord 32 0x04100000
abbrev rm : State := r0.withFetchWord 24 0x300000
theorem ok_of {α β : Type} {x : Except α β} {d : β} (h : x.toOption = some d) : x = .ok d := by
  cases x <;> simp_all [Except.toOption]
/-- The bundle of ADD s1, s0, s0. -/
abbrev addWord : Decoded := ⟨[(0, .add 1 ⟨0, false⟩ ⟨0, false⟩)], 7, 0, false, 0, 0⟩
set_option exponentiation.threshold 400 in
theorem ra_stands : ra.standsAt 0 addWord := by
  refine ⟨rfl, ⟨⟨1, 0⟩, rfl, rfl, rfl⟩, rfl, rfl, rfl, rfl, rfl, rfl, rfl, rfl, by decide, fun j _ h => ?_, (fun _ h => nomatch h), rfl, by decide +kernel,
    by decide +kernel, by decide +kernel, by decide +kernel, ok_of (by decide +kernel)⟩
  have e : ra.ctx j = {} := by
    rcases j with _ | j
    · exact absurd rfl h
    · rfl
  rw [e]; exact ⟨rfl, rfl⟩
set_option exponentiation.threshold 400 in
theorem witness_StepRunsTheDecodedInstruction :
    (∃ (s t : State) (i : Instr), s.power = .running ∧ s.choose = .step i ∧ exec i s = .next t)
    ∧ (∃ (s t : State) (k : Nat) (p : Pipe) (o : Op) (d : Drain) (i : Instr), s.power = .running ∧ s.choose = .micro k
      ∧ (s.core k).pipe = some p ∧ p.done = false ∧ s.frozen k = false ∧ s.op p.op = some o ∧ o.kind = .drain d
      ∧ decodeDrain ((nth 0#32 (mget {} (s.core k).progs d.prog).code p.step).setWidth 24) = .ok i
      ∧ exec i { s with drainCore := k } = .next t)
    ∧ ∃ (s : State) (core : BitVec 7) (c : Nat) (d : Decoded) (n : Nat) (i : Instr), coreOf c = core.toNat ∧ s.standsAt c d
      ∧ d.slots = [(n, i)] ∧ d.sync = 0#2 ∧ d.bpen = false :=
  ⟨⟨ra, _, .mergeCycle 0, rfl, by decide +kernel, rfl⟩,
    ⟨rm, _, 0, { op := 0 }, _, _, .dend, rfl, by decide +kernel, rfl, rfl, rfl, rfl, rfl, ok_of (by decide +kernel), rfl⟩,
    ra, 0, 0, addWord, 0, _, rfl, ra_stands, rfl, rfl, rfl⟩

/-- Context 0 of core 0 stands at the only halfword of its kernel, or beyond it. -/
def fs (h idxlen : BitVec 16) : State :=
  { js [] with ctxs := [(0, { strand := some ⟨1, 0⟩, idxlen := idxlen, sr := { dictlen := 1 } })], cores := [(0, { index := [(0, h)] })] }
/-- An HREAD that an XFORM of the same strand waits for; the core has waited to the least HMLIM. -/
def lm (hall : Nat) (stop : Option StopReq) : State :=
  { js [] with
    ops := [{ op0 rd16 with writes := [⟨0, 64⟩] }, { op0 (.xform 6 0 4096 64 0) with id := 1, reads := [⟨0, 64⟩] }], nextOp := 2
    ctxs := [(0, { strand := some ⟨1, 0⟩, sr := { hmlim := 256 }, stop := stop })], cores := [(0, { hall := hall })] }
theorem witness_FetchAndBoundarySteps :
    (∀ h : BitVec 16, h = 0#16 ∨ h = 5#16 ∨ h = 0xFFFE#16 ∨ h = 0xFFFF#16 → ∃ (ctx : BitVec 9) (s : State),
      let c := ctx.toNat
      let x := s.ctx c
      s.mayOffer c = true ∧ x.offered = none ∧ x.oor = false ∧ x.pc.toNat < x.idxlen.toNat
        ∧ (s.core (coreOf c)).halfword (x.idxbase.toNat + x.pc.toNat) = h ∧ x.sr.dictlen = 1#13 ∧ x.sr.dictbase = 0#12
        ∧ x.pc.toNat + 24 < x.idxlen.toNat)
    ∧ (∃ (ctx : BitVec 9) (s : State), s.mayOffer ctx.toNat = true ∧ (s.ctx ctx.toNat).offered = none
      ∧ ¬(s.ctx ctx.toNat).pc.toNat < (s.ctx ctx.toNat).idxlen.toNat)
    ∧ (∃ (ctx : BitVec 9) (s : State) (o : Owed) (f : Fetched) (i : StrandId), s.mayOffer ctx.toNat = true ∧ (s.ctx ctx.toNat).offered = some f
      ∧ (s.ctx ctx.toNat).strand = some i ∧ s.faultHead (coreOf ctx.toNat) i = none ∧ (s.ctx ctx.toNat).owed = [o] ∧ o.cause ≠ 0x28#8)
    ∧ (∀ r : Option StopReq, r = none ∨ r = some ⟨1, 0x3F, 0, 0, [], false, false⟩ → ∃ (core : BitVec 7) (s : State), s.numbered
        ∧ ∃ o ∈ s.freezing core.toNat, ∃ j, s.ctxOf o.owner = some j ∧ (s.ctx j).sr.hmlim.toNat ≤ (s.core core.toNat).hall ∧ (s.ctx j).stop = r)
    ∧ (∃ (core : BitVec 7) (s : State), (s.core core.toNat).freeze ≠ 0)
    ∧ (∃ (core : BitVec 7) (s : State), (s.core core.toNat).freeze = 0 ∧ s.freezing core.toNat ≠ []
        ∧ ∀ o ∈ s.freezing core.toNat, ∀ i, s.ctxOf o.owner = some i → (s.core core.toNat).hall + 1 < (s.ctx i).sr.hmlim.toNat)
    ∧ (∃ (core : BitVec 7) (s : State), s.frozen core.toNat = false
        ∧ ∀ i, coreOf i = core.toNat → (s.ctx i).strand = none ∧ (s.ctx i).hold = none ∧ (s.ctx i).flight = [])
    ∧ ∃ (core : BitVec 7) (s : State) (i m : Nat) (d : Decoded) (r : BitVec 6) (a b : Src), coreOf i = core.toNat ∧ s.standsAt i d
        ∧ d.slots = [(m, .add r a b)] ∧ d.sync = 0#2 ∧ d.bpen = false ∧ r ≠ 0#6
        ∧ (s.ctx i).regs.isEmpty (sReg a.reg) = false ∧ (s.ctx i).regs.isEmpty (sReg b.reg) = false :=
  ⟨fun h e => ⟨0, fs h 25, by rcases e with rfl | rfl | rfl | rfl <;> decide⟩,
    ⟨0, fs 0 0, by decide, rfl, by decide⟩,
    ⟨0, { js [] with ctxs := [(0, { strand := some ⟨1, 0⟩, offered := some (.bad ⟨0, 0, 0⟩), owed := [⟨0x15, 0⟩] })] }, _, _, _, by decide, rfl, rfl, rfl, rfl,
      by decide⟩,
    (fun r e => ⟨0, lm 256 r, ⟨by rcases e with rfl | rfl <;> decide, by rcases e with rfl | rfl <;> decide⟩,
      { op0 (.xform 6 0 4096 64 0) with id := 1, reads := [⟨0, 64⟩] }, by rcases e with rfl | rfl <;> decide, 0, rfl, by rcases e with rfl | rfl <;> decide⟩),
    ⟨0, { cores := [(0, { freeze := 1 })] }, by decide⟩,
    ⟨0, lm 254 none, rfl, by decide, fun o ho i hi => by
      obtain rfl : o = { op0 (.xform 6 0 4096 64 0) with id := 1, reads := [⟨0, 64⟩] } := List.mem_singleton.mp ho
      obtain rfl := Option.some.inj hi
      decide⟩,
    ⟨0, r0, rfl, fun i _ => ⟨rfl, rfl, rfl⟩⟩,
    0, ra, 0, 0, addWord, 1#6, ⟨0, false⟩, ⟨0, false⟩, rfl, ra_stands, rfl, rfl, rfl, by decide, rfl, rfl⟩

/-- A strand that waits at priority 5 for one of the contexts of core 0, which the strands of job 1 hold at priority 0; strand 4,
saved from core 1 and held, is in the gang of strand 0. -/
def pzGang : Saved := { core := 1, slot := 0, held := true }
/-- … -/
def pz : State :=
  let x (n : Nat) : Ctx := { strand := some ⟨1, n⟩ }
  { js [] with
    ctxs := [(0, x 0), (1, x 1), (2, x 2), (3, x 3)]
    jobs := [{ jb with
               groups := [⟨1, true, [0, 4]⟩]
               strands := ((upto 4).map fun n => { st := .resident n, core := some 0 }) ++ [{ st := .saved, saved := some pzGang, core := some 1 }] },
             { jb with seq := 2, groups := [], strands := [{ st := .saved, saved := some { core := 0, slot := 0, prio := 5 }, core := some 0 }] }] }
/-- A strand that has stopped, and one that is saved, with its slot at VA 0. -/
def sv : State := { os .ttnext with ctxs := [(0, { strand := some ⟨1, 0⟩, stop := some { reason := 1, cause := 0x3F, info := 0, pc := 0 } })] }
def sd (held : Bool) (k : OpKind := .ttnext) : State :=
  { os k with
    ctxs := [], jobs := [{ jb with strands := [{ st := .saved, saved := some { core := 0, slot := 0, held := held }, core := some 0 }] }]
    dbg := { unlocked := true } }
theorem witness_StrandsAreSavedAndRestored :
    (∃ (s : State) (seq n c : Nat) (j v : Job) (x : Strand) (i : StrandId), findJob seq s.jobs = some j ∧ j.strands[n]? = some x
      ∧ s.wantsPreempt j n = some c ∧ (s.ctx c).strand = some i ∧ findJob i.seq s.jobs = some v
      ∧ ∃ m ∈ v.gangOf i.idx, ∃ y, s.strand ⟨i.seq, m⟩ = some y ∧ y.st = .saved ∧ ∃ w, y.saved = some w)
    ∧ (∃ (s u : State) (ctx : BitVec 9) (i : StrandId) (r : StopReq), s.maySave ctx.toNat = true ∧ (s.ctx ctx.toNat).strand = some i
      ∧ (s.ctx ctx.toNat).stop = some r ∧ s.blocked (s.tenantOf i) true (s.ctx ctx.toNat).sr.xsave.toNat 24576 = none
      ∧ s.putAt (s.tenantOf i) (s.ctx ctx.toNat).sr.xsave.toNat (s.slotImage ctx.toNat i r) = some u)
    ∧ (∃ (s : State) (seq n : Nat) (j : Job), findJob seq s.jobs = some j ∧ s.mayRestore j n = false)
    ∧ (∃ (s : State) (seq n c : Nat) (j : Job) (w : Saved) (l : List Nat) (bs : List Byte), findJob seq s.jobs = some j
      ∧ s.mayRestore j n = true ∧ s.restoreSet j n = some [n] ∧ s.restorable ⟨seq, n⟩ = some w ∧ s.room ⟨seq, n⟩ w = c :: l
      ∧ s.blocked (s.tenantOf ⟨seq, n⟩) false w.slot 24576 = none ∧ s.bytesAt (s.tenantOf ⟨seq, n⟩) w.slot 24576 = some bs)
    ∧ (∃ (s s1 s2 s3 : State) (op tag : Nat) (o : Op) (v : Word) (m : BitVec 6) (w : Saved) (b1 b2 : Byte) (x : Strand),
      s.op op = some o ∧ o.kind = .result (.word v) ∧ o.dest = some (sReg m, tag) ∧ m ≠ 0#6
      ∧ s.strand o.owner = some x ∧ x.saved = some w ∧ s.blocked o.tenant true w.slot 24576 = none
      ∧ s.putAt o.tenant (w.slot + (0x40 + 8 * m.toNat)) (leBytes 8 v.toNat) = some s1
      ∧ s1.bytesAt o.tenant (w.slot + 0x2C0 + m.toNat / 8) 1 = some [b1]
      ∧ s1.putAt o.tenant (w.slot + 0x2C0 + m.toNat / 8) [b1 &&& ~~~BitVec.twoPow 8 (m.toNat % 8)] = some s2
      ∧ s2.bytesAt o.tenant (w.slot + 32 + m.toNat / 8) 1 = some [b2]
      ∧ s2.putAt o.tenant (w.slot + 32 + m.toNat / 8) [b2 &&& ~~~BitVec.twoPow 8 (m.toNat % 8)] = some s3)
    ∧ (∃ (s s1 : State) (op tag : Nat) (o : Op) (m : BitVec 6) (w : Saved) (b : Byte) (x : Strand),
      s.op op = some o ∧ o.kind = .noResult ∧ o.dest = some (sReg m, tag) ∧ m ≠ 0#6
      ∧ s.strand o.owner = some x ∧ x.saved = some w ∧ s.blocked o.tenant true w.slot 24576 = none
      ∧ s.bytesAt o.tenant (w.slot + 32 + m.toNat / 8) 1 = some [b]
      ∧ s.putAt o.tenant (w.slot + 32 + m.toNat / 8) [b &&& ~~~BitVec.twoPow 8 (m.toNat % 8)] = some s1)
    ∧ ∃ (s : State) (ctx : BitVec 9) (i : StrandId), (s.ctx ctx.toNat).strand = some i ∧ s.ctxOf i = some ctx.toNat := by
  refine ⟨⟨pz, 2, 0, 0, _, _, _, ⟨1, 0⟩, rfl, rfl, by decide +kernel, rfl, rfl, 4, by decide, _, rfl, rfl, _, rfl⟩, ?_,
    ⟨js [], 1, 0, jb, rfl, rfl⟩, ?_, ?_, ?_, js [], 0, ⟨1, 0⟩, rfl, rfl⟩
  · obtain ⟨u, h, -⟩ := putAt_host (a := 0#16) (s := sv) (host0_of 0 [] rfl) 0 (sv.slotImage 0 ⟨1, 0⟩ { reason := 1, cause := 0x3F, info := 0, pc := 0 })
      (by rw [length_slotImage _ _ _ rfl]; decide)
    exact ⟨sv, u, 0, ⟨1, 0⟩, _, by decide +kernel, rfl, rfl, blocked_write_host (a := 0#16) (host0_of 0 [] rfl) 0 24576 (by decide), h⟩
  · have i : Host0 0#16 (sd false) := host0_of 0 [] rfl
    exact ⟨sd false, 1, 0, 0, _, { core := 0, slot := 0, held := false }, _, _, rfl, by decide +kernel,
      by decide +kernel, by decide +kernel, (by decide +kernel : (sd false).room ⟨1, 0⟩ { core := 0, slot := 0 } = [0, 1, 2, 3]), blocked_host i 0 24576 (by decide), bytesAt_host i 0 24576 (by decide)⟩
  · let s : State := { sd false with ops := [{ op0 (.result (.word 7)) with dest := some (sReg 5#6, 3) }] }
    obtain ⟨s1, h1, i1⟩ := putAt_host (a := 0#16) (s := s) (host0_of 0 [] rfl) (0x40 + 8 * 5) (leBytes 8 7) (by decide)
    obtain ⟨s2, h2, i2⟩ := putAt_host i1 0x2C0 [s1.mem.byte (hostMedia 0x2C0) &&& ~~~BitVec.twoPow 8 (5 % 8)] (by simp)
    obtain ⟨s3, h3, -⟩ := putAt_host i2 32 [s2.mem.byte (hostMedia 32) &&& ~~~BitVec.twoPow 8 (5 % 8)] (by simp)
    exact ⟨s, s1, s2, s3, 0, 3, _, 7, 5#6, _, _, _, _, rfl, rfl, rfl, by decide, rfl, rfl,
      blocked_write_host (a := 0#16) (s := s) (host0_of 0 [] rfl) 0 24576 (by decide), h1, byteAt_host i1 (by decide), h2,
      byteAt_host i2 (by decide), h3⟩
  · let s : State := { sd false with ops := [{ op0 .noResult with dest := some (sReg 5#6, 3) }] }
    have i : Host0 0#16 s := host0_of 0 [] rfl
    obtain ⟨s1, h1, -⟩ := putAt_host i 32 [s.mem.byte (hostMedia 32) &&& ~~~BitVec.twoPow 8 (5 % 8)] (by simp)
    exact ⟨s, s1, 0, 3, _, 5#6, _, _, _, rfl, rfl, rfl, by decide, rfl, rfl, blocked_write_host i 0 24576 (by decide),
      byteAt_host i (by decide), h1⟩

/-- Frame 1 of stack 0 lies near at MEDIA 7, or moves there from far; its page is page 0 of ASID 0. -/
def nf (e : Word) (moves : List Move) : State :=
  { mem := { mem 0 [] with tlb := [(0, [0x10004#64])], bytes := ((tbl [7]).take 7 ++ [(262146, 1)] ++ (tbl [7]).drop 7).map fun (y : Nat × Byte) => (hostMedia y.1, y.2)
                           chart := (1, e) :: tblChart, moves := moves } }
/-- A migration of that frame from far. -/
def nfMove : State := nf (chEntry 3 false false false 9) [⟨1, 2, 1, 7⟩]
def nfParked (f := 1) (line := 0) : ParkedAccess := { frame := f, line := line, op := 9, write := true, act := some (0, .write 1 7), key := 5 }
/-- The walk of page 0 waits behind a write of its root's line, or core 0 has no credit left at that frame's controller. -/
def nfWaits (held : Bool) : State :=
  if held then { os .ttnext with mem := { mem 0 [] with tlb := [], parked := [nfParked 20 1] } }
  else let s := nf (chEntry 1 false false false 7) []
    { s with mem := { s.mem with parked := List.replicate 32 (nfParked 3) } }
/-- The saved strand above, its slot in that page: a write of its first line waits behind the migration. -/
def sdMove : State := { sd true with mem := { nfMove.mem with parked := [nfParked] } }
theorem witness_DispositionsAndDebugRequests :
    (∃ (seq : BitVec 56) (n : BitVec 13) (s : State), s.dbg.go = false ∧ (s.dbg.unlocked = false ∨ s.strand ⟨seq.toNat, n.toNat⟩ = none))
    ∧ (∃ (seq : BitVec 56) (n : BitVec 13) (s : State) (x : Strand) (c : Nat), s.dbg.go = false ∧ s.dbg.unlocked = true
      ∧ s.tenantOf ⟨seq.toNat, n.toNat⟩ = s.dbg.dtenant ∧ s.strand ⟨seq.toNat, n.toNat⟩ = some x ∧ x.st = .resident c ∧ (s.ctx c).stop = none)
    ∧ (∃ (seq : BitVec 56) (n : BitVec 13) (s : State) (x : Strand) (c : Nat) (r : StopReq), s.dbg.go = false ∧ s.dbg.unlocked = true
      ∧ s.tenantOf ⟨seq.toNat, n.toNat⟩ = s.dbg.dtenant ∧ s.strand ⟨seq.toNat, n.toNat⟩ = some x ∧ x.st = .resident c
      ∧ (s.ctx c).stop = some r ∧ r.reason = 0)
    ∧ (∃ (seq : BitVec 56) (n : BitVec 13) (s s1 : State) (x : Strand) (w : Saved) (b : Byte), s.dbg.go = false ∧ s.dbg.unlocked = true
      ∧ s.tenantOf ⟨seq.toNat, n.toNat⟩ = s.dbg.dtenant ∧ s.strand ⟨seq.toNat, n.toNat⟩ = some x ∧ x.st = .saved ∧ x.saved = some w
      ∧ w.held = false ∧ w.dheld = false ∧ s.blocked (s.tenantOf ⟨seq.toNat, n.toNat⟩) true (w.slot + 0) 1 ≠ some .waits
      ∧ s.bytesAt (s.tenantOf ⟨seq.toNat, n.toNat⟩) w.slot 1 = some [b]
      ∧ s.putAt (s.tenantOf ⟨seq.toNat, n.toNat⟩) w.slot [(b &&& 0xF0#8) ||| if b &&& 7#8 = 1#8 then 0x09#8 else 0x0B#8] = some s1)
    ∧ (∃ (seq : BitVec 56) (n : BitVec 13) (s : State) (x : Strand) (w : Saved), s.dbg.go = false
      ∧ s.strand ⟨seq.toNat, n.toNat⟩ = some x ∧ x.st = .saved ∧ x.saved = some w ∧ w.held = false)
    ∧ (∀ held : Bool, ∃ (seq : BitVec 56) (n : BitVec 13) (s : State) (x : Strand) (w : Saved), s.dbg.go = false
      ∧ s.dbg.unlocked = true ∧ s.tenantOf ⟨seq.toNat, n.toNat⟩ = s.dbg.dtenant ∧ s.strand ⟨seq.toNat, n.toNat⟩ = some x ∧ x.st = .saved
      ∧ x.saved = some w ∧ w.held = held ∧ w.dheld = false
      ∧ s.blocked (s.tenantOf ⟨seq.toNat, n.toNat⟩) true (w.slot + 0) 1 = some .waits
      ∧ s.blocked (s.tenantOf ⟨seq.toNat, n.toNat⟩) false (w.slot + 0) 24576 = some .waits
      ∧ s.blocked (s.tenantOf ⟨seq.toNat, n.toNat⟩) true (w.slot + 0x1A) 2 = some .waits)
    ∧ ∃ (seq : BitVec 56) (n : BitVec 13) (s : State) (x : Strand) (w : Saved) (bs : List Byte) (s1 s2 s3 s4 : State), s.dbg.go = false
      ∧ s.dbg.unlocked = true ∧ s.tenantOf ⟨seq.toNat, n.toNat⟩ = s.dbg.dtenant ∧ s.strand ⟨seq.toNat, n.toNat⟩ = some x ∧ x.st = .saved
      ∧ x.saved = some w ∧ w.held = true ∧ s.bytesAt (s.tenantOf ⟨seq.toNat, n.toNat⟩) w.slot 24576 = some bs ∧ bs.length = 24576
      ∧ s.blocked (s.tenantOf ⟨seq.toNat, n.toNat⟩) false (w.slot + 0) 24576 ≠ some .waits
      ∧ (∀ p ∈ [(0x1A, 2), (0x40, 0x280), (0x2C0, 18), (0x1000, 0x4000)],
        s.blocked (s.tenantOf ⟨seq.toNat, n.toNat⟩) true (w.slot + p.1) p.2 ≠ some .waits)
      ∧ (let b := s.dbg.bytes
         let s0 : State := { s with dbg := { s.dbg with djob := seq, dstrand := n, dreq := 3#3, go := false, dres := 0#2, waits := 0#3 } }
         s0.putAt (s.tenantOf ⟨seq.toNat, n.toNat⟩) (w.slot + 0x1A) (b 0x1A 2) = some s1
         ∧ s1.putAt (s.tenantOf ⟨seq.toNat, n.toNat⟩) (w.slot + 0x40) (b 0x40 0x280) = some s2
         ∧ s2.putAt (s.tenantOf ⟨seq.toNat, n.toNat⟩) (w.slot + 0x2C0) (b 0x2C0 18) = some s3
         ∧ s3.putAt (s.tenantOf ⟨seq.toNat, n.toNat⟩) (w.slot + 0x1000) (b 0x1000 0x4000) = some s4) := by
  refine ⟨⟨0, 0, r0, rfl, Or.inl rfl⟩, ⟨1, 0, { js [] with dbg := { unlocked := true } }, _, 0, rfl, rfl, rfl, rfl, rfl, rfl⟩,
    ⟨1, 0, { js [] with dbg := { unlocked := true }, ctxs := [(0, { strand := some ⟨1, 0⟩, stop := some ⟨0, 0x22, 0, 0, [], false, false⟩ })] }, _, 0, _,
      rfl, rfl, rfl, rfl, rfl, rfl, rfl⟩, ?_, ⟨1, 0, sd false, _, _, rfl, rfl, rfl, rfl, rfl⟩,
    fun held => ⟨1, 0, { sdMove with jobs := (sd held).jobs }, _, { core := 0, slot := 0, held := held }, rfl, rfl, rfl, rfl, rfl, rfl, rfl, rfl,
      by cases held <;> decide +kernel, by cases held <;> decide +kernel, by cases held <;> decide +kernel⟩, ?_⟩
  · have i : Host0 0#16 (sd false) := host0_of 0 [] rfl
    let b := (sd false).mem.byte (hostMedia 0)
    obtain ⟨s1, h1, -⟩ := putAt_host i 0 [(b &&& 0xF0#8) ||| if b &&& 7#8 = 1#8 then 0x09#8 else 0x0B#8] (by simp)
    exact ⟨1, 0, sd false, s1, _, _, _, rfl, rfl, rfl, rfl, rfl, rfl, rfl, rfl,
      ne_waits (blocked_write_host i 0 1 (by decide)), byteAt_host i (by decide), h1⟩
  have i : Host0 0#16 (sd true) := host0_of 0 [] rfl
  let s0 : State := { sd true with dbg := { (sd true).dbg with djob := 1, dstrand := 0, dreq := 3#3, go := false, dres := 0#2, waits := 0#3 } }
  obtain ⟨s1, h1, i1⟩ := putAt_host (a := 0#16) (s := s0) (host0_of 0 [] rfl) 0x1A ((sd true).dbg.bytes 0x1A 2) (by decide +kernel)
  obtain ⟨s2, h2, i2⟩ := putAt_host i1 0x40 ((sd true).dbg.bytes 0x40 0x280) (by decide +kernel)
  obtain ⟨s3, h3, i3⟩ := putAt_host i2 0x2C0 ((sd true).dbg.bytes 0x2C0 18) (by decide +kernel)
  obtain ⟨s4, h4, -⟩ := putAt_host i3 0x1000 ((sd true).dbg.bytes 0x1000 0x4000) (by decide +kernel)
  exact ⟨1, 0, sd true, _, _, _, s1, s2, s3, s4, rfl, rfl, rfl, rfl, rfl, rfl, rfl, bytesAt_host i 0 24576 (by decide), read_length _ _ _,
    ne_waits (blocked_host i 0 24576 (by decide)),
    fun p m =>
      have : p.1 + p.2 ≤ 65536 := by revert p; decide
      ne_waits (blocked_write_host i (0 + p.1) p.2 (by omega)), h1, h2, h3, h4⟩

/-- A packet of one strand for core 0, with its image at VA 0, its parameters at VA 0x800 and its save area at VA 0x4000. -/
abbrev pkt : BitVec 512 := 1#512 <<< 51 ||| 4#512 <<< 124 ||| 0x20#512 <<< 128 ||| 0x100#512 <<< 192 ||| 1#512 <<< 360 ||| 1#512 <<< 368
/-- The header of that image: one entry, one halfword, one parameter to s5. -/
abbrev hdr0 : BitVec 512 := 0x0001000000010000#512 ||| 1#512 <<< 64 ||| 5#512 <<< 128
/-- A byte list placed at a VA of page 0. -/
def at_ (va : Nat) (l : List Byte) : List (Nat × Byte) := ((upto l.length).map (va + ·)).zip l |>.filter fun x => x.2 != 0#8
/-- Queue 0 holds one packet, the one above or one of zeros; the launch record is in use. -/
def aq (good : Bool) : State :=
  { os .ttnext (at_ 0 (bitsLine hdr0) ++ at_ 0x8000 (bitsLine pkt)) with
    jobs := [], ops := [], ctxs := [], fab := { recen := true }
    queues := [(0, { enable := true, sqwr := 1, sqbase := if good then 0x8000 else 0x8800, cqbase := 0x9000 })] }
theorem host0_aq (g : Bool) : Host0 0#16 (aq g) :=
  host0_of 0 (at_ 0 (bitsLine hdr0) ++ at_ 0x8000 (bitsLine pkt)) rfl
def Checked.ok? : Checked → Option (BitVec 512 × List Group)
  | .ok h g => some (h, g)
  | _ => none
def Checked.bad? : Checked → Option Nat
  | .bad n => some n
  | _ => none
theorem ok_chk {c : Checked} {h : BitVec 512} {g : List Group} (e : Checked.ok? c = some (h, g)) : c = .ok h g := by
  cases c <;> simp_all [Checked.ok?]
theorem bad_chk {c : Checked} {n : Nat} (e : Checked.bad? c = some n) : c = .bad n := by
  cases c <;> simp_all [Checked.bad?]

/-- Job 2, of that packet, after job 1. -/
def j2 (dep : Bool) : Job :=
  { seq := 2, packet := if dep then pkt ||| 1#512 <<< 384 ||| 1#512 <<< 440 else pkt, queue := some 0, slot := 0, tenant := 0, prio := 3
    header := hdr0, strands := [{}] }
def js2 (l : List Job) : State := { aq true with jobs := l, nextSeq := 3 }
theorem host0_js2 (l : List Job) : Host0 0#16 (js2 l) := host0_of 0 (at_ 0 (bitsLine hdr0) ++ at_ 0x8000 (bitsLine pkt)) rfl
def j3 : Job := { j2 false with started := true }
/-- The packet that the statement's admission takes, read now or held over. -/
def Reads (s u : State) (q : Nat) (p : BitVec 512) (held : Bool) : Prop :=
  let r := s.queueRegs q
  let va := r.sqbase.toNat + 64 * r.sqrd.toNat
  if held then s.packets.find? (·.1 == q) = some (q, p) ∧ u = s.cpUnpark 0 q
  else s.packets.find? (·.1 == q) = none ∧ s.blocked r.tenant false va 64 = none ∧ (s.bytesAt r.tenant va 64).map lineBits = some p
    ∧ u = { (s.cpUnpark 0 q).countRead r.tenant va 64 with packets := s.packets ++ [(q, p)] }
theorem witness_JobsAreAdmittedAndRun :
    (∀ held : Bool, ∃ (s u : State) (q : Nat) (p h : BitVec 512) (gs : List Group), s.admitting = true ∧ s.turnOf = some q
      ∧ Reads s u q p held ∧ s.launchAt q (s.queueRegs q).sqrd.toNat = none
      ∧ u.checkPacket p (u.source q (s.queueRegs q).sqrd.toNat p) false = .ok h gs)
    ∧ (∃ (s u v : State) (q status : Nat) (p : BitVec 512), s.admitting = true ∧ s.turnOf = some q ∧ Reads s u q p false
      ∧ (let r := s.queueRegs q
         s.launchAt q r.sqrd.toNat = none
         ∧ u.checkPacket p (u.source q r.sqrd.toNat p) false = .bad status ∧ r.cqbase ≠ 0#57
         ∧ u.blocked r.tenant true (r.cqbase.toNat + 16 * r.cqwr.toNat) 16 = none
         ∧ u.putAt r.tenant (r.cqbase.toNat + 16 * r.cqwr.toNat) (completionRecord 0 status r.sqrd.toNat s.dtime) = some v))
    ∧ (∃ (s : State) (seq : Nat) (j x : Job), findJob seq s.jobs = some j ∧ j.started = false ∧ j.removed = false ∧ j.completed = false
      ∧ j.field 440 4 ≠ 0 ∧ findJob (j.field 384 56) s.jobs = some x ∧ x.completed = true ∧ 0x20 ≤ x.status)
    ∧ (∃ (s : State) (seq : Nat) (j : Job) (bs : List Byte), findJob seq s.jobs = some j ∧ j.started = false ∧ j.removed = false
      ∧ j.completed = false ∧ j.field 440 4 = 0 ∧ j.field 504 4 = 0
      ∧ s.blocked j.tenant false (j.va 128) (8 * headerParams j.header) = none
      ∧ s.bytesAt j.tenant (j.va 128) (8 * headerParams j.header) = some bs
      ∧ (((s.cpUnpark seq 0).countRead j.tenant (j.va 128) (8 * headerParams j.header)).snapshot j).isOk = true)
    ∧ (∃ (s : State) (j : Job) (l : List Job) (n k c : Nat) (us : List (List Nat)) (before after free : List Nat) (image : List Byte),
      s.placing = j :: l ∧ findJob j.seq s.jobs = some j ∧ j.units = [n] :: us ∧ coreOrder (s.preferred j) = before ++ k :: after
      ∧ s.freeCtxs k = c :: free
      ∧ (let size := imageBytes (headerRanges j.header)
         s.blocked j.tenant false j.image size = none ∧ s.bytesAt j.tenant j.image size = some image)
      ∧ (∀ x ∈ before, s.eligible j n x = false ∨ (s.freeCtxs x).length ≤ s.waitingSaved x ⟨j.prio, j.seq, n⟩) ∧ s.eligible j n k = true ∧ s.waitingSaved k ⟨j.prio, j.seq, n⟩ < (s.freeCtxs k).length
      ∧ n < j.strands.length)
    ∧ (∃ (s v : State) (seq q : Nat) (j : Job), findJob seq s.jobs = some j ∧ j.started = true ∧ j.completed = false ∧ j.rerun = false
      ∧ (∀ x ∈ j.strands, x.st = .exited ∨ x.st = .lost) ∧ j.children = [] ∧ (∀ o ∈ s.ops, o.owner.seq ≠ seq)
      ∧ (∀ k h, h < 16 → (s.head k h).job = seq → (s.head k h).mode = 0) ∧ j.queue = some q ∧ (s.queueRegs q).cqbase ≠ 0#57
      ∧ s.blocked (s.queueRegs q).tenant true ((s.queueRegs q).cqbase.toNat + 16 * (s.queueRegs q).cqwr.toNat) 16 = none
      ∧ s.putAt (s.queueRegs q).tenant ((s.queueRegs q).cqbase.toNat + 16 * (s.queueRegs q).cqwr.toNat)
          (completionRecord seq j.status j.slot s.dtime) = some v)
    ∧ ∀ b : Bool, ∃ (s : State) (seq : Nat) (j : Job) (bs : List Byte), findJob seq s.jobs = some j ∧ j.rerun = true ∧ s.replayable j = b ∧ (∀ o ∈ s.ops, o.owner.seq ≠ seq)
      ∧ (∀ k h, h < 16 → (s.head k h).job = seq → (s.head k h).mode = 0) ∧ j.wset = []
      ∧ s.blocked j.tenant false (j.va 128) (8 * headerParams j.header) = none
      ∧ s.bytesAt j.tenant (j.va 128) (8 * headerParams j.header) = some bs := by
  have hd (l : List Job) (k h : Nat) : ((js2 l).head k h).mode = 0 := by
    have e : (js2 l).head k h = {} := by
      rcases k with _ | k <;> rcases h with _ | h <;> rfl
    rw [e]
  refine ⟨fun held => ?_,
    ?_, ⟨js2 [{ jb with completed := true, status := 0x21 }, j2 true], 2, j2 true, { jb with completed := true, status := 0x21 }, rfl, rfl, rfl, rfl, by decide +kernel, by decide +kernel, rfl, by decide⟩,
    ⟨js2 [j2 false], 2, j2 false, List.replicate 8 0#8, rfl, rfl, rfl, rfl, by decide +kernel, by decide +kernel, by decide +kernel, by decide +kernel, by decide +kernel⟩,
    ?_, ?_,
    fun b => ⟨js2 [{ j2 false with packet := pkt ||| 1#512 <<< 357, rerun := true, wsetOk := b }], 2, _, List.replicate 8 0#8, rfl, rfl, by cases b <;> decide +kernel, (fun _ h => nomatch h), (fun k h _ _ => hd _ k h), rfl,
      by cases b <;> decide +kernel, by cases b <;> decide +kernel⟩⟩
  · cases held
    · exact ⟨aq true, { aq true with packets := [(0, pkt)] }, 0, pkt, hdr0, [], by decide, by decide,
        ⟨rfl, by decide +kernel, by decide +kernel, congrArg (fun s : State => { s with packets := [(0, pkt)] }) (countRead_host (host0_aq true) 0x8000 64 (by decide)).symm⟩, by decide, ok_chk (by decide +kernel)⟩
    · exact ⟨{ aq true with packets := [(0, pkt)] }, { aq true with packets := [(0, pkt)] }, 0, pkt, hdr0, [], by decide, by decide, ⟨rfl, rfl⟩, by decide, ok_chk (by decide +kernel)⟩
  · obtain ⟨v, h, -⟩ := putAt_host (a := 0#16) (s := { aq false with packets := [(0, 0#512)] })
      (host0_of 0 (at_ 0 (bitsLine hdr0) ++ at_ 0x8000 (bitsLine pkt)) rfl) 0x9000 (completionRecord 0 1 0 0) (by decide +kernel)
    exact ⟨aq false, _, v, 0, 1, 0#512, by decide, by decide,
      ⟨rfl, by decide +kernel, by decide +kernel, congrArg (fun s : State => { s with packets := [(0, 0#512)] }) (countRead_host (host0_aq false) 0x8800 64 (by decide)).symm⟩, by decide,
      bad_chk (by decide +kernel), by decide, by decide +kernel, h⟩
  · obtain ⟨im, h⟩ := some_of (x := (js2 [j3]).bytesAt j3.tenant j3.image (imageBytes (headerRanges j3.header))) (by decide +kernel)
    exact ⟨js2 [j3], j3, [], 0, 0, 0, [], [], (coreOrder 0).tail, [1, 2, 3], im, by decide +kernel, rfl,
      by decide +kernel, by decide +kernel, by decide +kernel, ⟨by decide +kernel, h⟩, (fun _ h => nomatch h), by decide +kernel, by decide +kernel, by decide⟩
  · let s := js2 [{ j2 false with started := true, strands := [{ st := .exited }] }]
    obtain ⟨v, h, -⟩ := putAt_host (a := 0#16) (s := s) (host0_js2 _) 0x9000 (completionRecord 2 0 0 0) (by decide +kernel)
    exact ⟨s, v, 2, 0, _, rfl, rfl, rfl, rfl, by simp, rfl, (fun _ h => nomatch h), (fun k h _ _ => hd _ k h), rfl, by decide, by decide +kernel, h⟩

/-- ASID 0xFFFF's page 0, with bytes; the areas of the Timetable lie in it. -/
def tm (t : Timetable) (b : List (Nat × Byte)) : State :=
  { tt := { t with pendva := 0, curva := 0x1000, schbase := 0x2000 }, fab := { recen := true }
    mem := mem 0xFFFF b }
/-- A boundary can read and write its areas. -/
def copied (u : State) (live rowten cb : List Byte) (d : State) : Prop :=
  let v := u.countRead 0xFFFF#16 0 2304
  u.blocked 0xFFFF#16 false 0 2304 = none ∧ u.blocked 0xFFFF#16 true 0x1000 2304 = none
    ∧ v.bytesAt 0xFFFF#16 0 128 = some live ∧ v.bytesAt 0xFFFF#16 128 8 = some cb ∧ v.bytesAt 0xFFFF#16 256 2048 = some rowten
    ∧ ∃ a b, v.putAt 0xFFFF#16 0x1000 (maskLive live rowten u.tt.resetSet) = some a
      ∧ a.putAt 0xFFFF#16 (0x1000 + 128) (leBytes 8 (leNat cb % 16)) = some b ∧ b.putAt 0xFFFF#16 (0x1000 + 256) rowten = some d
theorem read_tbl (a : BitVec 16) : ∀ n va : Nat, va + n ≤ 65536 → (mem a []).read (hostMedia va) n = List.replicate n 0#8
  | 0, _, _ => rfl
  | n + 1, va, h => by
    have b : (mem a []).byte (hostMedia va) = 0#8 := by
      simp only [MemSys.byte, mget, tbl, upto, List.map, List.nil_append, List.length, List.range_succ, List.range_zero, List.cons_append, List.zip,
        List.zipWith]
      unfold hostMedia
      repeat' split
      all_goals first | omega | rfl
    have := read_tbl a n (va + 1) (by omega)
    rw [MemSys.read, b, show hostMedia va + 1 = hostMedia (va + 1) by unfold hostMedia; omega, this]; rfl
theorem copied_tm (t : Timetable) (u : State) (h : u.mem = (tm t []).mem) :
    ∃ d, copied u (List.replicate 128 0#8) (List.replicate 2048 0#8) (List.replicate 8 0#8) d := by
  have i : Host0 0xFFFF#16 u := host0_of 0xFFFF [] h
  have l (n : Nat) : (List.replicate n 0#8).length = n := List.length_replicate
  obtain ⟨a, ha, ia⟩ := putAt_host i 0x1000 (maskLive (List.replicate 128 0#8) (List.replicate 2048 0#8) u.tt.resetSet)
    (by unfold maskLive upto; rw [List.length_map, List.length_range]; decide)
  obtain ⟨b, hb, ib⟩ := putAt_host ia (0x1000 + 128) (leBytes 8 (leNat (List.replicate 8 0#8) % 16)) (by rw [length_leBytes]; decide)
  obtain ⟨d, hd, -⟩ := putAt_host ib (0x1000 + 256) (List.replicate 2048 0#8) (by rw [l]; decide)
  have r (va n : Nat) (z : va + n ≤ 65536) : u.bytesAt 0xFFFF#16 va n = some (List.replicate n 0#8) := by
    rw [bytesAt_host i va n z, h]; exact congrArg some (read_tbl _ n va z)
  unfold copied
  rw [countRead_host i 0 2304 (by decide)]
  exact ⟨d, blocked_host i 0 2304 (by decide), blocked_write_host i 0x1000 2304 (by decide), r _ _ (by decide), r _ _ (by decide), r _ _ (by decide),
    a, b, ha, hb, hd⟩

abbrev pz0 : BitVec 512 := pkt ||| 0xFFFF#512 <<< 336
/-- A schedule of two packets at VA 0x3000, bucket 0 takes every occupancy. -/
abbrev sched0 : List (Nat × Byte) := at_ 0 (bitsLine hdr0) ++ at_ 0x2000 (bitsLine (0x3000#512 ||| 0x101#512 <<< 64)) ++ at_ 0x3000 (bitsLine pz0 ++ bitsLine pz0)
def tr (b : List (Nat × Byte)) (bs : SMap (BitVec 37)) : State :=
  tm { run := true, due := some (0, 0), buckets := bs } b
def Schedule.ok? : Schedule → Option (List (BitVec 512 × BitVec 512 × List Group))
  | .ok l => some l
  | _ => none
def Schedule.blocked? : Schedule → Bool
  | .blocked .. => true
  | _ => false
def Schedule.refused? : Schedule → Bool
  | .refused => true
  | _ => false
theorem ok_sch {c : Schedule} {l : List (BitVec 512 × BitVec 512 × List Group)} (e : Schedule.ok? c = some l) : c = .ok l := by
  cases c <;> simp_all [Schedule.ok?]
theorem blocked_sch {c : Schedule} (e : Schedule.blocked? c = true) : ∃ a b, c = .blocked a b := by
  cases c <;> simp_all [Schedule.blocked?]
theorem refused_sch {c : Schedule} (e : Schedule.refused? c = true) : c = .refused := by
  cases c <;> simp_all [Schedule.refused?]
/-- The Timetable with a schedule's packets read. -/
abbrev holding (s : State) (sched bucket : Nat) (ps : List (BitVec 512)) : State := { s with tt := { s.tt with read := some (sched, bucket, ps) } }
/-- The packets of n lines. -/
abbrev packetsOf (bs : List Byte) (n : Nat) : List (BitVec 512) := (upto n).map fun i => lineBits ((bs.drop (64 * i)).take 64)
theorem witness_TimetableIterations :
    (∃ (s : State) (live rowten cb : List Byte) (d : State), s.ttFree = true ∧ s.tt.run = false ∧ s.tt.bell = false ∧ s.tt.pendva = 0 ∧ s.tt.curva = 0x1000
      ∧ copied { s with tt := { s.tt with run := true, starting := true, past := s.tt.past ++ s.tt.current.toList, current := none
                                          due := none, read := none, step := none } } live rowten cb d)
    ∧ (∃ s : State, s.ttFree = true ∧ s.tt.run = true)
    ∧ (∀ c : Bool, ∃ (s : State) (i : Iter) (live rowten cb : List Byte) (d : State), s.ttFree = true ∧ s.tt.starting = false ∧ s.tt.current = some i
      ∧ (∀ q ∈ i.jobs, ∀ j, findJob q s.jobs = some j → j.completed = true) ∧ i.committed = c ∧ i.stopped = false ∧ s.tt.run = true
      ∧ s.tt.bell = false ∧ s.tt.pendva = 0 ∧ s.tt.curva = 0x1000 ∧ copied s live rowten cb d)
    ∧ (∀ full : Bool, ∃ (s : State) (bucket sched pkts n w : Nat) (bs : List Byte) (l : List (BitVec 512 × BitVec 512 × List Group)), s.ttFree = true
      ∧ s.mayTrigger = true ∧ s.tt.due = some (0, 0) ∧ s.tt.read = none ∧ s.tt.fen = false ∧ s.bucket = some bucket
      ∧ sched = ((mget 0#37 s.tt.buckets bucket).extractLsb' 30 6).toNat
      ∧ (let va := s.tt.schbase.toNat / 16 * 16 + 16 * sched
         s.blocked ttAsid false va 16 = none ∧ s.natAt ttAsid va 16 = some w ∧ scheduleEntry (BitVec.ofNat 128 w) = some (pkts, n)
         ∧ s.blocked ttAsid false pkts (64 * n) = none ∧ s.bytesAt ttAsid pkts (64 * n) = some bs
         ∧ (holding ((s.countRead ttAsid va 16).countRead ttAsid pkts (64 * n)) sched bucket (packetsOf bs n)).checkSchedule 0 (packetsOf bs n) = .ok l)
      ∧ decide (2 ^ 56 < s.nextSeq + n) = full
      ∧ ∀ j ∈ s.jobs, j.seq < s.nextSeq)
    ∧ (∃ (s : State) (sched bucket : Nat) (ps : List (BitVec 512)), s.ttFree = true ∧ s.mayTrigger = true ∧ s.tt.due = some (0, 0)
      ∧ s.tt.read = some (sched, bucket, ps))
    ∧ (∀ refused : Bool, ∃ (s : State) (bucket sched pkts n w : Nat) (bs : List Byte), s.ttFree = true ∧ s.mayTrigger = true ∧ s.tt.due = some (0, 0)
      ∧ s.tt.read = none ∧ s.tt.fen = false ∧ s.bucket = some bucket ∧ sched = ((mget 0#37 s.tt.buckets bucket).extractLsb' 30 6).toNat
      ∧ (let va := s.tt.schbase.toNat / 16 * 16 + 16 * sched
         s.blocked ttAsid false va 16 = none ∧ s.natAt ttAsid va 16 = some w ∧ scheduleEntry (BitVec.ofNat 128 w) = some (pkts, n)
         ∧ s.blocked ttAsid false pkts (64 * n) = none ∧ s.bytesAt ttAsid pkts (64 * n) = some bs
         ∧ (let u := holding ((s.countRead ttAsid va 16).countRead ttAsid pkts (64 * n)) sched bucket (packetsOf bs n)
            if refused then u.checkSchedule 0 (packetsOf bs n) = .refused else ∃ a b, u.checkSchedule 0 (packetsOf bs n) = .blocked a b)))
    ∧ ∃ (s : State) (live rowten cb : List Byte) (d : State), s.ttFree = true ∧ s.mayTrigger = true ∧ s.tt.due = some (0, 0) ∧ s.tt.read = none ∧ s.tt.fen = false ∧ s.bucket = none ∧ s.tt.bell = false
      ∧ s.tt.pendva = 0 ∧ s.tt.curva = 0x1000 ∧ copied s live rowten cb d := by
  refine ⟨?_, ⟨tm { run := true } [], rfl, rfl⟩, fun c => ?_, fun full => ?_,
    ⟨holding (tr [] []) 0 0 [], 0, 0, [], rfl, by decide, rfl, rfl⟩, fun refused => ?_, ?_⟩
  · obtain ⟨d, h⟩ := copied_tm {} { tm {} [] with tt := { (tm {} []).tt with run := true, starting := true } } rfl
    exact ⟨tm {} [], _, _, _, d, rfl, rfl, rfl, rfl, rfl, h⟩
  · let i : Iter := { num := 1, jobs := [], committed := c }
    obtain ⟨d, h⟩ := copied_tm { run := true, current := some i } (tm { run := true, current := some i } []) rfl
    exact ⟨_, i, _, _, _, d, rfl, rfl, rfl, (fun _ h => nomatch h), rfl, rfl, rfl, rfl, rfl, rfl, h⟩
  · let s : State := { tr sched0 [(0, 0x103C3FF800)] with nextSeq := if full then 2 ^ 56 - 1 else 1 }
    have i : Host0 0xFFFF#16 s := host0_of 0xFFFF sched0 rfl
    have e : (s.countRead ttAsid 0x2000 16).countRead ttAsid 0x3000 (64 * 2) = s := by
      rw [show ttAsid = 0xFFFF#16 from rfl, countRead_host i 0x2000 16 (by decide), countRead_host i 0x3000 (64 * 2) (by decide)]
    have q : Schedule.ok? ((holding s 0 0 (packetsOf (bitsLine pz0 ++ bitsLine pz0) 2)).checkSchedule 0 (packetsOf (bitsLine pz0 ++ bitsLine pz0) 2))
        = some [(pz0, hdr0, []), (pz0, hdr0, [])] := by
      cases full <;> decide +kernel
    have h (k : Nat) (x : k = 2 ^ 56 - 1 ∨ k = 1) : ({ tr sched0 [(0, 0x103C3FF800)] with nextSeq := k } : State).mayTrigger = true := by
      rcases x with rfl | rfl <;> decide +kernel
    refine ⟨s, 0, 0, 0x3000, 2, 0x3000 + 0x101 * 2 ^ 64, bitsLine pz0 ++ bitsLine pz0, [(pz0, hdr0, []), (pz0, hdr0, [])], rfl, h _ (by cases full <;> simp), rfl, rfl, rfl, ?_, ?_,
      ?_, by cases full <;> decide, fun _ h => nomatch h⟩
    · cases full <;> decide +kernel
    · cases full <;> decide +kernel
    · have va : s.tt.schbase.toNat / 16 * 16 + 16 * 0 = 0x2000 := by cases full <;> decide +kernel
      simp only [va]
      exact ⟨by cases full <;> decide +kernel, by cases full <;> decide +kernel, by decide +kernel, by cases full <;> decide +kernel,
        by cases full <;> decide +kernel, by rw [e]; exact ok_sch q⟩
  · cases refused
    · let s := tr (at_ 0x2000 (bitsLine (0x3000#512 ||| 1#512 <<< 72)) ++ at_ 0x3000 (bitsLine (pz0 ||| 1024#512))) [(0, 0x103C3FF800)]
      have i : Host0 0xFFFF#16 s := host0_of 0xFFFF _ rfl
      have e : (s.countRead ttAsid 0x2000 16).countRead ttAsid 0x3000 (64 * 1) = s := by
        rw [show ttAsid = 0xFFFF#16 from rfl, countRead_host i 0x2000 16 (by decide), countRead_host i 0x3000 (64 * 1) (by decide)]
      have va : s.tt.schbase.toNat / 16 * 16 + 16 * 0 = 0x2000 := by decide +kernel
      refine ⟨s, 0, 0, 0x3000, 1, 0x3000 + 2 ^ 72, bitsLine (pz0 ||| 1024#512), rfl, by decide +kernel, rfl, rfl, rfl, by decide +kernel, by decide +kernel, ?_⟩
      simp only [va]
      exact ⟨by decide +kernel, by decide +kernel, by decide +kernel, by decide +kernel, by decide +kernel, by
        rw [e]; exact blocked_sch (c := (holding s 0 0 (packetsOf (bitsLine (pz0 ||| 1024#512)) 1)).checkSchedule 0 (packetsOf (bitsLine (pz0 ||| 1024#512)) 1))
          (by decide +kernel)⟩
    · exact ⟨tr (at_ 0x2000 (bitsLine (0x3000#512 ||| 1#512 <<< 72))) [(0, 0x103C3FF800)], 0, 0, 0x3000, 1, 0x3000 + 2 ^ 72, List.replicate 64 0#8, rfl, by decide +kernel,
        rfl, rfl, rfl, by decide +kernel, by decide +kernel, by decide +kernel, by decide +kernel, by decide +kernel, by decide +kernel, by decide +kernel,
        refused_sch (by decide +kernel)⟩
  · obtain ⟨d, h⟩ := copied_tm { run := true, due := some (0, 0) } (tr [] []) rfl
    exact ⟨_, _, _, _, d, rfl, by decide, rfl, rfl, rfl, by decide, rfl, rfl, rfl, h⟩

/-- Stream 0 has a tape at VA 0x5000, whose block 1 holds a token with stamp 5. -/
def bl (x : Stream) (t : Timetable) (now : Word) : State :=
  { tm { t with streams := [(0, x)] } (([(0, 0x23), (1, 0x7F), (62, 0xDD), (63, 0x80), (64, 5)] : List (Nat × Byte)) ++ at_ 0x5000 (bitsLine (1#512 <<< 64 ||| 1#512 <<< 96 ||| 64#512 <<< 256)))
    with dtime := now }
def st0 (expect : BitVec 6) (policy : BitVec 2) (holding : Option Nat) (tick : Nat) : Stream :=
  { period := 100000, grace := 10, policy := policy, expect := expect, tape := 0x5000, en := true, tick := tick, holding := holding }
/-- The line of stream 0's descriptor, in page 0 of ASID 0xFFFF, has a write parked behind a migration. -/
def blWaits : State :=
  { nfMove with mem := { nfMove.mem with regs := (mem 0xFFFF []).regs, tlb := [(0xFFFF * 2 ^ 41, [0x10004])], parked := [nfParked 1 320] }
                tt := { streams := [(0, { st0 1 0 none 1 with en := false })] } }
theorem witness_BellStreamsTick :
    (∃ (n : BitVec 4) (s : State), (∀ q, s.bellFree q n.toNat = true) ∧ s.tt.headers = [] ∧ (s.stream n.toNat).en = true)
    ∧ (∀ b : Bool, ∃ (n : BitVec 4) (s : State), (∀ q, s.bellFree q n.toNat = true) ∧ s.tt.headers = [] ∧ (s.stream n.toNat).en = false
      ∧ s.blocked ttAsid false ((s.stream n.toNat).tape.toNat / 64 * 64) 64 ≠ some .waits ∧ s.streamOk n.toNat = b)
    ∧ (∃ (n : BitVec 4) (s : State), (∀ q, s.bellFree q n.toNat = true) ∧ s.tt.headers = [] ∧ (s.stream n.toNat).en = false
      ∧ s.blocked ttAsid false ((s.stream n.toNat).tape.toNat / 64 * 64) 64 = some .waits)
    ∧ (∀ policy : Fin 3, ∀ e : Bool, ∃ (n : BitVec 4) (s : State) (l : List (Nat × Nat)),
      let x := s.stream n.toNat
      let onTime := ((runOf (x.cutoff x.tick) l).filter fun t => decide (x.cut1 < Int.ofNat t)).length
      (∀ q, s.bellFree q n.toNat = true) ∧ s.tt.headers = [] ∧ x.en = true ∧ s.tt.bell = false ∧ x.missed = 0 ∧ x.stepbase = 0#57 ∧ x.policy.toNat = policy ∧ x.holding = none
        ∧ x.time x.tick ≤ s.dtime.toNat ∧ s.dtime.toNat < x.time x.tick + x.grace.toNat
        ∧ (s.present x).toOption = some l ∧ decide (x.expect.toNat ≤ onTime) = e)
    ∧ (∃ (n : BitVec 4) (s : State), (∀ q, s.bellFree q n.toNat = true) ∧ s.tt.headers = [] ∧ (s.stream n.toNat).en = true ∧ s.tt.bell = false ∧ (s.stream n.toNat).missed = 0
      ∧ (s.stream n.toNat).stepbase = 0#57 ∧ (s.stream n.toNat).holding = none ∧ s.dtime.toNat < (s.stream n.toNat).time (s.stream n.toNat).tick)
    ∧ (∀ late reached : Bool, ∃ (n : BitVec 4) (s : State) (start : Nat) (l : List (Nat × Nat)),
      let x := s.stream n.toNat
      (∀ q, s.bellFree q n.toNat = true) ∧ s.tt.headers = [] ∧ x.en = true ∧ s.tt.bell = false ∧ x.missed = 0 ∧ x.stepbase = 0#57 ∧ x.holding = some start ∧ x.seen = none
        ∧ (s.present x).toOption = some l ∧ x.policy ≠ 2#2
        ∧ decide (x.expect.toNat ≤ ((runOf (x.cutoff (x.tick - 1)) l).filter fun t => decide (x.cut1 < Int.ofNat t)).length) = reached
        ∧ decide (start + x.grace.toNat ≤ s.dtime.toNat) = late)
    ∧ (∃ (n : BitVec 4) (s : State), let x := s.stream n.toNat
      (∀ q, s.bellFree q n.toNat = true) ∧ s.tt.headers = [] ∧ x.en = true ∧ s.tt.bell = true ∧ s.tt.mstream = n ∧ x.holding = none ∧ s.tt.run = true ∧ s.tt.starting = false
        ∧ s.tt.current.isSome = true ∧ s.tt.step = none ∧ x.time x.tick < s.dtime.toNat)
    ∧ (∃ (n : BitVec 4) (s : State) (l : List (Nat × Nat)), let x := s.stream n.toNat
      (∀ q, s.bellFree q n.toNat = true) ∧ s.tt.headers = [] ∧ x.en = true ∧ s.tt.bell = true ∧ s.tt.mstream = n ∧ x.holding = none ∧ s.tt.run = true ∧ s.tt.starting = false
        ∧ s.tt.current = none ∧ s.tt.step = none ∧ s.tt.due = none ∧ x.missed = 0 ∧ x.seen = none ∧ x.stepbase = 0#57 ∧ x.time x.tick ≤ s.dtime.toNat
        ∧ (∀ m, m < 16 → m ≠ n.toNat → (s.stream m).en = false) ∧ (s.present x).toOption = some l
        ∧ x.expect.toNat ≤ ((runOf (x.cutoff x.tick) l).filter fun t => decide (x.cut1 < Int.ofNat t)).length)
    ∧ (∀ c : BitVec 2, ∃ (n : BitVec 4) (s : State), (∀ q, s.bellFree q n.toNat = true) ∧ s.tt.headers = [] ∧ s.tt.clksrc = c)
    ∧ ∃ (n : BitVec 4) (s : State) (t u : BitVec 64), (∀ q, s.bellFree q n.toNat = true) ∧ s.tt.headers = [] ∧ s.dtime.toNat + 1000000 < t.toNat ∧ u.toNat = s.dtime.toNat + 1000000 := by
  have i (x : Stream) (now : Word) : Host0 0xFFFF#16 (bl x {} now) := host0_of 0xFFFF _ rfl
  refine ⟨⟨0, bl (st0 1 0 none 1) {} 0, fun _ => rfl, rfl, rfl⟩, fun b => ?_, ⟨0, blWaits, fun _ => rfl, rfl, rfl, by decide +kernel⟩, fun p e => ?_,
    ⟨0, bl (st0 1 0 none 1) {} 99999, fun _ => rfl, by decide⟩, fun late reached => ?_,
    ⟨0, bl (st0 1 0 none 1) { run := true, bell := true, current := some { num := 1, jobs := [] } } 100001, fun _ => rfl, by decide⟩,
    ⟨0, bl (st0 1 0 none 1) { run := true, bell := true } 100000, [(64, 5)], fun _ => rfl, by decide +kernel⟩,
    fun c => ⟨0, { tt := { clksrc := c } }, fun _ => rfl, rfl, rfl⟩, 0, r0, 1000001, 1000000, fun _ => rfl, rfl, by decide, by decide⟩
  · cases b
    · exact ⟨0, bl { st0 1 0 none 1 with en := false, policy := 3 } {} 0, fun _ => rfl, rfl, rfl, ne_waits (blocked_host (i _ _) 0x5000 64 (by decide)), by decide +kernel⟩
    · exact ⟨0, bl { st0 1 0 none 1 with en := false } {} 0, fun _ => rfl, rfl, rfl, ne_waits (blocked_host (i _ _) 0x5000 64 (by decide)), by decide +kernel⟩
  · refine ⟨0, bl (st0 (if e then 1 else 2) (BitVec.ofNat 2 p) none 1) {} 100009, [(64, 5)], fun _ => rfl, ?_⟩
    revert p e; decide +kernel
  · refine ⟨0, bl (st0 (if reached then 1 else 2) 0 (some 100000) 2) {} (if late then 100010 else 100009), 100000, [(64, 5)], fun _ => rfl, ?_⟩
    revert late reached; decide +kernel

/-- Two members of group 0 of job 1 have issued their first COLL on it. -/
def clg (n : Nat) : State :=
  let o (m n : Nat) : Op := { op0 (.coll 0 0 n 0 0 2 0 0 none) with id := m, owner := ⟨1, m⟩, reads := [⟨0, 4⟩] }
  { js [] with jobs := [{ jb with groups := [⟨4, false, [0, 1]⟩], strands := [{ st := .resident 0 }, { st := .resident 1 }] }]
               ops := [o 0 1, o 1 n], nextOp := 2, dtime := 2000000000000 }
/-- A participant with its rank and the data of both, in a group of scope FAB, and the root of a broadcast. -/
def ck (cop r : Nat) : OpKind := .coll 0 0 1 0 cop 2 0 0 (some (r, [[1, 0, 0, 0], [2, 0, 0, 0]]))
theorem witness_CollectivesAndPorts :
    (∃ data : List (List Byte), data ≠ [])
    ∧ (∀ n : Nat, n = 1 ∨ n = 2 → ∃ (s : State) (op : Nat) (o : Op) (x : Group), s.numbered ∧ s.op op = some o
      ∧ o.kind = .coll 0 0 1 0 0 2 0 0 none ∧ s.jobGroup o.owner.seq 0 = some x
      ∧ (let l := s.collective o.owner.seq 0 o.prog
         s.collReady x l = true ∧ (∀ p ∈ l, p.owner.idx ∈ x.members) ∧ (l.map (·.owner.idx)).Nodup
         ∧ (∃ p ∈ l, p.kind = .coll 0 0 n 0 0 2 0 0 none) ∧ (n = 1 → ∀ p ∈ l, p.kind = .coll 0 0 1 0 0 2 0 0 none))
      ∧ s.fab.collto.toNat * 1000 < s.dtime.toNat - 0 ∧ x.scope ≠ 7 ∧ s.collEnded o.owner.seq 0 o.prog = none)
    ∧ (∃ (s : State) (op : Nat) (o : Op) (x : Group), s.numbered ∧ s.op op = some o ∧ o.kind = .coll 0 0 1 0 0 2 0 0 none
      ∧ s.jobGroup o.owner.seq 0 = some x ∧ s.dtime.toNat - 0 ≤ s.fab.collto.toNat * 1000)
    ∧ (∀ cop r : Nat, ∃ (s : State) (op : Nat) (o : Op), s.numbered ∧ s.op op = some o ∧ o.kind = ck cop r
      ∧ (∀ w ∈ o.writes, s.writeBlocked o.core op w = false) ∧ collOut cop 1 2 * collSize 2 ≤ 0x400000)
    ∧ (∃ (s : State) (op : Nat) (o : Op) (x : Group) (j : Job), s.numbered ∧ s.op op = some o ∧ o.kind = ck 0 0
      ∧ (∀ w ∈ o.writes, s.writeBlocked o.core op w = false) ∧ s.jobGroup o.owner.seq 0 = some x ∧ x.scope = 7
      ∧ findJob o.owner.seq s.jobs = some j)
    ∧ ∀ b : Bool, ∃ (s : State) (p : BitVec 4), s.numbered ∧ s.fab.portup.getLsbD p.toNat = b ∧ s.fab.porten.getLsbD p.toNat = b := by
  refine ⟨⟨[[1]], by simp⟩, fun n h => ?_, ⟨{ clg 1 with dtime := 0 }, 0, _, _, ⟨by decide, by decide⟩, rfl, rfl, rfl, by decide⟩,
    fun cop r => ⟨os (ck cop r), 0, _, ⟨by simp [os], by simp [os, op0]⟩, rfl, rfl, (fun _ h => nomatch h),
      by unfold collOut; split <;> decide⟩,
    ⟨{ os (ck 0 0) with jobs := [{ jb with groups := [⟨7, false, [0]⟩] }] }, 0, _, _, _, ⟨by decide, by decide⟩, rfl, rfl, (fun _ h => nomatch h),
      rfl, rfl, rfl⟩,
    fun b => ⟨{ fab := { portup := if b then 0x8000 else 0, porten := if b then 0x8000 else 0 } }, 15, ⟨by simp, by simp⟩, by cases b <;> rfl,
      by cases b <;> rfl⟩⟩
  rcases h with rfl | rfl
  · exact ⟨clg 1, 0, _, _, ⟨by decide, by decide⟩, rfl, rfl, rfl, by decide +kernel⟩
  · exact ⟨clg 2, 0, _, _, ⟨by decide, by decide⟩, rfl, rfl, rfl, by decide +kernel⟩

def fl (b : Bool) : State := { aq true with assign := [(0, 5)], jobs := [jb], tt := { run := b } }
theorem witness_ResetsAndPowerLoss :
    (∀ b : Bool, ∃ (s : State) (vf : BitVec 6) (q seq : Nat) (j : Job), vf ≠ 0#6 ∧ vf ∉ s.flrs ∧ s.mapWaits (s.tenantsOf vf) = false ∧ s.sharedBatch = b
      ∧ q ∈ s.queues.map (·.1) ∧ q < 256 ∧ mget 0#6 s.assign q = vf
      ∧ findJob seq s.jobs = some j ∧ j.tenant = (s.queueRegs q).tenant ∧ s.inBatch 16 j = false ∧ j.completed = false
      ∧ s.dbg.dtenant = (s.queueRegs q).tenant)
    ∧ (∃ (s : State) (vf : BitVec 6), vf ≠ 0#6 ∧ vf ∉ s.flrs ∧ s.mapWaits (s.tenantsOf vf) = true)
    ∧ (∃ (s : State) (vf : BitVec 6) (q : Nat), vf ≠ 0#6 ∧ vf ∈ s.flrs ∧ s.ownJobs (s.tenantsOf vf) = [] ∧ q < 256 ∧ mget 0#6 s.assign q = vf)
    ∧ (∃ (s : State) (j : Job), mwf {} s.cores = true ∧ (∀ k h, h < 16 → (s.head k h).mode = 0) ∧ s.jobs[0]? = some j ∧ j.completed = false
      ∧ j.started = true ∧ j.removed = false ∧ s.dbg.dtenant = 0xFFFF#16 ∧ ∀ x ∈ s.jobs, x.seq < s.nextSeq)
    ∧ (∃ (s : State) (stages : List Firmware), stages.length = 2
      ∧ ∀ x ∈ stages, x.keyHash = s.fuses.keyHash ∧ x.verifies = true ∧ s.fuses.minSeq ≤ x.seq)
    ∧ ∀ c : Fin 3, ∃ (s : State) (x : Firmware), decide (x.keyHash ≠ s.fuses.keyHash) = decide (c = 0) ∧ (!x.verifies) = decide (c = 1)
      ∧ decide (x.seq < s.fuses.minSeq) = decide (c = 2) := by
  refine ⟨fun b => ⟨fl b, 5, 0, 1, jb, by decide, (fun h => nomatch h), by cases b <;> rfl, by cases b <;> rfl, by cases b <;> decide, by decide, rfl, rfl, rfl, rfl, rfl, rfl⟩,
    ⟨{ fl true with mem := (nfWaits true).mem }, 5, by decide, (fun h => nomatch h), by decide +kernel⟩,
    ⟨{ fl false with jobs := [], flrs := [5] }, 5, 0, by decide, List.mem_cons_self .., rfl, by decide, rfl⟩,
    ⟨{ js [] with dbg := { dtenant := 0xFFFF } }, jb, rfl, (fun k h _ => by rfl), rfl, rfl, rfl, rfl, rfl, by decide⟩,
    ⟨{ fuses := ⟨7, 3⟩ }, [⟨7, true, 3⟩, ⟨7, true, 4⟩], rfl, by decide⟩, fun c => ?_⟩
  exact ⟨{ fuses := ⟨7, 3⟩ }, ⟨if c = 0 then 8 else 7, c ≠ 1, if c = 2 then 2 else 3⟩, by revert c; decide⟩

theorem witness_EncodingsRoundTrip :
    (∀ c : SlotClass, ∃ i : Instr, i.wf = true ∧ i.slotClass = some c)
    ∧ (∃ (w : BitVec 32) (i : Instr), decodeScalar w = .ok i)
    ∧ (∃ (w : BitVec 48) (i : Instr), decodeVector w = .ok i) ∧ (∃ (w : BitVec 48) (i : Instr), decodeL w = .ok i)
    ∧ (∃ (w : BitVec 48) (i : Instr), decodeM w = .ok i) ∧ (∃ (w : BitVec 48) (i : Instr), decodeH w = .ok i)
    ∧ ∃ (w : BitVec 24) (i : Instr), decodeDrain w = .ok i := by
  refine ⟨fun c => ?_, ⟨_, _, test_word_addi.1⟩, ⟨_, _, test_word_vord.1⟩, ⟨_, _, test_word_xform.1⟩, ⟨_, _, test_word_mswap.1⟩,
    ⟨_, _, test_word_hpos.1⟩, _, _, test_word_dfma.1⟩
  cases c
  · exact ⟨.exit, rfl, rfl⟩
  · exact ⟨.vpop 31 7 true 15, rfl, rfl⟩
  · exact ⟨.xform ⟨63, true⟩ ⟨63, true⟩ ⟨63, true⟩ ⟨63, true⟩, rfl, rfl⟩
  · exact ⟨.mswap, rfl, rfl⟩
  · exact ⟨.hpos 15 63, rfl, rfl⟩
  · exact ⟨.dend, rfl, rfl⟩

theorem witness_RunningPartNeverStops : (∃ s : State, s.power = .running) ∧ ∃ s : State, s.power ≠ .running ∧ s.inputs = [] :=
  ⟨⟨r0, rfl⟩, { power := .off }, by decide, rfl⟩

set_option exponentiation.threshold 400 in
theorem witness_EveryStepKeepsMemoriesCanonical : ∃ s t : State, s.canonical ∧ step s = .next t :=
  ⟨ra, _, by unfold State.canonical; decide +kernel, rfl⟩

theorem witness_EveryStepKeepsOperationsNumbered : ∃ s t : State, s.numbered ∧ step s = .next t :=
  ⟨rm, _, by unfold State.numbered; decide +kernel, rfl⟩

/-- Core k has no credit left at the controller of a place. -/
abbrev NoCredit (s : State) (k : Nat) (p : Place) : Prop := ∃ g, p.frame = some g ∧ k < 128 ∧ 32 ≤ s.creditsUsed k (homeOf g)
theorem witness_MemorySystemSteps :
    (∃ (s : State) (r : MemReq) (d : BitVec 512) (p : Place), Memory.wf s.mem = true ∧ r.kind = .write d
      ∧ s.placeOf r.asid (r.va &&& ~~~63#57) true = some p ∧ s.mayRequest p (r.va &&& ~~~63#57) true = true ∧ p.revoked = false
      ∧ ¬NoCredit s r.core.toNat p)
    ∧ (∃ (s : State) (r : MemReq) (d : BitVec 512) (p : Place) (g : Nat), Memory.wf s.mem = true ∧ r.kind = .write d
      ∧ s.placeOf r.asid (r.va &&& ~~~63#57) true = some p ∧ p.frame = some g ∧ s.mayRequest p (r.va &&& ~~~63#57) true = false
      ∧ p.held = false ∧ ¬NoCredit s r.core.toNat p)
    ∧ (∀ held : Bool, ∃ (s : State) (r : MemReq) (d : BitVec 512) (p : Place), Memory.wf s.mem = true ∧ r.kind = .write d
      ∧ s.placeOf r.asid (r.va &&& ~~~63#57) true = some p ∧ p.held = held ∧ (held = false → NoCredit s r.core.toNat p))
    ∧ (∃ (s : State) (r : MemReq) (d : BitVec 512), Memory.wf s.mem = true ∧ r.kind = .write d
      ∧ s.placeOf r.asid (r.va &&& ~~~63#57) true = none ∧ (r.asid, (r.va &&& ~~~63#57).toNat / 65536, true) ∉ s.mem.faults)
    ∧ (∃ (s : State) (r : MemReq), Memory.wf s.mem = true ∧ r.kind = .read
      ∧ (r.asid, (r.va &&& ~~~63#57).toNat / 65536, true) ∈ s.mem.faults)
    ∧ (∃ (s : State) (frame : BitVec 27) (v : Move), Memory.wf s.mem = true ∧ s.mem.moves.find? (fun x => x.frame == frame.toNat) = some v
      ∧ v.tier < 3 ∧ v.oldTier < 3 ∧ v.tier ≠ 0 ∧ v.oldTier ≠ 0 ∧ v.media < 2 ^ 36)
    ∧ (∀ b : Bool, ∃ s : State, Memory.wf s.mem = true ∧ s.mem.regs.aen = b)
    ∧ (∃ (s : State) (asid : BitVec 16) (group : BitVec 57) (block : BitVec 5) (p : Place), Memory.wf s.mem = true ∧ block ≠ 0#5
      ∧ group.toNat % 2048 = 0 ∧ s.placeOf asid group false = some p ∧ s.badPlace p = false ∧ p.revoked = false ∧ s.mayRequest p group true = true
      ∧ tagOf (s.mem.read p.addr 64) block.toNat % 256 ≠ 0xFF)
    ∧ (∃ (s : State) (asid : BitVec 16) (group : BitVec 57) (block : BitVec 5) (p : Place) (g : Nat), Memory.wf s.mem = true ∧ block ≠ 0#5
      ∧ group.toNat % 2048 = 0 ∧ s.placeOf asid group false = some p ∧ p.held = false ∧ p.frame = some g ∧ s.mayRequest p group true = false)
    ∧ (∀ may : Bool, ∃ (s : State) (addr : BitVec 52) (m : Nat), Memory.wf s.mem = true
      ∧ (let a := addr.toNat / 64 * 64
         let base := s.fab.hdmbase.toNat
         let d := a - base
         let g := d / 65536
         base ≤ a ∧ a < base + 2 ^ 43 ∧ s.mem.place g (d % 65536) = some m ∧ chRevoked (s.mem.entry g) = false
         ∧ s.mayRequest ⟨m, some g, false, 0#64, false⟩ (BitVec.ofNat 57 d) true = may))
    ∧ (∃ (s : State) (addr : BitVec 52), Memory.wf s.mem = true
      ∧ ¬(s.fab.hdmbase.toNat ≤ addr.toNat / 64 * 64 ∧ addr.toNat / 64 * 64 < s.fab.hdmbase.toNat + 2 ^ 43))
    ∧ ∃ (s : State) (stack : BitVec 4) (seq : Nat) (j : Job), Memory.wf s.mem = true ∧ findJob seq s.jobs = some j ∧ j.started = true
      ∧ j.completed = false ∧ s.namesStack j stack.toNat = true :=
  ⟨⟨os .ttnext, ⟨0, 0, 63, .write 7⟩, 7, p0 0, by decide +kernel, rfl, placeOf_os true, rfl, rfl, fun ⟨_, e, _⟩ => nomatch e⟩,
    ⟨nfMove, ⟨0, 0, 63, .write 7⟩, 7, ⟨mediaAt 1 2 9 0, some 1, false, 0x10004, false⟩, 1, by decide +kernel, rfl, by decide +kernel, rfl, by decide +kernel, rfl,
      fun ⟨g, e, _, c⟩ => by obtain rfl := Option.some.inj e; exact absurd c (by decide +kernel)⟩,
    fun held => ⟨nfWaits held, ⟨0, 0, 0, .write 7⟩, 7, if held then ⟨0, none, false, 0#64, true⟩ else ⟨7 * 65536, some 1, false, 0x10004, false⟩, by cases held <;> decide +kernel, rfl,
      by cases held <;> decide +kernel, by cases held <;> rfl, fun e => ⟨1, by subst e; rfl, by decide, by subst e; decide +kernel⟩⟩,
    ⟨r0, ⟨0, 0, 63, .write 7⟩, 7, rfl, rfl, by decide +kernel, by decide⟩,
    ⟨{ mem := { faults := [(0, 0, true)] } }, ⟨0, 0, 63, .read⟩, rfl, rfl, by decide⟩,
    ⟨nfMove, 1, _, by decide +kernel, rfl, by decide⟩,
    fun b => ⟨{ mem := { regs := { aen := b } } }, rfl, rfl⟩,
    ⟨os .ttnext tape0, 0, 0, 1, p0 0, by decide +kernel, by decide, by decide, placeOf_os false, by decide +kernel, rfl, rfl, by decide +kernel⟩,
    ⟨nfMove, 0, 0, 1, ⟨mediaAt 1 2 9 0, some 1, false, 0x10004, false⟩, 1, by decide +kernel, by decide, by decide, by decide +kernel, rfl, rfl, by decide +kernel⟩,
    fun may => ⟨if may then nf (chEntry 1 false false false 7) [] else nfMove, 65599, if may then 7 * 65536 else mediaAt 1 2 9 0, by cases may <;> decide +kernel⟩,
    ⟨{ fab := { hdmbase := 0x10000 } }, 0xFFFF, rfl, by decide +kernel⟩,
    { nf (chEntry 1 false false false 7) [] with jobs := [jb] }, 0, 1, jb, by decide +kernel, rfl, rfl, rfl, by decide +kernel⟩

/-- A promotion whose table is the first of those above, and which has read one or two of its entries: the first as it stands, or
another. -/
def pr (c : Fin 3) : Promotion :=
  { asid := 0, va := 0, target := 100, table := 17, index := 0, w := true, sources := [1, 2]
    olds := if c = 0 then [5] else if c = 1 then [0x120001, 0] else [0x120001] }
theorem witness_HostRequestsAreAnswered :
    (∃ (s : State) (fn : BitVec 6) (queue : BitVec 9) (v w : BitVec 16), queue.toNat < 320 ∧ fn ≠ 0#6 ∧ queue.toNat < 256
      ∧ mget 0#6 s.assign queue.toNat = fn ∧ v.toNat < 2 ^ ((s.queueRegs queue.toNat).log2n.toNat + 4)
      ∧ 2 ^ ((s.queueRegs queue.toNat).log2n.toNat + 4) ≤ w.toNat)
    ∧ (∃ (s : State) (fn : BitVec 6) (queue : BitVec 9), fn ≠ 0#6 ∧ mget 0#6 s.assign queue.toNat ≠ fn)
    ∧ (∃ (s : State) (frame : BitVec 27), s.mem.covered frame.toNat = true)
    ∧ (∃ (s : State) (frame : BitVec 27), s.mem.covered frame.toNat = false ∧ s.mem.queue (fun n => (s.op n).isSome) frame.toNat ≠ []
      ∧ chState (s.mem.entry frame.toNat) ≠ 3)
    ∧ (∀ tier : Fin 4, ∃ (s : State) (frame : BitVec 27) (arg : Word), s.mem.covered frame.toNat = false ∧ chState (s.mem.entry frame.toNat) = 0
      ∧ s.mem.queue (fun n => (s.op n).isSome) frame.toNat = [] ∧ (arg.extractLsb' 0 2).toNat = tier
      ∧ (arg.extractLsb' 16 36).toNat % 2 ^ 20 < 2 ^ 20 - 1024)
    ∧ (∃ arg : Word, (arg.extractLsb' 0 2).toNat = 1 ∧ 2 ^ 20 - 1024 ≤ (arg.extractLsb' 16 36).toNat % 2 ^ 20)
    ∧ (∃ (s : State) (frame : BitVec 27), s.mem.covered frame.toNat = false ∧ chState (s.mem.entry frame.toNat) = 1
      ∧ s.mem.queue (fun n => (s.op n).isSome) frame.toNat = [] ∧ (s.mem.entry frame.toNat).getLsbD 2 = true)
    ∧ (∃ (s : State) (frame : BitVec 27) (arg : Word), s.mem.covered frame.toNat = false ∧ chState (s.mem.entry frame.toNat) = 2
      ∧ (s.mem.entry frame.toNat).getLsbD 2 = false ∧ (s.mem.entry frame.toNat).getLsbD 3 = false
      ∧ (arg.extractLsb' 0 2).toNat = 1 ∧ (arg.extractLsb' 16 36).toNat % 2 ^ 20 < 2 ^ 20 - 1024)
    ∧ (∃ (s : State) (frame : BitVec 27), s.mem.covered frame.toNat = false ∧ chState (s.mem.entry frame.toNat) = 3)
    ∧ (∃ (s : State) (asid : BitVec 16) (va : BitVec 57), asid = s.mem.regs.iasid ∧ s.mem.regs.iva.toNat / 65536 ≤ va.toNat / 65536
      ∧ va.toNat / 65536 < s.mem.regs.iva.toNat / 65536 + s.mem.regs.ipages.toNat)
    ∧ (∃ (s : State) (q : ParkedAccess) (asid : BitVec 16) (va : BitVec 57), (s.mem.regs.ievery = true ∨ asid = s.mem.regs.iasid ∧ s.mem.regs.iall = true)
      ∧ q ∈ s.mem.parked ∧ q.key = tlbKey asid va ∧ q.act.isSome = true)
    ∧ (∃ s : State, s.mem.parked = [])
    ∧ (∀ b : Bool, ∃ s : State, s.mem.promotion = none
      ∧ (let r := s.mem.regs
         let asked := s.mem.promoting.getD (r.pasid, r.pva, r.ptarget, r.psize)
         ((upto ((if asked.2.2.2 then 8192 else 32) / 8)).any fun i => s.walkWaits asked.1 (BitVec.ofNat 57 (asked.2.1.toNat + 524288 * i))) = b))
    ∧ (∃ (s : State) (p : Promotion), s.mem.promotion = some p ∧ p.done < p.olds.length
      ∧ s.mayRequest ⟨0, some p.table, false, 0#64, false⟩ (BitVec.ofNat 57 ((p.table * 65536 + 8 * (p.index + p.done)) % 65536)) true = false)
    ∧ (∀ b : Bool, ∃ (s : State) (p : Promotion), s.mem.promotion = some p ∧ p.done = p.olds.length ∧ s.oldRequests p = b)
    ∧ (∀ b : Bool, ∃ (s : State) (p : Promotion), s.mem.promotion = some p ∧ p.done < p.olds.length
      ∧ (let dpa := p.table * 65536 + 8 * (p.index + p.done)
         s.mayRequest ⟨0, some p.table, false, 0#64, false⟩ (BitVec.ofNat 57 (dpa % 65536)) true = true
         ∧ s.mem.dpaWord dpa ≠ p.olds[p.done]? ∧ s.parkedIn s.mem.covered = b))
    ∧ (∀ c : Fin 3, ∃ (s : State) (p : Promotion), s.mem.promotion = some p ∧ p.done < p.olds.length
      ∧ (let dpa := p.table * 65536 + 8 * (p.index + p.done)
         s.mayRequest ⟨0, some p.table, false, 0#64, false⟩ (BitVec.ofNat 57 (dpa % 65536)) true = true
         ∧ decide (s.mem.dpaWord dpa = p.olds[p.done]?) = decide (c ≠ 0) ∧ (c = 1 → p.done + 1 < p.olds.length)
         ∧ (c = 2 → p.olds.length ≤ p.done + 1) ∧ chRevoked (s.mem.entry (dpa / 65536)) = false))
    ∧ (∀ va : BitVec 57, va = 0#57 ∨ va = 65536#57 → ∃ (s : State) (o : Op), s.cpParked = [] ∧ s.reqs = [] ∧ (∀ x ∈ s.ctxs, x.2.needs = none)
      ∧ (∀ x ∈ s.cores, ∀ y ∈ x.2.heads, y.2.reread ≠ 2) ∧ s.numbered ∧ o ∈ s.ops ∧ o.parked = some (va, true)
      ∧ (s.placeOf o.tenant va true).isSome = decide (va = 0#57))
    ∧ (∃ s : State, s.power = .running) ∧ ∃ s : State, s.power ≠ .running := by
  refine ⟨⟨{ assign := [(255, 7)] }, 7, 255, 15, 16, by decide, by decide, by decide, rfl, by decide, by decide⟩,
    ⟨r0, 1, 0, by decide, by decide⟩, ⟨{ mem := { promotion := some (pr 0) } }, 1, by decide +kernel⟩,
    ⟨{ mem := { parked := [nfParked] } }, 1, by decide +kernel⟩,
    fun t => ⟨r0, 0, BitVec.ofNat 64 t, by revert t; decide +kernel⟩, ⟨0xFFFFF0001, by decide⟩,
    ⟨nf (chEntry 1 true false false 7) [], 1, by decide +kernel⟩,
    ⟨nf (chEntry 2 false false false 7) [], 1, 1, by decide +kernel⟩,
    ⟨nf (chEntry 3 false false false 7) [], 1, by decide +kernel⟩,
    ⟨{ mem := { regs := { iasid := 3, iva := 65536, ipages := 1 } } }, 3, 131071, rfl, by decide, by decide⟩,
    ⟨{ mem := { parked := [nfParked], regs := { iall := true } } }, nfParked, 0, 5 * 65536, by decide, List.mem_singleton.mpr rfl, by decide, rfl⟩, ⟨r0, rfl⟩,
    (fun b => ⟨if b then nfWaits true else r0, by cases b <;> rfl, by cases b <;> decide +kernel⟩),
    ⟨{ mem := { mem 0 [] with promotion := some (pr 0), parked := [nfParked 17 0] } }, pr 0, rfl, by decide, by decide +kernel⟩,
    (fun b => ⟨{ mem := { promotion := some { pr 0 with done := 1 }, parked := if b then [nfParked] else [] } }, { pr 0 with done := 1 }, rfl, rfl, by cases b <;> decide⟩),
    (fun b => ⟨{ mem := { mem 0 [] with promotion := some (pr 0), parked := if b then [nfParked] else [] } }, pr 0, rfl, by decide,
      by cases b <;> decide +kernel⟩),
    (fun c => ⟨{ mem := { mem 0 [] with promotion := some (pr c) } }, pr c, rfl, by revert c; decide, by revert c; decide +kernel⟩), ?_,
    ⟨r0, rfl⟩, { power := .off }, by decide⟩
  intro va h
  rcases h with rfl | rfl
  · exact ⟨{ os .ttnext with ops := [{ op0 .ttnext with parked := some (0, true) }] }, _, rfl, rfl, (by decide), (by decide), ⟨by decide, by decide⟩, List.mem_singleton.mpr rfl, rfl, by decide +kernel⟩
  · exact ⟨{ os .ttnext with ops := [{ op0 .ttnext with parked := some (65536, true) }] }, _, rfl, rfl, (by decide), (by decide), ⟨by decide, by decide⟩, List.mem_singleton.mpr rfl, rfl, by decide +kernel⟩

theorem witness_RegisterWritesStoreTheirFields :
    (∃ off : BitVec 20, off.toNat % 8 ≠ 0) ∧ (∃ off : BitVec 20, 0x70800 ≤ off.toNat)
    ∧ (∀ b : Bool, ∃ (s : State) (q : Nat), q < 256 ∧ (s.queueRegs q).enable = b)
    ∧ (∃ (s : State) (v : Word) (q : Nat), 256 ≤ q ∧ q < 320 ∧ (v.extractLsb' 0 16).toNat < 2 ^ ((s.queueRegs q).log2n.toNat + 4))
    ∧ (∀ b : Bool, ∃ (v : Word) (s : State), v.getLsbD 63 = b ∧ s.mem.unmapping.isSome = b)
    ∧ ∀ b : Bool, ∃ s : State, s.evq.enable = b ∧ s.mem.regs.ten = b ∧ s.fab.recen = b ∧ s.tt.run = b :=
  ⟨⟨0xFFFFF, by decide⟩, ⟨0x70800, by decide⟩, fun b => ⟨{ queues := [(255, { enable := b })] }, 255, by decide, rfl⟩,
    ⟨r0, 15, 319, by decide, by decide, by decide⟩,
    fun b => ⟨if b then 0x8000000000000000 else 0, { mem := { unmapping := if b then some 1 else none } }, by cases b <;> decide, by cases b <;> rfl⟩,
    fun b => ⟨{ evq := { enable := b }, mem := { regs := { ten := b } }, fab := { recen := b }, tt := { run := b } }, rfl, rfl, rfl, rfl⟩⟩

theorem witness_SpecialRegistersRead :
    (∃ h : Nat, h < 16) ∧ (∃ (s : State) (j : Job), findJob s.curStrand.seq s.jobs = some j) ∧ ∃ k : Nat, k < 4 :=
  ⟨⟨15, by decide⟩, ⟨js [], jb, rfl⟩, 3, by decide⟩

/-- Each remote-access slot of core 0 is in use. -/
def busyR (l : List (BitVec 6 × Word)) : State := { js l with ops := List.replicate 32 { op0 .ttnext with slot := true } }
theorem witness_RemoteAccessesPerformAtTheirTarget :
    (∀ b : Bool, ∃ (v a : Src) (ty : BitVec 3) (off : BitVec 16) (s : State), ty ≠ 7#3
      ∧ 0x2000000 ≤ (s.sVal a + off.signExtend 64).toNat % 0x4000000 / 2 ^ (ty.toNat / 2) * 2 ^ (ty.toNat / 2)
      ∧ s.full [srcOf a 0, srcOf v 3] ∧ decide (s.slotsUsed s.curCore < 32) = b)
    ∧ (∀ b : Bool, ∃ (vv : VSrc) (a : Src) (s : State), (s.sVal a).getLsbD 25 = true ∧ s.full [srcOf a 0, ⟨vReg6 vv.reg, vv.pol, 3⟩]
      ∧ decide (s.slotsUsed s.curCore < 32) = b)
    ∧ (∃ (op : Nat) (o : Op) (y m : Nat) (s : State), s.op op = some o ∧ s.ready o = true ∧ y < 0x4000000 ∧ 0x2000000 ≤ y
      ∧ o.kind = .rload y m false true)
    ∧ (∀ b : Bool, ∃ (op : Nat) (o : Op) (y : Nat) (bs : List Byte) (m : Nat) (s : State), s.op op = some o ∧ s.ready o = true
      ∧ y < 0x4000000 ∧ 0x2000000 ≤ y ∧ bs.length ≤ 256
      ∧ (if b then o.kind = .rstore y bs else o.kind = .rload y m true false)) := by
  refine ⟨fun b => ?_, fun b => ?_,
    ⟨0, op0 (.rload 0x3FFFF04 256 false true), 0x3FFFF04, 256, os (.rload 0x3FFFF04 256 false true), rfl, rfl, by decide, by decide, rfl⟩, fun b => ?_⟩
  rotate_left 1
  · cases b
    · exact ⟨⟨63, false⟩, ⟨12, false⟩, busyR [(12, 0x2C00100)], by decide, full_dec (by decide), by decide⟩
    · exact ⟨⟨63, false⟩, ⟨12, false⟩, js [(12, 0xFFFFFFFFFFFFFFFF)], by decide, full_dec (by decide), by decide⟩
  rotate_left 1
  · cases b
    · exact ⟨⟨7, false⟩, ⟨12, false⟩, 4, 8, busyR [(12, 0x2C00100)], by decide, by decide, full_dec (by decide), by decide⟩
    · exact ⟨⟨7, false⟩, ⟨12, false⟩, 6, 0, js [(12, 0x3FFFFFF)], by decide, by decide, full_dec (by decide), by decide⟩
  · cases b
    · exact ⟨0, op0 (.rload 0x2C00108 4 true false), 0x2C00108, [], 4, os (.rload 0x2C00108 4 true false), rfl, rfl, by decide⟩
    · exact ⟨0, op0 (.rstore 0x3FFFFFF [1]), 0x3FFFFFF, [1], 1, os (.rstore 0x3FFFFFF [1]), rfl, rfl, by decide⟩

/-! ### Single instructions, results worked out in the spec -/

/-- What the last result that an instruction put in flight writes, its latency and its flags. -/
def resOf : Out → Option (RegVal × Nat × BitVec 5)
  | .next t => t.cur.flight.getLast?.map fun f => (f.val, f.due, f.flags)
  | _ => none
/-- The cause and information of the trap that an instruction raised, where XVEC is 0 and it stops the strand. -/
def trapOf : Out → Option (BitVec 8 × Word)
  | .next t => t.cur.stop.map fun x => (x.cause, x.info)
  | _ => none
/-- A word of core 0's scratchpad after an instruction. -/
def wordAt (a : Nat) : Out → Option Nat
  | .next t => some (leNat ((t.core 0).spBytes a 4))
  | _ => none
def t5 (a b : Int) : State := lat [(5, BitVec.ofInt 64 a), (6, BitVec.ofInt 64 b)]
def s5 : Src := ⟨5, false⟩
def s6 : Src := ⟨6, false⟩
def word (n l : Nat) : Option (RegVal × Nat × BitVec 5) := some (.word (BitVec.ofNat 64 n), l, 0)

/-- 21 R310, the worked values. -/
theorem test_mul : resOf (exec (.mul 1 s5 s6) (t5 (-3) 5)) = word 0xFFFFFFFFFFFFFFF1 3 := by decide +kernel
theorem test_mul_wraps : resOf (exec (.mul 1 s5 s6) (t5 (2 ^ 62) 8)) = word 0 3 := by decide +kernel
theorem test_mulh : resOf (exec (.mulh 1 s5 s6) (t5 (2 ^ 62) 8)) = word 2 3 := by decide +kernel
theorem test_mulh_negative : resOf (exec (.mulh 1 s5 s6) (t5 (-3) 5)) = word 0xFFFFFFFFFFFFFFFF 3 := by decide +kernel
/-- 20 R296. -/
theorem test_div : resOf (exec (.div 1 s5 s6) (t5 (-7) 2)) = word 0xFFFFFFFFFFFFFFFD 14 := by decide +kernel
theorem test_div_corner : resOf (exec (.div 1 s5 s6) (t5 (-2 ^ 63) (-1))) = word 0x8000000000000000 14 := by decide +kernel
/-- 20 R290. -/
theorem test_clz : resOf (exec (.clz 1 s5) (t5 0 0)) = word 64 1 := by decide +kernel
/-- 20 R291. -/
theorem test_cmp_signed : resOf (exec (.cmp 1 s5 s6 2) (t5 (-1) 0)) = word 1 1 := by decide +kernel
theorem test_cmp_unsigned : resOf (exec (.cmp 1 s5 s6 4) (t5 (-1) 0)) = word 0 1 := by decide +kernel
/-- 20 R289: chol's call at halfword 4. -/
theorem test_call : resOf (exec (.call 19) { lat [] with issue := { pcb := 4, len := 1 } }) = word 5 1 := by decide +kernel

/-- A state whose latch holds lanes in va registers and masks in m registers. -/
def laned (v : List (BitVec 5 × List Nat)) (m : List (BitVec 4 × Word)) : State :=
  let g := v.foldl (fun (r : Regs) x => r.write (vReg false x.1) (.lanes (lanesOf fun i => BitVec.ofNat 32 (x.2.getD i 0)))) {}
  let g := m.foldl (fun r x => r.write (mReg x.1) (.word x.2)) g
  { issue := { slot := 2, regs := g }, ctxs := [(0, { regs := g })] }
/-- The first lanes of a result, and its flags. -/
def lanesGot (n : Nat) (o : Out) : Option (List Nat × BitVec 5) :=
  match resOf o with
  | some (.lanes l, _, f) => some ((l.take n).map (·.toNat), f)
  | _ => none
def vo (vd va vb vc : BitVec 5) (m ty : BitVec 4) : VR := ⟨vd, va, false, vb, false, vc, false, m, ty, 0, false, false, false, 0⟩
/-- 23 R347, R348: the worked sums of 2^24, 0, 1 and 1. -/
theorem test_vredadd : lanesGot 3 (exec (.vredadd (vo 2 1 0 0 0 0)) (laned [(1, [0x4B800000, 0, 0x3F800000, 0x3F800000])] []))
    = some ([0x4B800001, 0x4B800001, 0x4B800001], 0) := by decide +kernel
theorem test_vscan : lanesGot 5 (exec (.vscan (vo 3 1 0 0 0 0)) (laned [(1, [0x4B800000, 0, 0x3F800000, 0x3F800000])] []))
    = some ([0x4B800000, 0x4B800000, 0x4B800000, 0x4B800000, 0x4B800000], 0x10) := by decide +kernel
/-- 23 R349: the worked orders of 3.0, NaN, -1.0 and 3.0. -/
def unordered : State := laned [(1, [0x40400000, 0x7FC00000, 0xBF800000, 0x40400000]), (2, [9, 9, 9, 9, 7])] [(5, 0xF)]
theorem test_vord : lanesGot 5 (exec (.vord (vo 2 1 0 0 5 0)) unordered) = some ([2, 0, 3, 1, 7], 0) := by decide +kernel
theorem test_vord_desc : lanesGot 5 (exec (.vord (vo 2 1 0 1 5 0)) unordered) = some ([1, 0, 3, 2, 7], 0) := by decide +kernel
/-- 23 R340: part 1 of a register of fp16 elements. -/
theorem test_vcvt_widens : lanesGot 3 (exec (.vcvt ⟨5, 4, false, 0, 0x31, 0x32, 0, false, false, false, 1⟩)
    (laned [(4, List.replicate 32 0 ++ [0xFC00, 0x3C00])] [])) = some ([0xFF800000, 0x00000000, 0x3F800000], 0) := by decide +kernel
/-- 23 R340: 0x3F808000 lies halfway between two bf16 values. -/
theorem test_vcvt_ties_to_even : lanesGot 1 (exec (.vcvt ⟨6, 5, false, 0, 0x32, 0x30, 0, false, false, false, 0⟩)
    (laned [(5, [0x3F808000])] [])) = some ([0x3F80], 0x10) := by decide +kernel

/-- 21 R302: the worked FILL of lanes 40 to 63 of a skewed column, and its error. -/
theorem test_fill : wordAt 0x128B4 (exec (.fill ⟨⟨4, false⟩, s5, ⟨6, false⟩, 2, false⟩) (lat [(4, 0x10500), (5, 0x2818), (6, 7)])) = some 7 := by
  decide +kernel
theorem test_fill_size : trapOf (exec (.fill ⟨⟨4, false⟩, s5, ⟨6, false⟩, 2, false⟩) (lat [(4, 0x10500), (5, 0x2819)])) = some (0x18, 6) := by
  decide +kernel
/-- 12 R216, 20 R301: the worked skewed DSTO address. -/
theorem test_dsto_skew : dstoAddr { consts := [0, 0, 0, 0, 0x10000, 0x40000] } 4 true 4 70 130 = (0x58620, true) := by decide +kernel
/-- 05 Table 5-6: rows of 10.7, 300, 7.0 and -0.7. -/
def rounded (c : Nat) (n d : Int) (rm r : Nat) (sat : Bool) : Option (Nat × Flags) :=
  (Fmt.ofCode c).map fun f => roundTo ((ExactNum.ofInt n).div (ExactNum.ofInt d)).1 f rm r sat false
theorem test_roundTo_draw : rounded 4 107 10 4 0x4CCCCCCD false = some (0x5B, 0x10) ∧ rounded 4 107 10 4 0x4CCCCCCC false = some (0x5A, 0x10) := by
  decide +kernel
theorem test_roundTo_overflow : rounded 4 300 1 0 0 false = some (0x7F, 0x14) ∧ rounded 4 300 1 1 0 false = some (0x7E, 0x14)
    ∧ rounded 12 300 1 0 0 false = some (0x80, 0x14) ∧ rounded 12 300 1 0 0 true = some (0x7F, 0x14) ∧ rounded 0x20 7 1 0 0 false = some (7, 0x14) := by
  decide +kernel
theorem test_roundTo_integer : rounded 0x23 (-3) 10 0 0 false = some (0, 0x10) ∧ rounded 0x23 (-7) 10 0 0 false = some (0, 1) := by decide +kernel
/-- 05 R91: the worked element 0x5A of b8p4sx under the scale 0x7D is 2.5. -/
theorem test_decode_scaled : (Fmt.ofCode 4).map (fun f => roundTo ((f.dec 0x5A).scaled 0x7D#8) (.flt f32) 0 0 false false) = some (0x40200000, 0) := by
  decide +kernel
/-- 05 R103: 3 lies below the window of 2^70 and -2^70. -/
theorem test_partial_window : partialOf [(.fin false 1 70 false, 0), (.fin true 1 70 false, 0), (.ofInt 3, 0)] = (0#32, 0#4) := by decide +kernel

end Sys2Proof.Tests
end

/-! PROOFS of O1. The scalar values of Machine/Scalar.lean as operations of the library on bit vectors, the scalar meanings
with full sources, and the scalar words of 04 Table 4-7 read back. -/

namespace Sys2Proof.Machine

/-! ### The values of the entries -/

/-- 20 R296: the truncated quotient modulo 2^64 is the signed division of bit vectors. -/
theorem divWord_eq (a b : Word) : divWord a b = if b = 0#64 then BitVec.allOnes 64 else a.sdiv b := by
  unfold divWord
  congr 1
  apply BitVec.eq_of_toInt_eq
  rw [BitVec.toInt_ofInt, BitVec.toInt_sdiv]

/-- 21 R310: MULH takes the high half of the 128-bit product, which holds the product of two signed words exactly. -/
theorem mulhWord_eq (a b : Word) :
    mulhWord a b = (a.signExtend 128 * b.signExtend 128).extractLsb' 64 64 := by
  have product : a.signExtend 128 * b.signExtend 128 = BitVec.ofInt 128 (a.toInt * b.toInt) := by
    rw [BitVec.ofInt_mul]
    rfl
  unfold mulhWord
  rw [product]
  apply BitVec.eq_of_toNat_eq
  simp only [BitVec.extractLsb'_toNat, BitVec.toNat_ofInt, Nat.shiftRight_eq_div_pow, Nat.reducePow, Int.reducePow]
  omega

/-- 21 Table 21-4. -/
theorem maxWord_eq (a b : Word) : maxWord a b = if a.slt b then b else a := by
  simp only [maxWord, BitVec.slt_iff_toInt_lt]

/-- 21 Table 21-4. -/
theorem minWord_eq (a b : Word) : minWord a b = if b.slt a then b else a := by
  simp only [minWord, BitVec.slt_iff_toInt_lt]

/-- 22 R322: a left shift by the width or more leaves nothing. -/
theorem shlWord_eq (a : Word) (c : Nat) : shlWord a c = a <<< c := by
  unfold shlWord
  split
  case isTrue h => rw [BitVec.shiftLeft_eq_zero h]
  case isFalse => rfl

/-- 22 R322: a right shift by the width or more leaves nothing. -/
theorem shrWord_eq (a : Word) (c : Nat) : shrWord a c = a >>> c := by
  unfold shrWord
  split
  case isTrue h => rw [BitVec.ushiftRight_eq_zero h]
  case isFalse => rfl

/-- 22 R322: an arithmetic shift by the width or more leaves the sign everywhere. -/
theorem sarWord_eq (a : Word) (c : Nat) : sarWord a c = a.sshiftRight c := by
  unfold sarWord
  split
  case isTrue h =>
    rw [show a.getLsbD 63 = a.msb from (BitVec.msb_eq_getLsbD_last a).symm]
    cases sign : a.msb
    · rw [BitVec.sshiftRight_eq_of_msb_false sign, BitVec.ushiftRight_eq_zero h]
      rfl
    · rw [BitVec.sshiftRight_eq_of_msb_true sign, BitVec.ushiftRight_eq_zero h]
      rfl
  case isFalse => rfl

/-- 20 R290: with k leading zero bits, a nonzero word lies between 2^(63-k) and 2^(64-k), so its logarithm is 63 - k. -/
theorem clzNat_eq (x : Word) : BitVec.ofNat 64 (clzNat 64 x.toNat) = x.clz := by
  by_cases hx : x = 0#64
  · subst hx
    decide
  · have nonzero : x.toNat ≠ 0 := fun h => hx (BitVec.eq_of_toNat_eq h)
    have count : x.clz.toNat < 64 := by simpa [BitVec.lt_def] using BitVec.clz_lt_iff_ne_zero.mpr hx
    have lower := BitVec.two_pow_sub_clz_le_toNat_of_ne_zero (by decide) hx
    have upper := BitVec.toNat_lt_two_pow_sub_clz (x := x)
    have log : x.toNat.log2 = 63 - x.clz.toNat := by
      rw [Nat.log2_eq_iff nonzero, show 63 - x.clz.toNat + 1 = 64 - x.clz.toNat by omega]
      exact ⟨lower, upper⟩
    apply BitVec.eq_of_toNat_eq
    rw [clzNat, if_neg nonzero, log, BitVec.toNat_ofNat]
    omega

/-- The count of the low n + 1 bits, taken from its top bit, where popcNat takes it from its lowest. -/
theorem popcNat_succ_top (n x : Nat) : popcNat (n + 1) x = popcNat n x + (x.testBit n).toNat := by
  induction n generalizing x with
  | zero => rw [Nat.toNat_testBit]; simp [popcNat]
  | succ n ih =>
    calc popcNat (n + 2) x = x % 2 + popcNat (n + 1) (x / 2) := rfl
      _ = x % 2 + popcNat n (x / 2) + ((x / 2).testBit n).toNat := by rw [ih, Nat.add_assoc]
      _ = popcNat (n + 1) x + (x.testBit (n + 1)).toNat := by rw [Nat.testBit_add_one]; rfl

/-- The library's count of the low n bits of a bit vector is popcNat's. -/
theorem cpopNatRec_eq_popcNat {w : Nat} (x : BitVec w) (n acc : Nat) :
    x.cpopNatRec n acc = acc + popcNat n x.toNat := by
  induction n generalizing acc with
  | zero => rfl
  | succ n ih => rw [BitVec.cpopNatRec_succ, ih, popcNat_succ_top, BitVec.testBit_toNat]; omega

/-- 22 R317. -/
theorem popcNat_eq (x : Word) : BitVec.ofNat 64 (popcNat 64 x.toNat) = x.cpop := by
  rw [BitVec.cpop, cpopNatRec_eq_popcNat, Nat.zero_add]

/-! ### The shapes of the scalar meanings with full sources -/

/-- Two register sources. -/
theorem alu2_full {s : State} {d : BitVec 6} {a b : Src} (lat : Nat) (f : Word → Word → Word)
    (h : s.full [srcOf a 0, srcOf b 1]) : alu2 d a b lat f s = s.resultS d lat (f (s.sVal a) (s.sVal b)) :=
  reading_full _ h

/-- One register source. -/
theorem alu1_full {s : State} {d : BitVec 6} {a : Src} (f : Word → Word) (h : s.full [srcOf a 0]) :
    alu1 d a f s = s.resultS d 1 (f (s.sVal a)) :=
  reading_full _ h

/-- One register source and an immediate. -/
theorem aluImm_full {s : State} {d : BitVec 6} {a : Src} (imm : BitVec 13) (f : Word → Word → Word)
    (h : s.full [srcOf a 0]) : aluImm d a imm f s = s.resultS d 1 (f (s.sVal a) (s.imm imm)) :=
  reading_full _ h

end Sys2Proof.Machine

namespace Sys2Proof.Laws

/-! ### The fields of a scalar word -/

/-- Format S.I of 04 Table 4-7, from the opcode down. -/
theorem fields_of_scalarI (opc d ra : BitVec 6) (pa : Bool) (imm : BitVec 13) :
    let w : BitVec 32 := opc ++ d ++ ra ++ BitVec.ofBool pa ++ imm
    w.extractLsb' 26 6 = opc ∧ w.extractLsb' 20 6 = d ∧ srcAt w 14 13 = ⟨ra, pa⟩ ∧ w.extractLsb' 0 13 = imm := by
  have polA : (opc ++ d ++ ra ++ BitVec.ofBool pa ++ imm).getLsbD 13 = pa := by
    simp only [BitVec.getLsbD_append]
    simp
  simp (disch := decide) only [srcAt, polA, BitVec.extractLsb'_append_eq_of_le, BitVec.extractLsb'_append_eq_of_add_le,
    Nat.reduceSub, BitVec.extractLsb'_eq_self, and_self]

/-- Format S.R of 04 Table 4-7, from the opcode down. -/
theorem fields_of_scalarR (opc d ra rb : BitVec 6) (pa pb : Bool) (fn : BitVec 6) :
    let w : BitVec 32 := opc ++ d ++ ra ++ BitVec.ofBool pa ++ rb ++ BitVec.ofBool pb ++ fn
    w.extractLsb' 26 6 = opc ∧ w.extractLsb' 20 6 = d ∧ srcAt w 14 13 = ⟨ra, pa⟩ ∧ srcAt w 7 6 = ⟨rb, pb⟩ := by
  have polA : (opc ++ d ++ ra ++ BitVec.ofBool pa ++ rb ++ BitVec.ofBool pb ++ fn).getLsbD 13 = pa := by
    simp only [BitVec.getLsbD_append]
    simp
  have polB : (opc ++ d ++ ra ++ BitVec.ofBool pa ++ rb ++ BitVec.ofBool pb ++ fn).getLsbD 6 = pb := by
    simp only [BitVec.getLsbD_append]
    simp
  simp (disch := decide) only [srcAt, polA, polB, BitVec.extractLsb'_append_eq_of_le,
    BitVec.extractLsb'_append_eq_of_add_le, Nat.reduceSub, BitVec.extractLsb'_eq_self, and_self]

/-! ### Check 7 -/

/-- With its lowest m bits spare, a word holds a well-formed instruction exactly when they are zero. -/
theorem checked_low_spare {n m spare : Nat} (high : BitVec n) (low : BitVec m) {i : Instr} (hs : spare = 2 ^ m - 1)
    (wf : i.wf = true) : checked (high ++ low) spare i = if low == 0#m then .ok i else .error .badField := by
  have mask : BitVec.ofNat (n + m) spare = 0#n ++ BitVec.allOnes m := by
    apply BitVec.eq_of_toNat_eq
    have below : 2 ^ m - 1 < 2 ^ (n + m) :=
      Nat.lt_of_lt_of_le (Nat.pred_lt (Nat.ne_of_gt (Nat.two_pow_pos m)))
        (Nat.pow_le_pow_right (by decide) (Nat.le_add_left m n))
    simp [hs, BitVec.toNat_append, Nat.mod_eq_of_lt below]
  have zero : (0#n ++ low == 0#(n + m)) = (low == 0#m) := by
    rw [Bool.eq_iff_iff, beq_iff_eq, beq_iff_eq]
    simp [← BitVec.toNat_inj, BitVec.toNat_append]
  rw [checked, mask, BitVec.and_append, BitVec.and_zero, BitVec.and_allOnes, zero, wf, Bool.and_true]

/-- A word without spare bits holds its well-formed instruction. -/
theorem checked_no_spare {n : Nat} (w : BitVec n) {i : Instr} (h : i.wf = true) : checked w 0 i = .ok i := by
  simp [checked, h]

/-! ### The decoder at one opcode -/

section
variable {w : BitVec 32}

theorem decodeScalar_clz (h : w.extractLsb' 26 6 = 0x0A#6) :
    decodeScalar w = checked w 0x1FFF (.clz (w.extractLsb' 20 6) (srcAt w 14 13)) := by
  simp only [decodeScalar, h]
  rfl

theorem decodeScalar_div (h : w.extractLsb' 26 6 = 0x0D#6) :
    decodeScalar w = checked w 0x3F (.div (w.extractLsb' 20 6) (srcAt w 14 13) (srcAt w 7 6)) := by
  simp only [decodeScalar, h]
  rfl

theorem decodeScalar_xor (h : w.extractLsb' 26 6 = 0x29#6) :
    decodeScalar w = checked w 0x3F (.xor (w.extractLsb' 20 6) (srcAt w 14 13) (srcAt w 7 6)) := by
  simp only [decodeScalar, h]
  rfl

theorem decodeScalar_xori (h : w.extractLsb' 26 6 = 0x2A#6) :
    decodeScalar w = checked w 0 (.xori (w.extractLsb' 20 6) (srcAt w 14 13) (w.extractLsb' 0 13)) := by
  simp only [decodeScalar, h]
  rfl

end

/-! ### The words of CLZ, DIV, XOR and XORI -/

theorem decodeScalar_clz_word (d ra : BitVec 6) (pa : Bool) (x : BitVec 13) :
    decodeScalar (0x0A#6 ++ d ++ ra ++ BitVec.ofBool pa ++ x) =
      if x == 0#13 then .ok (.clz d ⟨ra, pa⟩) else .error .badField := by
  obtain ⟨opcode, dest, srcA, -⟩ := fields_of_scalarI 0x0A#6 d ra pa x
  rw [decodeScalar_clz opcode, dest, srcA]
  exact checked_low_spare _ x (by decide) rfl

theorem decodeScalar_div_word (d ra rb : BitVec 6) (pa pb : Bool) (fn : BitVec 6) :
    decodeScalar (0x0D#6 ++ d ++ ra ++ BitVec.ofBool pa ++ rb ++ BitVec.ofBool pb ++ fn) =
      if fn == 0#6 then .ok (.div d ⟨ra, pa⟩ ⟨rb, pb⟩) else .error .badField := by
  obtain ⟨opcode, dest, srcA, srcB⟩ := fields_of_scalarR 0x0D#6 d ra rb pa pb fn
  rw [decodeScalar_div opcode, dest, srcA, srcB]
  exact checked_low_spare _ fn (by decide) rfl

theorem decodeScalar_xor_word (d ra rb : BitVec 6) (pa pb : Bool) (fn : BitVec 6) :
    decodeScalar (0x29#6 ++ d ++ ra ++ BitVec.ofBool pa ++ rb ++ BitVec.ofBool pb ++ fn) =
      if fn == 0#6 then .ok (.xor d ⟨ra, pa⟩ ⟨rb, pb⟩) else .error .badField := by
  obtain ⟨opcode, dest, srcA, srcB⟩ := fields_of_scalarR 0x29#6 d ra rb pa pb fn
  rw [decodeScalar_xor opcode, dest, srcA, srcB]
  exact checked_low_spare _ fn (by decide) rfl

theorem decodeScalar_xori_word (d ra : BitVec 6) (pa : Bool) (imm : BitVec 13) :
    decodeScalar (0x2A#6 ++ d ++ ra ++ BitVec.ofBool pa ++ imm) = .ok (.xori d ⟨ra, pa⟩ imm) := by
  obtain ⟨opcode, dest, srcA, value⟩ := fields_of_scalarI 0x2A#6 d ra pa imm
  rw [decodeScalar_xori opcode, dest, srcA, value]
  exact checked_no_spare _ rfl

end Sys2Proof.Laws

namespace Sys2Proof.Machine

/-- Settles O1: with full sources each meaning is its value's function applied to what the sources hold, and each such
function is the library's operation on bit vectors. -/
theorem scalarResults : Obligations.ScalarResults := by
  unfold Obligations.ScalarResults
  refine ⟨fun d a b s h => ?_, fun d a imm c s h => ?_, fun d ra rb fn pa pb imm x => ?_⟩
  · have value (lat : Nat) (f : Word → Word → Word) :
        alu2 d a b lat f s = s.resultS d lat (f (s.sVal a) (s.sVal b)) := alu2_full lat f h
    simp only [exec, execAdd, execSub, execAnd, execAndn, execOr, execXor, execMul, execMulh, execDiv, execMax, execMin,
      execShl, execShr, execSar, value, mulhWord_eq, divWord_eq, maxWord_eq, minWord_eq, shlWord_eq, shrWord_eq, sarWord_eq,
      and_self]
  · intro x v
    have value (f : Word → Word) : alu1 d a f s = s.resultS d 1 (f x) := alu1_full f h
    have valueImm (f : Word → Word → Word) : aluImm d a imm f s = s.resultS d 1 (f x v) := aluImm_full imm f h
    have immediate : s.imm imm = v := rfl
    simp only [exec, execAddi, execAndi, execOri, execXori, execLi, execMov, execClz, execPopc, execShlImm, execShrImm,
      execSarImm, value, valueImm, immediate, clzNat_eq, popcNat_eq, shlWord_eq, shrWord_eq, sarWord_eq, id_eq, and_self]
  · exact ⟨Laws.decodeScalar_clz_word d ra pa x, Laws.decodeScalar_div_word d ra rb pa pb fn,
      Laws.decodeScalar_xor_word d ra rb pa pb fn, Laws.decodeScalar_xori_word d ra pa imm, rfl⟩

end Sys2Proof.Machine

/-! PROOFS of O2. The conditions of CMP and CMPI as comparisons of the library, the meanings of CMP, CMPI and SEL with full
sources, the yield to an empty source of the block policy, and the word of SEL read back. -/

namespace Sys2Proof.Machine

/-! ### The six conditions -/

section
variable (p q : Word)

theorem condCmp_eq : condCmp 0 p q = (p == q) := rfl
theorem condCmp_ne : condCmp 1 p q = (p != q) := rfl
theorem condCmp_lt : condCmp 2 p q = p.slt q := rfl
theorem condCmp_ge : condCmp 3 p q = q.sle p := rfl
theorem condCmp_ltn : condCmp 4 p q = p.ult q := rfl
/-- condCmp takes every number from 5 up as gen; the decoder lets only 5 through. -/
theorem condCmp_gen (n : Nat) : condCmp (n + 5) p q = q.ule p := rfl

end

/-! ### CMP, CMPI and SEL with full sources -/

section
variable {s : State} {d : BitVec 6} {a b : Src}

theorem exec_cmp_full (cond : BitVec 6) (h : s.full [srcOf a 0, srcOf b 1]) :
    exec (.cmp d a b cond) s =
      .next (s.resultS d 1 (boolWord (condCmp cond.toNat (s.sVal a) (s.sVal b)))) :=
  congrArg Host.Outcome.next (alu2_full 1 _ h)

theorem exec_cmpi_full (imm : BitVec 10) (cond : BitVec 3) (h : s.full [srcOf a 0]) :
    exec (.cmpi d a imm cond) s =
      .next (s.resultS d 1 (boolWord (condCmp cond.toNat (s.sVal a) (s.imm10 imm)))) :=
  congrArg Host.Outcome.next (reading_full _ h)

theorem exec_sel_full {c : BitVec 6} (h : s.full [srcOf a 0, srcOf b 1, ⟨sReg c, false, 3⟩]) :
    exec (.sel d a b c) s =
      .next (s.resultS d 1 (if s.issue.regs.sGet c = 0#64 then s.sVal b else s.sVal a)) := by
  have chosen : (if s.issue.regs.sGet c != 0#64 then s.sVal a else s.sVal b) =
      if s.issue.regs.sGet c = 0#64 then s.sVal b else s.sVal a := by
    simp only [bne_iff_ne, ne_eq, ite_not]
  rw [← chosen]
  exact congrArg Host.Outcome.next (reading_full _ h)

end

/-! ### Empty sources of the block policy -/

/-- No source raises EMPTY_READ when every empty one has the block policy. -/
theorem lowestTrap_eq_none {l : Latch} {srcs : List Source}
    (block : ∀ x ∈ srcs, l.regs.isEmpty x.reg = true → x.pol = false) : lowestTrap l srcs = none := by
  induction srcs with
  | nil => rfl
  | cons x xs ih =>
    obtain ⟨head, tail⟩ := List.forall_mem_cons.mp block
    have passed : ¬(l.regs.isEmpty x.reg && x.pol) = true := by
      rw [Bool.and_eq_true]
      rintro ⟨empty, trap⟩
      exact absurd trap (by simp [head empty])
    rw [lowestTrap, if_neg passed, ih tail]

/-- 04 R69: a slot with an empty source yields when every empty one has the block policy. -/
theorem reading_block {s : State} {srcs : List Source} (k : State → State) {x : Source} (mem : x ∈ srcs)
    (empty : s.issue.regs.isEmpty x.reg = true)
    (block : ∀ y ∈ srcs, s.issue.regs.isEmpty y.reg = true → y.pol = false) :
    s.reading srcs k = { s.yields with issue := { s.yields.issue with empty := true } } := by
  have notFull : ¬(srcs.all fun y => !s.issue.regs.isEmpty y.reg) = true := by
    intro full
    simpa [empty] using List.all_eq_true.mp full x mem
  rw [State.reading, if_neg notFull, lowestTrap_eq_none block]

/-- 22 R323: with its other sources full, SEL waits for its condition register. -/
theorem exec_sel_condition_empty {s : State} {d c : BitVec 6} {a b : Src} (full : s.full [srcOf a 0, srcOf b 1])
    (empty : s.issue.regs.isEmpty (sReg c) = true) :
    exec (.sel d a b c) s = .next { s.yields with issue := { s.yields.issue with empty := true } } := by
  have block : ∀ x ∈ [srcOf a 0, srcOf b 1, ⟨sReg c, false, 3⟩], s.issue.regs.isEmpty x.reg = true → x.pol = false := by
    intro x mem isEmpty
    obtain operand | condition := List.mem_append.mp (show x ∈ [srcOf a 0, srcOf b 1] ++ [⟨sReg c, false, 3⟩] from mem)
    · exact absurd isEmpty (by simp [full x operand])
    · rw [List.mem_singleton.mp condition]
  exact congrArg Host.Outcome.next (reading_block _ (x := ⟨sReg c, false, 3⟩) (by simp) empty block)

end Sys2Proof.Machine

namespace Sys2Proof.Laws

/-! ### The word of SEL -/

/-- FN of format S.R, 04 Table 4-7. -/
theorem fn_of_scalarR (opc d ra rb : BitVec 6) (pa pb : Bool) (fn : BitVec 6) :
    (opc ++ d ++ ra ++ BitVec.ofBool pa ++ rb ++ BitVec.ofBool pb ++ fn).extractLsb' 0 6 = fn :=
  BitVec.extractLsb'_append_eq_right

theorem decodeScalar_sel {w : BitVec 32} (h : w.extractLsb' 26 6 = 0x21#6) :
    decodeScalar w =
      checked w 0 (.sel (w.extractLsb' 20 6) (srcAt w 14 13) (srcAt w 7 6) (w.extractLsb' 0 6)) := by
  simp only [decodeScalar, h]
  rfl

theorem decodeScalar_sel_word (d ra rb : BitVec 6) (pa pb : Bool) (c : BitVec 6) :
    decodeScalar (0x21#6 ++ d ++ ra ++ BitVec.ofBool pa ++ rb ++ BitVec.ofBool pb ++ c) =
      .ok (.sel d ⟨ra, pa⟩ ⟨rb, pb⟩ c) := by
  obtain ⟨opcode, dest, srcA, srcB⟩ := fields_of_scalarR 0x21#6 d ra rb pa pb c
  rw [decodeScalar_sel opcode, dest, srcA, srcB, fn_of_scalarR]
  exact checked_no_spare _ rfl

end Sys2Proof.Laws

namespace Sys2Proof.Machine

/-- Settles O2: each of the six conditions is the library's comparison, SEL chooses by its condition register, and reading
that register empty, of the block policy, only yields. -/
theorem compareAndSelectResults : Obligations.CompareAndSelectResults := by
  unfold Obligations.CompareAndSelectResults
  intro d a b imm c s x y v holds
  have written (n : Nat) (p q : Word) : boolWord (condCmp n p q) = holds n p q :=
    match n with
    | 0 => congrArg boolWord (condCmp_eq p q)
    | 1 => congrArg boolWord (condCmp_ne p q)
    | 2 => congrArg boolWord (condCmp_lt p q)
    | 3 => congrArg boolWord (condCmp_ge p q)
    | 4 => congrArg boolWord (condCmp_ltn p q)
    | n + 5 => congrArg boolWord (condCmp_gen p q n)
  have immediate : s.imm10 imm = v := rfl
  refine ⟨fun full n _ => ?cmp, fun full n _ => ?cmpi, fun full => ?sel, fun full empty => ?yield, ?word⟩
  case cmp => rw [exec_cmp_full n full, written]
  case cmpi => rw [exec_cmpi_full imm n full, immediate, written]
  case sel => exact exec_sel_full full
  case yield => exact ⟨_, exec_sel_condition_empty full empty, rfl, rfl, rfl, rfl⟩
  case word => exact Laws.decodeScalar_sel_word d a.reg b.reg a.pol b.pol c

end Sys2Proof.Machine

/-! PROOFS of O18. Lists of 64 lanes and masks of 64 bits read at an index, the lane loop without flags, the conditions of
VCMP on integer and f32 lanes, the pop of a queue, and the word of VPOP read back. -/

namespace Sys2Proof.Machine

/-! ### Lists of lanes and masks at an index -/

theorem nth_eq_getD {α : Type} (d : α) : ∀ (l : List α) (i : Nat), nth d l i = l.getD i d
  | [], _ => rfl
  | _ :: _, 0 => rfl
  | _ :: l, i + 1 => (nth_eq_getD d l i).trans List.getD_cons_succ.symm

@[simp] theorem lane_lanesOf (f : Nat → Lane) {i : Nat} (h : i < 64) : lane (lanesOf f) i = f i := by
  simp [lane, nth_eq_getD, lanesOf, upto, h]

/-- Only the lanes 0 to 63 count. -/
theorem lanesOf_congr {f g : Nat → Lane} (h : ∀ i, i < 64 → f i = g i) : lanesOf f = lanesOf g :=
  List.map_congr_left fun i mem => h i (List.mem_range.mp mem)

/-- A mask built from its lowest n bits holds them and no other. -/
theorem getLsbD_foldl_twoPow (f : Nat → Bool) {n i : Nat} (hi : i < 64) :
    ((List.range n).foldl (fun w j => if f j then w ||| BitVec.twoPow 64 j else w) 0#64).getLsbD i =
      (decide (i < n) && f i) := by
  induction n with
  | zero => simp
  | succ n ih =>
    rw [List.range_succ, List.foldl_append, List.foldl_cons, List.foldl_nil, apply_ite (BitVec.getLsbD · i),
      BitVec.getLsbD_or, BitVec.getLsbD_twoPow, ih]
    by_cases last : i = n
    · subst last
      cases f i <;> simp [hi]
    · have below : i < n + 1 ↔ i < n := by omega
      simp [below, Ne.symm last]

theorem getLsbD_maskOf (f : Nat → Bool) {i : Nat} (h : i < 64) : (maskOf f).getLsbD i = f i := by
  rw [maskOf, upto, getLsbD_foldl_twoPow f h, decide_eq_true h, Bool.true_and]

/-! ### A lane loop that raises no flag -/

theorem unionFlags_eq_zero {l : List Flags} (h : ∀ g ∈ l, g = 0#5) : unionFlags l = 0#5 := by
  rw [List.eq_replicate_of_mem h, unionFlags]
  induction l.length with
  | zero => rfl
  | succ n ih => exact ih

theorem lowestEnabled_eq_none (en : Flags) {l : List (Nat × Flags)} (h : ∀ x ∈ l, x.2 = 0#5) :
    lowestEnabled en l = none := by
  induction l with
  | nil => rfl
  | cons x l ih =>
    obtain ⟨head, tail⟩ := List.forall_mem_cons.mp h
    simp [lowestEnabled, head, ih tail]

/-- 05 R98, R99: without a flag nothing traps, and the result lands with no flag. -/
theorem vecResult_noFlags (s : State) (d : RegName) (lat : Nat) (v : RegVal) {flags : List (Nat × Flags)}
    (h : ∀ x ∈ flags, x.2 = 0#5) : s.vecResult d lat v flags false = s.result d lat v 0#5 := by
  have union : unionFlags (flags.map (·.2)) = 0#5 := unionFlags_eq_zero (List.forall_mem_map.mpr h)
  simp [State.vecResult, lowestEnabled_eq_none _ h, union]

/-- 01 Table 1-5: the active lanes take f's values, the others keep the old ones. -/
theorem lanes_quiet (s : State) (d : RegName) (m : Word) (lat : Nat) (f : Nat → Lane) :
    s.lanes d m lat false (fun i => quiet (f i)) =
      s.result d lat (.lanes (lanesOf fun i => if m.getLsbD i then f i else lane (s.oldVec d) i)) 0#5 := by
  have lanes : ∀ i, (if m.getLsbD i then quiet (f i) else (lane (s.oldVec d) i, 0#5)) =
      quiet (if m.getLsbD i then f i else lane (s.oldVec d) i) := fun i => by split <;> rfl
  simp only [State.lanes, lanes, List.map_map]
  refine vecResult_noFlags s d lat _ fun x mem => ?_
  obtain ⟨i, -, flags⟩ := List.mem_map.mp (List.of_mem_zip mem).2
  exact flags.symm

/-! ### The conditions of VCMP, 23 R338 -/

/-- The six conditions over the values that the lanes stand for. -/
def intCond (n : Nat) (p q : Int) : Bool :=
  match n with
  | 0 => p == q
  | 1 => p != q
  | 2 => p < q
  | 3 => p ≤ q
  | 4 => q < p
  | _ => q ≤ p

/-- The magnitude bits of an f32 lane. -/
def f32Mag (x : Lane) : Nat := (x &&& 0x7FFFFFFF#32).toNat

/-- The number that orders an f32 lane among those that are no NaN: its magnitude bits under its sign, 0 for a subnormal that
ZI reads as 0. -/
def f32Order (zi : Bool) (x : Lane) : Int :=
  if zi && f32Mag x < 0x800000 then 0 else if x.getLsbD 31 then -(f32Mag x : Int) else f32Mag x

theorem f32Mag_eq_mod (x : Lane) : f32Mag x = x.toNat % 2 ^ 31 := by
  rw [f32Mag, BitVec.toNat_and]
  exact Nat.and_two_pow_sub_one_eq_mod _ 31

theorem isNan32_eq (x : Lane) : isNan32 x = decide (0x7F800000 < f32Mag x) := by
  rw [f32Mag_eq_mod]
  rfl

theorem isSubnormal_eq (x : Lane) :
    f32.isSubnormal x.toNat = (!isNan32 x && f32Mag x != 0 && decide (f32Mag x < 0x800000)) := by
  rw [f32Mag_eq_mod]
  rfl

theorem realKey_eq (x : Lane) : realKey x = if x.getLsbD 31 then -(f32Mag x : Int) else f32Mag x := by
  rw [f32Mag_eq_mod]
  simp [realKey]

/-- A lane without magnitude bits is a zero, of either sign. -/
theorem realKey_sign_bit (x : Lane) : realKey (x &&& 0x80000000#32) = 0 := by
  have zero : f32Mag (x &&& 0x80000000#32) = 0 := by
    rw [f32Mag, BitVec.and_assoc]
    exact congrArg BitVec.toNat (BitVec.and_zero (x := x))
  rw [realKey_eq, zero]
  exact ite_self _

/-- 05 R96: the real value of a lane that is no NaN, as ZI reads it. -/
theorem realKey_flush (zi : Bool) {x : Lane} (number : isNan32 x = false) : realKey (flush zi x) = f32Order zi x := by
  rw [flush, isSubnormal_eq, number, f32Order, ← realKey_eq]
  by_cases low : (zi && decide (f32Mag x < 0x800000)) = true
  · rw [if_pos low]
    by_cases zero : f32Mag x = 0
    · simp [zero, realKey_eq]
    · rw [if_pos (by simpa [zero] using low), realKey_sign_bit]
  · have kept : ¬(zi && (!false && f32Mag x != 0 && decide (f32Mag x < 0x800000))) = true := fun flushed => by
      obtain ⟨hzi, ⟨-, hlow⟩⟩ := by simpa using flushed
      exact low (by simp [hzi, hlow])
    rw [if_neg low, if_neg kept]

theorem condLane_int {o : VR} (h : o.ty ≠ 0#4) (a b : Lane) :
    condLane o a b = intCond o.vc.toNat (intLane o.ty a) (intLane o.ty b) := by
  simp only [condLane, h, decide_false, Bool.false_and, Bool.not_false, Bool.true_and, Bool.false_or, if_false]
  rfl

/-- A NaN makes every condition false but ne. -/
theorem condLane_nan {o : VR} (h : o.ty = 0#4) {a b : Lane} (nan : isNan32 a = true ∨ isNan32 b = true) :
    condLane o a b = (o.vc.toNat == 1) := by
  have unordered : (isNan32 a || isNan32 b) = true := by simpa using nan
  simp only [condLane, h, decide_true, unordered, Bool.and_true, Bool.not_true, Bool.false_and, Bool.true_or]
  split <;> simp_all

theorem condLane_numbers {o : VR} (h : o.ty = 0#4) {a b : Lane} (ha : isNan32 a = false) (hb : isNan32 b = false) :
    condLane o a b = intCond o.vc.toNat (f32Order o.zi a) (f32Order o.zi b) := by
  simp only [condLane, h, ha, hb, realKey_flush, decide_true, Bool.or_false, Bool.and_false, Bool.not_false, Bool.true_and,
    Bool.false_or, if_true]
  rfl

theorem condLane_float {o : VR} (h : o.ty = 0#4) (a b : Lane) :
    condLane o a b = if 0x7F800000 < f32Mag a || 0x7F800000 < f32Mag b then o.vc.toNat == 1
      else intCond o.vc.toNat (f32Order o.zi a) (f32Order o.zi b) := by
  simp only [← isNan32_eq]
  split
  case isTrue nan => exact condLane_nan h (by simpa using nan)
  case isFalse number =>
    obtain ⟨ha, hb⟩ := by simpa using number
    exact condLane_numbers h ha hb

/-! ### The instructions with full sources -/

section
variable {s : State} {va vd : BitVec 5} {pa qp : Bool} {mk : BitVec 4} {q : BitVec 3}

/-- 23 R338: the destination mask has the condition in its active lanes, its old bits in the others, and raises no flag. -/
theorem exec_vcmp_full {o : VR} (h : s.full (s.vrSources o 2)) :
    ∃ w : Word, exec (.vcmp o) s = .next (s.result (mReg (o.vd.setWidth 4)) 4 (.word w) 0#5)
      ∧ ∀ i, i < 64 → w.getLsbD i =
        if (s.mVal o.msk).getLsbD i then condLane o (lane (s.vrA o) i) (lane (s.vrB o) i)
        else (s.cur.regs.mGet (o.vd.setWidth 4)).getLsbD i :=
  ⟨_, congrArg Host.Outcome.next (reading_full _ h), fun _ hi => getLsbD_maskOf _ hi⟩

theorem exec_vext_full (d ln : BitVec 6) (ty : BitVec 4) (bp : Bool) (h : s.full [⟨vReg s.clusterB va, pa, 0⟩]) :
    let x := lane (s.vVal s.clusterB va) (if bp then s.bpVal.toNat % 64 else ln.toNat)
    exec (.vext d va pa ln ty bp) s =
      .next (s.resultS d 4 (if ty = 1#4 then x.signExtend 64 else x.setWidth 64)) := by
  have index : (if bp then s.bpVal.setWidth 6 else ln).toNat = if bp then s.bpVal.toNat % 64 else ln.toNat := by
    rw [apply_ite BitVec.toNat, BitVec.toNat_setWidth]
  intro x
  rw [show x = lane (s.vVal s.clusterB va) _ from rfl, ← index]
  exact congrArg Host.Outcome.next (reading_full _ h)

theorem exec_vmask_full (d : BitVec 6) (h : s.full [⟨mReg mk, false, 3⟩]) :
    exec (.vmask d mk) s = .next (s.resultS d 4 (s.mVal mk)) :=
  congrArg Host.Outcome.next (reading_full _ h)

/-! ### VPOP, 23 R351 -/

theorem queue_popQueue (s : State) (q : BitVec 3) : (s.popQueue q).queue q = (s.queue q).tail := by
  show mget [] ((s.modCore s.curCore _).core s.curCore).queues q.toNat = _
  rw [core_modCore_same]
  exact mget_mset_same _ _ _ _

theorem sameScratch_popQueue (s : State) (q : BitVec 3) : SameScratch s (s.popQueue q) := by
  intro k a
  rw [State.popQueue, core_modCore]
  split <;> rfl

theorem popping_cons {e : Vec} {l : List Vec} (k : Vec → State → State) (h : s.queue q = e :: l) :
    s.popping q qp k = k (lanesOf (lane e)) (s.popQueue q) := by
  rw [State.popping, h]

theorem popping_nil (k : Vec → State → State) (h : s.queue q = []) :
    s.popping q qp k = if qp then s.trap cQueueUnf (q.setWidth 64) else s.yields := by
  rw [State.popping, h]

theorem exec_vpop_full (vd : BitVec 5) (q : BitVec 3) (qp : Bool) (h : s.full [⟨mReg mk, false, 3⟩]) :
    exec (.vpop vd q qp mk) s = .next (s.popping q qp fun e u =>
      u.lanes (vReg u.clusterB vd) (u.mVal mk) 4 false fun i => quiet (lane e i)) :=
  congrArg Host.Outcome.next (reading_full _ h)

theorem exec_vpop_entry {e : Vec} {l : List Vec} (h : s.full [⟨mReg mk, false, 3⟩]) (entry : s.queue q = e :: l) :
    exec (.vpop vd q qp mk) s = .next ((s.popQueue q).result (vReg s.clusterB vd) 4 (.lanes (lanesOf fun i =>
      if (s.mVal mk).getLsbD i then lane e i else lane (s.oldVec (vReg s.clusterB vd)) i)) 0#5) := by
  rw [exec_vpop_full vd q qp h, popping_cons _ entry, lanes_quiet]
  rw [lanesOf_congr fun i hi => by rw [lane_lanesOf (lane e) hi]]
  rfl

/-! ### VRNG, 23 R352 -/

/-- The first counter of VRNG: XIMM, or the low two lanes of VA as one word. -/
def State.rngBase (s : State) (va : BitVec 5) : Word :=
  match s.issue.ximm with
  | some x => x.setWidth 64
  | none => (lane (s.vVal s.clusterB va) 1).setWidth 64 <<< 32 ||| (lane (s.vVal s.clusterB va) 0).setWidth 64

theorem append_eq_shiftLeft_or (hi lo : Lane) : (hi ++ lo : BitVec 64) = hi.setWidth 64 <<< 32 ||| lo.setWidth 64 :=
  (BitVec.setWidth_eq (hi ++ lo)).symm.trans BitVec.setWidth_append_eq_shiftLeft_setWidth_or

theorem exec_vrng_full
    (h : s.full ((if s.issue.ximm.isSome then [] else [⟨vReg s.clusterB va, pa, 0⟩]) ++ [⟨mReg mk, false, 3⟩])) :
    exec (.vrng vd va pa mk) s = .next (s.result (vReg s.clusterB vd) 4 (.lanes (lanesOf fun i =>
      if (s.mVal mk).getLsbD i then mix s.bpVal (s.rngBase va + BitVec.ofNat 64 i)
      else lane (s.oldVec (vReg s.clusterB vd)) i)) 0#5) := by
  rw [← lanes_quiet]
  refine congrArg Host.Outcome.next ((reading_full _ h).trans ?_)
  simp only [append_eq_shiftLeft_or]
  rfl

end

end Sys2Proof.Machine

namespace Sys2Proof.Laws

/-! ### The word of VPOP -/

/-- The layout of 23 R351, from the opcode down; x and y stand in its zero bits. -/
theorem fields_of_vpop (vd : BitVec 5) (q : BitVec 3) (qp : Bool) (x : BitVec 14) (mk : BitVec 4) (y : BitVec 13) :
    let w : BitVec 48 := 0x17#8 ++ vd ++ q ++ BitVec.ofBool qp ++ x ++ mk ++ y
    w.extractLsb' 40 8 = 0x17#8 ∧ w.extractLsb' 35 5 = vd ∧ w.extractLsb' 32 3 = q ∧ w.getLsbD 31 = qp
    ∧ w.extractLsb' 13 4 = mk := by
  have policy : (0x17#8 ++ vd ++ q ++ BitVec.ofBool qp ++ x ++ mk ++ y).getLsbD 31 = qp := by
    simp only [BitVec.getLsbD_append]
    simp
  simp (disch := decide) only [policy, BitVec.extractLsb'_append_eq_of_le, BitVec.extractLsb'_append_eq_of_add_le,
    Nat.reduceSub, BitVec.extractLsb'_eq_self, and_self]

/-- The bits of a word that 23 R351 wants zero. -/
theorem vpop_spare_bits (high : BitVec 17) (x : BitVec 14) (mk : BitVec 4) (y : BitVec 13) :
    ((high ++ x ++ mk ++ y) &&& 0x7FFE1FFF#48) = 0#48 ↔ x = 0#14 ∧ y = 0#13 := by
  have masked : (high ++ x ++ mk ++ y) &&& 0x7FFE1FFF#48 = 0#17 ++ x ++ 0#4 ++ y := by
    show (high ++ x ++ mk ++ y) &&& (0#17 ++ BitVec.allOnes 14 ++ 0#4 ++ BitVec.allOnes 13) = _
    simp only [BitVec.and_append, BitVec.and_zero, BitVec.and_allOnes]
  rw [masked]
  constructor
  · intro zero
    have upper : (0#17 ++ x ++ 0#4 ++ y).extractLsb' 17 14 = x := by
      simp (disch := decide) only [BitVec.extractLsb'_append_eq_of_le, BitVec.extractLsb'_append_eq_of_add_le, Nat.reduceSub,
        BitVec.extractLsb'_eq_self]
    have lower : (0#17 ++ x ++ 0#4 ++ y).extractLsb' 0 13 = y := BitVec.extractLsb'_append_eq_right
    rw [zero] at upper lower
    exact ⟨upper.symm, lower.symm⟩
  · rintro ⟨rfl, rfl⟩
    rfl

theorem decodeVector_vpop {w : BitVec 48} (h : w.extractLsb' 40 8 = 0x17#8) :
    decodeVector w = checked w 0x7FFE1FFF
      (.vpop (w.extractLsb' 35 5) (w.extractLsb' 32 3) (w.getLsbD 31) (w.extractLsb' 13 4)) := by
  simp only [decodeVector, h]
  rfl

theorem decodeVector_vpop_word (vd : BitVec 5) (q : BitVec 3) (qp : Bool) (x : BitVec 14) (mk : BitVec 4) (y : BitVec 13) :
    decodeVector (0x17#8 ++ vd ++ q ++ BitVec.ofBool qp ++ x ++ mk ++ y) =
      if x = 0#14 ∧ y = 0#13 then .ok (.vpop vd q qp mk) else .error .badField := by
  obtain ⟨opcode, dest, queue, policy, mask⟩ := fields_of_vpop vd q qp x mk y
  have wf : (Instr.vpop vd q qp mk).wf = true := rfl
  rw [decodeVector_vpop opcode, dest, queue, policy, mask]
  simp only [checked, wf, Bool.and_true, beq_iff_eq]
  exact ite_congr (propext (vpop_spare_bits _ x mk y)) (fun _ => rfl) (fun _ => rfl)

end Sys2Proof.Laws

namespace Sys2Proof.Machine

/-- Settles O18: VCMP by the condition of each lane type, VPOP by the entry that its queue holds or does not hold, VPOP and
VRNG as lane loops that raise no flag. -/
theorem masksLanesAndQueues : Obligations.MasksLanesAndQueues := by
  unfold Obligations.MasksLanesAndQueues
  intro o d va vd pa bp qp ln ty mk q s m
  refine ⟨fun int full => ?vcmpInt, fun float full => ?vcmpFloat, fun full => ?vext, fun full => ?vmask, rfl,
    fun full e l entry => ?vpop, fun full empty => ?underflow, fun x y => ?word, fun full => ?vrng⟩
  case vcmpInt =>
    intro val a b holds
    have lanes (i : Nat) : condLane o (lane (s.vrA o) i) (lane (s.vrB o) i) = holds i :=
      condLane_int (by rcases int with h | h <;> simp [h]) _ _
    simpa only [lanes] using exec_vcmp_full full
  case vcmpFloat =>
    intro mag num holds
    have lanes (i : Nat) : condLane o (lane (s.vrA o) i) (lane (s.vrB o) i) = holds i := condLane_float float _ _
    simpa only [lanes] using exec_vcmp_full full
  case vext => exact exec_vext_full d ln ty bp full
  case vmask => exact exec_vmask_full d full
  case vpop =>
    have rest : (s.popQueue q).queue q = l := by rw [queue_popQueue, entry, List.tail_cons]
    exact ⟨exec_vpop_entry full entry, rest, sameScratch_popQueue s q, rfl, rfl⟩
  case underflow =>
    simp only [exec_vpop_full _ _ _ full, popping_nil _ empty]
    exact ⟨rfl, rfl⟩
  case word => exact Laws.decodeVector_vpop_word vd q qp x mk y
  case vrng => exact exec_vrng_full full

end Sys2Proof.Machine
